-- ==== Sys2Proof/Word.lean ====
section
/-!
DEFINITION. The word type of the model: the part's buffers, slots, frames and descriptors are sequences of bytes
(R5). Counters, times and field values are natural numbers, reduced to their width where they are reported.
-/
namespace Sys2Proof

/-- One byte of a buffer, a slot, a frame or a memory. -/
abbrev Byte := BitVec 8

end Sys2Proof
end

