-- ==== Sys2Proof/Syntax.lean ====
section
/-!
DEFINITION. The commands of the block: one constructor per row of the opcode table, with the row's operands. What the
spec leaves to the environment (physics, the toolchain's file layouts, the outcome of a test) comes as an operand.
Conventions: log entry 17 (DESIGN CHOICE), log entry 58 (DESIGN CHOICE).
-/
namespace Sys2Proof

/-- A cost record of a package operator (04 R107, R120): steps per item, items if the count is fixed, tiles per item,
as exact fractions, the leave-requesting mark, and the leave figure in mW. -/
structure CostRec where
  /-- coefficient c of R120, numerator and denominator, steps per item; the basis and the tiles per item of an operator are
  those of R338 and R362 -/
  cNum : Nat
  cDen : Nat
  leaveReq : Bool
  leaveMw : Nat
  deriving DecidableEq, Repr

/-- One entry of a package's operator table: the raw descriptor bytes and the cost record. -/
structure OpDecl where
  desc : List Byte
  cost : CostRec
  /-- chunks per segment of the tile layout (09 R267), 0 for none -/
  segLen : Nat
  deriving DecidableEq, Repr

/-- What the framing of a package body yields (04 R107, R560 check 3; log entry 17). -/
structure PkgDecl where
  /-- feature tensor declarations (R319), raw -/
  tensors : List (List Byte)
  /-- bird's-eye map declarations (R342), raw -/
  maps : List (List Byte)
  /-- weight tensors (R314): header and data, raw -/
  weights : List (List Byte × List Byte)
  /-- constant blocks the operators point to, raw -/
  consts : List (List Byte)
  ops : List OpDecl
  /-- largest tile in stall steps -/
  sMax : Nat
  /-- working paddock bytes per die and loft merge-area entries per die -/
  workBytes : Nat
  mergeEntries : Nat
  /-- leave per reserved stall and per 1/256 stage share, mW at Nominal -/
  leaveStall : Nat
  leaveStage : Nat
  deriving DecidableEq, Repr

/-- The correction the firmware's servo chooses after an offset estimate (05 R171). -/
structure Servo where
  step : Int
  /-- the frequency estimate, and what is added to it while a large correction is slewed -/
  rate : Int
  slew : Int
  deriving DecidableEq, Repr

/-- What a gather of a thread fetches from (08 R229). -/
inductive GatherSrc where
  | paddock (cluster addr : Nat)
  | remote (die cluster addr : Nat)
  | memory (die addr : Nat)
  deriving DecidableEq, Repr

/-- A node of the halyard (01 R25): the management processor or a die controller, a pen warden, a stall control port. -/
inductive HalNode where
  | die (d : Nat)
  | warden (d p : Nat)
  | port (d i : Nat)
  deriving DecidableEq, Repr

/-- A gate arbiter of the part (08 R241, 01 R26). -/
inductive ArbId where
  | bank (die cluster bank : Nat)
  | mem (die chan : Nat)
  | link (die link : Nat)
  /-- a node of the tree of R25: 64 × die for a die's own, + 1 + pen for a warden's, + 5 + stall for a port's -/
  | halyard (node : Nat)
  deriving DecidableEq, Repr

/-- One access at a paddock bank port (08 R235, R242): a read, a write, a stall's near-buffer fill of one line, a stall's
next line of its accumulator drain, the paddock engine's next line, and the next line that a unit of the die has to move
there (halo copies, spills, stage outputs, transfers from and to main memory). -/
inductive PaddockAcc where
  | read (addr len : Nat)
  | write (addr : Nat) (data : List Byte)
  | stage (addr line : Nat)
  | drain (addr : Nat)
  | line (addr : Nat)
  | move (addr : Nat)
  deriving DecidableEq, Repr

/-- A sub-channel of the host port, which is commanded on its own (02 R46). -/
structure SubCh where
  ch : Nat
  sub : Nat
  deriving DecidableEq, Repr

/-- What the requesters of an arbiter did since its last decision (08 R243): accesses that the owner made, requests
dropped, requests asserted, one list per instant. -/
structure ArbTurn where
  served : Nat
  drops : List Nat
  arrivals : List (List Nat)
  deriving DecidableEq, Repr

/-- The stop outputs (14 R418). -/
inductive StopOut where
  | a
  | b
  deriving DecidableEq, Repr

/-- The data-path view a unit reports at an audit (01 R38): within-die unit code of R43 and state code of R30. -/
structure UnitObs where
  code : Nat
  view : Nat
  deriving DecidableEq, Repr

/-- What an SRAM scrubber finds in a word, with the corrected bits of its 79 (15 R445). -/
inductive SramErr where
  | none
  | one (bit : Nat)
  | two (a b : Nat)
  | uncorrectable
  deriving DecidableEq, Repr

/-- On whose behalf a memory is read (15 R443, R445). -/
inductive ReadFor where
  | frame (ctx num : Nat)
  | checker (ctx num : Nat)
  | command (slot : Nat)
  | flip (table : Nat)
  | patrol
  | other
  deriving DecidableEq, Repr

/-- Who issues a paddock engine operation (08 R238, R240): stall 0 to 7 with its thread, or 8 for the work distributor, and
the work that the operation is for. -/
structure EngineUser where
  issuer : Nat
  thread : Nat
  for_ : ReadFor
  deriving DecidableEq, Repr

/-- A requester at a paddock's bank ports (08 R242) and the work that its access is for. -/
structure PadUser where
  req : Nat
  for_ : ReadFor
  deriving DecidableEq, Repr

/-- A requester at a main-memory scheduler (08 R241, 15 R439) and the work that its read is for. -/
structure MemUser where
  req : Nat
  for_ : ReadFor
  deriving DecidableEq, Repr

/-- A requester of a write, the work that it is for, and the queued bursts that the devices took since (15 R439). -/
structure MemWriter where
  req : Nat
  for_ : ReadFor
  drain : Nat
  deriving DecidableEq, Repr

/-- Which steps of a change in the fuses and the flash succeed, in the order in which they are made (17 R505, R506). -/
structure FlashSteps where
  first : Bool
  second : Bool
  third : Bool
  deriving DecidableEq, Repr

/-- The result of a FENCE_CLEAR's test (18 R534): whether the unit passes, and of a die's test the pens that pass, as a mask. -/
structure FenceResult where
  pass : Bool
  pens : Nat
  deriving DecidableEq, Repr

/-- What start-up finds on one compute die (18 R523, R524). -/
structure DieReport where
  answers : Bool
  /-- channels that train, as a mask, and the capacity code of each -/
  trained : Nat
  caps : List Nat
  /-- pens that pass, as a mask -/
  pens : Nat
  /-- paddock banks that fail, as (cluster, bank) -/
  badBanks : List (Nat × Nat)
  unitsOk : Bool
  deriving DecidableEq, Repr

/-- What start-up finds (18 R521 to R526). -/
structure BootReport where
  /-- raw time from the release to READY or to the fault, at most 1.8 s -/
  ns : Nat
  flashOk : Bool
  otpOk : Bool
  hubTrained : Bool
  hubCaps : List Nat
  hubOk : Bool
  /-- start-up tests of the entropy source that fail before one passes; 2 or more: the source has failed -/
  trngFails : Nat
  /-- each copy of the owner record reads back as it was written -/
  owner0Ok : Bool
  owner1Ok : Bool
  /-- the rails are back within tolerance, and a trip that holds the reset has cleared (18 R518, 19 R546) -/
  supplied : Bool
  tripClear : Bool
  dies : List DieReport
  /-- value of the pace monitors of each die in the windows of step 9, hub first, 0.0001 Gstep/s -/
  pace : List Nat
  deriving DecidableEq, Repr

/-- The commands and events of the part, one constructor per row of the table, in its order. -/
inductive Instr where
  /-- `NOP`: the accepted command of global slot `slot` executes -/
  | nop (slot : Nat)
  /-- `CFG_READ`: the accepted command of global slot `slot` executes -/
  | cfgRead (slot : Nat)
  /-- `CFG_WRITE`: the accepted command of global slot `slot` executes -/
  | cfgWrite (slot : Nat)
  /-- `TXN_BEGIN`: the accepted command of global slot `slot` executes -/
  | txnBegin (slot : Nat)
  /-- `TXN_COMMIT`: the accepted command of global slot `slot` executes -/
  | txnCommit (slot : Nat)
  /-- `TXN_ABORT`: the accepted command of global slot `slot` executes -/
  | txnAbort (slot : Nat)
  /-- `CTX_CREATE`: the accepted command of global slot `slot` executes -/
  | ctxCreate (slot : Nat)
  /-- `CTX_DESTROY`: the accepted command of global slot `slot` executes -/
  | ctxDestroy (slot : Nat)
  /-- `CTX_QUERY`: the accepted command of global slot `slot` executes -/
  | ctxQuery (slot : Nat)
  /-- `FRAME_OPEN`: the accepted command of global slot `slot` executes -/
  | frameOpen (slot : Nat)
  /-- `FRAME_CLOSE`: the accepted command of global slot `slot` executes -/
  | frameClose (slot : Nat)
  /-- `CTX_CLEAR_DEGRADED`: the accepted command of global slot `slot` executes -/
  | ctxClearDegraded (slot : Nat)
  /-- `PKG_LOAD`: `pkg` is what the body's framing yields (its layout is the toolchain's), none if it cannot be read -/
  | pkgLoad (slot : Nat) (pkg : Option PkgDecl)
  /-- `PKG_UNLOAD`: the accepted command of global slot `slot` executes -/
  | pkgUnload (slot : Nat)
  /-- `BUNDLE_APPLY`: the accepted command of global slot `slot` executes -/
  | bundleApply (slot : Nat)
  /-- `MAPTABLE_REPLACE`: the accepted command of global slot `slot` executes -/
  | maptableReplace (slot : Nat)
  /-- `DECODER_SET`: the accepted command of global slot `slot` executes -/
  | decoderSet (slot : Nat)
  /-- `STEER_SET`: the accepted command of global slot `slot` executes -/
  | steerSet (slot : Nat)
  /-- `POSE_WRITE`: the accepted command of global slot `slot` executes -/
  | poseWrite (slot : Nat)
  /-- `TIME_SET`: the accepted command of global slot `slot` executes -/
  | timeSet (slot : Nat)
  /-- `PWR_STATE_SET`: the accepted command of global slot `slot` executes -/
  | pwrStateSet (slot : Nat)
  /-- `PACE_SET`: the accepted command of global slot `slot` executes -/
  | paceSet (slot : Nat)
  /-- `GATE_SET`: the accepted command of global slot `slot` executes -/
  | gateSet (slot : Nat)
  /-- `LIFELOG_READ`: the accepted command of global slot `slot` executes -/
  | lifelogRead (slot : Nat)
  /-- `FENCE_CLEAR`: the accepted command of global slot `slot` executes -/
  | fenceClear (slot : Nat)
  /-- `EVENT_LOG_READ`: the accepted command of global slot `slot` executes -/
  | eventLogRead (slot : Nat)
  /-- `FW_UPDATE`: the accepted command of global slot `slot` executes -/
  | fwUpdate (slot : Nat)
  /-- `ATTEST`: the accepted command of global slot `slot` executes -/
  | attest (slot : Nat)
  /-- `DEBUG_CHALLENGE`: the accepted command of global slot `slot` executes -/
  | debugChallenge (slot : Nat)
  /-- `DEBUG_UNLOCK`: `flashOk`: the steps of a zeroisation that succeed -/
  | debugUnlock (slot : Nat) (flashOk : FlashSteps)
  /-- `LIFECYCLE_SET`: `flashOk`: the steps of the change in the flash and the fuses that succeed -/
  | lifecycleSet (slot : Nat) (flashOk : FlashSteps)
  /-- `SEAL_WRITE`: host write of a slot's last 32-byte unit whose mask includes byte 255 -/
  | sealWrite (slot : Nat) (data : List Byte) (mask : BitVec 32) (md : BitVec 32)
  /-- `PEN_CONSUMER_WRITE`: host write of C -/
  | penConsumerWrite (ch : Nat) (value : BitVec 32) (md : BitVec 32)
  /-- `HOST_WRITE`: burst write at the open row of the bank (R62) -/
  | hostWrite (ch : Nat) (sub : Nat) (bank : Nat) (col : Nat) (data : List Byte) (mask : BitVec 32) (md : BitVec 32)
  /-- `HOST_READ`: burst read; `ue`: the SRAM finds an uncorrectable error and `asRead` is the data as read -/
  | hostRead (ch : Nat) (sub : Nat) (bank : Nat) (col : Nat) (ue : Bool) (asRead : List Byte)
  /-- `MODE_REGISTER_WRITE`: `latencyLow`: the value is a latency code below the standard's minimum of the measured bin -/
  | modeRegisterWrite (ch : SubCh) (mr : Nat) (value : BitVec 8) (latencyLow : Bool)
  /-- `MODE_REGISTER_READ` -/
  | modeRegisterRead (ch : SubCh) (mr : Nat)
  /-- `ACTIVATE` -/
  | activate (ch : Nat) (sub : Nat) (bank : Nat) (row : Nat)
  /-- `PRECHARGE`: one bank, or all with none -/
  | precharge (ch : Nat) (sub : Nat) (bank : Option Nat)
  /-- `REFRESH` -/
  | refresh (ch : SubCh)
  /-- `POWER_DOWN_ENTRY` -/
  | powerDownEntry (ch : SubCh)
  /-- `POWER_DOWN_EXIT` -/
  | powerDownExit (ch : SubCh)
  /-- `SELF_REFRESH_ENTRY` -/
  | selfRefreshEntry (ch : SubCh)
  /-- `SELF_REFRESH_EXIT` -/
  | selfRefreshExit (ch : SubCh)
  /-- `COMMAND_BUS_TRAINING` -/
  | commandBusTraining (ch : SubCh)
  /-- `CLOCK_TO_WRITE_CLOCK_LEVELLING` -/
  | clockToWriteClockLevelling (ch : SubCh)
  /-- `READ_CALIBRATION`: `mr`: the pattern register read -/
  | readCalibration (ch : SubCh) (mr : Nat)
  /-- `WRITE_DATA_TRAINING` -/
  | writeDataTraining (ch : SubCh)
  /-- `ZQ_CALIBRATION_START` -/
  | zqCalibrationStart (ch : SubCh)
  /-- `ZQ_CALIBRATION_LATCH` -/
  | zqCalibrationLatch (ch : SubCh)
  /-- `UNSUPPORTED_COMMAND` -/
  | unsupportedCommand (ch : SubCh)
  /-- `HOST_RATE_CHANGE`: measured MT/s; `low`: latency registers, as sub-channel × 256 + register, whose code lies below the
  new bin's minimum -/
  | hostRateChange (ch : Nat) (rate : Nat) (low : List Nat)
  /-- `HINT_HOLDOFF_EXPIRY` -/
  | hintHoldoffExpiry
  /-- `TXN_IDLE_EXPIRY` -/
  | txnIdleExpiry
  /-- `CONFIG_STAGED_APPLY`: `blk`: block number of R94, `die`: its die, 0 for the hub -/
  | configStagedApply (blk : Nat) (die : Nat)
  /-- `TXN_COMMIT_APPLY` -/
  | txnCommitApply (blk : Nat) (die : Nat)
  /-- `PDK_ARB_ORDER_WRITE`: the accepted command of global slot `slot` executes -/
  | pdkArbOrderWrite (slot : Nat)
  /-- `LEAVE_BUDGET_WRITE`: the accepted command of global slot `slot` executes -/
  | leaveBudgetWrite (slot : Nat)
  /-- `BMP_FORCE_START` -/
  | bmpForceStart
  /-- `BMP_FORCE_END` -/
  | bmpForceEnd
  /-- `ENTDAA` -/
  | entdaa (addr : Nat)
  /-- `SETDASA` -/
  | setdasa (static : Nat) (addr : Nat)
  /-- `ETHERNET_FRAME_RECEIVED`: bytes from the destination address through the FCS -/
  | ethernetFrameReceived (lane : Nat) (frame : List Byte) (pcsError : Bool)
  /-- `PACKET_STEER`: the oldest buffered frame of the lane -/
  | packetSteer (lane : Nat)
  /-- `BLOCK_DECODE`: the next block of the packet in decode on the lane -/
  | blockDecode (lane : Nat)
  /-- `ARP_REQUEST`: the head of the firmware queue is an ARP request -/
  | arpRequest
  /-- `NEIGHBOUR_SOLICITATION`: the head of the firmware queue is a neighbour solicitation -/
  | neighbourSolicitation
  /-- `SYNC`: the head of the firmware queue is a Sync; `adjust`: the correction of the servo, which the spec leaves to the firmware -/
  | sync (adjust : Servo)
  /-- `FOLLOW_UP` -/
  | followUp (adjust : Servo)
  /-- `DELAY_RESP` -/
  | delayResp
  /-- `ANNOUNCE` -/
  | announce
  /-- `DELAY_REQ` -/
  | delayReq
  /-- `PTP_HOLDOVER_EXPIRY` -/
  | ptpHoldoverExpiry
  /-- `LANE_LOCK_LOST` -/
  | laneLockLost (lane : Nat)
  /-- `LANE_LOCK_TIMER` -/
  | laneLockTimer (lane : Nat)
  /-- `SENSOR_SILENCE_EXPIRY` -/
  | sensorSilenceExpiry (sensor : Nat)
  /-- `HOST_WINDOW_PUBLISH`: host write of a window's header unit whose mask includes byte 0 -/
  | hostWindowPublish (ch : Nat) (win : Nat) (data : List Byte) (mask : BitVec 32) (md : BitVec 32)
  /-- `HOST_WINDOW_ANSWER`: the window reader serves the next busy window -/
  | hostWindowAnswer
  /-- `PERIODIC_FRAME_CLOSE` -/
  | periodicFrameClose (ctx : Nat)
  /-- `DESKEW_TILE` -/
  | deskewTile (ctx : Nat) (num : Nat) (die : Nat)
  /-- `VOXELISE_TILE` -/
  | voxeliseTile (ctx : Nat) (num : Nat)
  /-- `VOXELISATION_COMPLETE` -/
  | voxelisationComplete (ctx : Nat) (num : Nat)
  /-- `EXACT_PASS` -/
  | exactPass (ctx : Nat) (num : Nat)
  /-- `CURVE_ORDER_START` -/
  | curveOrderStart (ctx : Nat) (num : Nat)
  /-- `CURVE_ORDER_TILE` -/
  | curveOrderTile (ctx : Nat) (num : Nat) (die : Nat)
  /-- `RULEBOOK_TILE` -/
  | rulebookTile (ctx : Nat) (num : Nat) (die : Nat)
  /-- `OPERATOR_DISPATCH`: `stalls`: the stalls the work distributor lets serve the run -/
  | operatorDispatch (ctx : Nat) (num : Nat) (die : Nat) (stalls : List Nat)
  /-- `LEAVE_REQUEST`: `who`: global stall index, 512 + block number of a stage unit, or 768 + channel of a memory port -/
  | leaveRequest (ctx : Nat) (num : Nat) (die : Nat) (who : Nat)
  /-- `LEAVE_GRANT` -/
  | leaveGrant (die : Nat)
  /-- `STALL_TILE` -/
  | stallTile (stall : Nat)
  /-- `GATHER` -/
  | gather (stall : Nat) (thread : Nat) (src : GatherSrc) (len : Nat)
  /-- `GATHER_RETURN` -/
  | gatherReturn (stall : Nat) (thread : Nat)
  /-- `CHUNK_STEAL` -/
  | chunkSteal (stall : Nat) (lane : Nat) (victim : Nat)
  /-- `TILE_STEAL` -/
  | tileSteal (stall : Nat)
  /-- `FILL` -/
  | fillLines (die : Nat) (cluster : Nat) (issuer : EngineUser) (addr : Nat) (n : Nat) (pattern : List Byte)
  /-- `COPY` -/
  | copyLines (die : Nat) (cluster : Nat) (issuer : EngineUser) (src : Nat) (dst : Nat) (n : Nat)
  /-- `PADDOCK_ENGINE_DONE` -/
  | paddockEngineDone (die : Nat) (cluster : Nat) (issuer : Nat)
  /-- `ARBITER_DECIDE`: what the requesters did since the last decision -/
  | arbiterDecide (arb : ArbId) (arrivals : ArbTurn)
  /-- `PADDOCK_ACCESS`: `drop`: the requester drops its request after this access -/
  | paddockAccess (die : Nat) (cluster : Nat) (req : PadUser) (acc : PaddockAcc) (drop : Bool)
  /-- `RETRY_ROUND` -/
  | retryRound (ctx : Nat) (num : Nat)
  /-- `PARTITION_MERGE` -/
  | partitionMerge (ctx : Nat) (num : Nat) (row : Nat) (part : Nat)
  /-- `MAP_LOOKUP_WINDOW` -/
  | mapLookupWindow (ctx : Nat) (num : Nat) (die : Nat)
  /-- `BEV_SCATTER_TILE` -/
  | bevScatterTile (ctx : Nat) (num : Nat) (die : Nat)
  /-- `SELECTION_TILE` -/
  | selectionTile (ctx : Nat) (num : Nat) (die : Nat)
  /-- `SELECTION_MERGE` -/
  | selectionMerge (ctx : Nat) (num : Nat)
  /-- `BEST_EFFORT_FRAME_START` -/
  | bestEffortFrameStart (die : Nat)
  /-- `CHECKER_VERDICT_READY` -/
  | checkerVerdictReady (ctx : Nat) (num : Nat)
  /-- `ML_RESULTS_IN` -/
  | mlResultsIn (ctx : Nat) (num : Nat)
  /-- `FRAME_SEAL` -/
  | frameSeal (ctx : Nat) (num : Nat)
  /-- `CUTOFF_EXPIRY` -/
  | cutoffExpiry (ctx : Nat) (num : Nat)
  /-- `CTX_DESTROY_COMPLETE` -/
  | ctxDestroyComplete (ctx : Nat)
  /-- `STOP_BOUNDARY` -/
  | stopBoundary
  /-- `STOP_READBACK` -/
  | stopReadback (out : StopOut) (level : Bool)
  /-- `HEARTBEAT` -/
  | heartbeat (fromChecker : Bool)
  /-- `HEARTBEAT_TIMEOUT` -/
  | heartbeatTimeout (atChecker : Bool)
  /-- `TABLE_SWITCH` -/
  | tableSwitch (table : Nat)
  /-- `FLIP_START` -/
  | flipStart (table : Nat)
  /-- `FLIP_CUTOFF` -/
  | flipCutoff (table : Nat)
  /-- `FLIP_SWITCH` -/
  | flipSwitch (table : Nat)
  /-- `FLIT_RECEIVED`: 72 bytes -/
  | flitReceived (die : Nat) (link : Nat) (flit : List Byte)
  /-- `HALYARD_MESSAGE`: 16 bytes; `fails`: hops that fail this attempt -/
  | halyardMessage (src : HalNode) (dst : HalNode) (msg : List Byte) (fails : List Nat)
  /-- `PACE_WINDOW`: steps counted by each monitor, 0.0001 Gstep/s -/
  | paceWindow (die : Nat) (counts : List Nat)
  /-- `AUDIT`: `obs`: the data-path views as the units report them -/
  | audit (die : Nat) (obs : List UnitObs)
  /-- `SELFTEST_SLICE_START` -/
  | selftestSliceStart (die : Nat)
  /-- `SELFTEST_SLICE_END` -/
  | selftestSliceEnd (die : Nat) (pass : Bool)
  /-- `ROTATION_AGE_EXPIRY` -/
  | rotationAgeExpiry (die : Nat)
  /-- `PADDOCK_LINE_TEST` -/
  | paddockLineTest (die : Nat) (cluster : Nat) (bank : Nat) (line : Nat) (pass : Bool) (passOver60s : Bool)
  /-- `FENCE_TEST_COMPLETE` -/
  | fenceTestComplete (result : FenceResult)
  /-- `SRAM_SCRUB`: `last`: the bank's last word of a pass -/
  | sramScrub (die : Nat) (target : Nat) (bank : Nat) (err : SramErr) (victim : ReadFor) (last : Bool)
  /-- `MMC_READ`: `err`: error pattern over the 36 received bytes -/
  | mmcRead (die : Nat) (chan : Nat) (addr : Nat) (err : List Byte) (for_ : MemUser)
  /-- `PATROL_READ` -/
  | patrolRead (die : Nat) (chan : Nat) (err : List Byte)
  /-- `MMC_WRITE` -/
  | mmcWrite (die : Nat) (chan : Nat) (addr : Nat) (data : List Byte) (drain : MemWriter)
  /-- `MMC_REFRESH` -/
  | mmcRefresh (die : Nat) (chan : Nat) (bank : Nat)
  /-- `MMC_ZQ_CALIBRATION` -/
  | mmcZqCalibration (die : Nat) (chan : Nat)
  /-- `MEMORY_ACCESS` -/
  | memoryAccess (die : Nat) (target : Nat) (domain : Nat) (addr : Nat) (len : Nat) (write : Option (List Byte)) (for_ : ReadFor)
  /-- `THERMAL_SENSOR_UPDATE`: hottest junction, C -/
  | thermalSensorUpdate (die : Nat) (temp : Int)
  /-- `CRITICAL_TRIP` -/
  | criticalTrip (die : Nat)
  /-- `POWER_STEP` -/
  | powerStep
  /-- `PACE_CHANGE_STEP` -/
  | paceChangeStep
  /-- `PENS_OFF_COMPLETE` -/
  | pensOffComplete
  /-- `PENS_ON_TEST_COMPLETE`: mask of pens that pass -/
  | pensOnTestComplete (passed : Nat)
  /-- `DIE_ON_COMPLETE`: masks of the pens that pass and of the channels that train -/
  | dieOnComplete (passed : Nat) (trained : Nat)
  /-- `FLASH_PROGRAM_COMPLETE` -/
  | flashProgramComplete (ok : Bool)
  /-- `CHALLENGE_EXPIRY` -/
  | challengeExpiry
  /-- `UNLOCK_EXPIRY` -/
  | unlockExpiry
  /-- `TRNG_RETRY`: the raw samples of the start-up test -/
  | trngRetry (pass : List Bool)
  /-- `LIFELOG_CHECKPOINT` -/
  | lifelogCheckpoint (flashOk : Bool)
  /-- `AGING_DAILY_INDEX`: `newPace`: P of R482, from the fused characterisation -/
  | agingDailyIndex (die : Nat) (newPace : Nat)
  /-- `AGING_YEAR` -/
  | agingYear (flashOk : Bool)
  /-- `POWER_ON` -/
  | powerOn
  /-- `RESET_N_ASSERT`: `taken`: outcome of a low of 1 to 10 us -/
  | resetNAssert (ns : Nat) (taken : Bool)
  /-- `SUPPLY_BROWNOUT` -/
  | supplyBrownout
  /-- `LOCKSTEP_MISMATCH` -/
  | lockstepMismatch
  /-- `WATCHDOG_EXPIRY` -/
  | watchdogExpiry
  /-- `RESET_N_RELEASE`: what start-up finds -/
  | resetNRelease (rep : BootReport)
  /-- `BYPASS` -/
  | bypass
  /-- `IDCODE` -/
  | idcode
  /-- `SAMPLE_PRELOAD` -/
  | samplePreload
  /-- `EXTEST` -/
  | extest
  /-- `DEBUG_HALT` -/
  | debugHalt
  /-- `DEBUG_RESUME` -/
  | debugResume
  /-- `DEBUG_STEP` -/
  | debugStep
  /-- `ABSTRACT_REGISTER_ACCESS` -/
  | abstractRegisterAccess (reg : Nat) (write : Option (BitVec 64))
  /-- `SYSTEM_BUS_ACCESS`: one byte -/
  | systemBusAccess (addr : Nat) (write : Option Byte)
  /-- `LANE_LOCK_GAINED` -/
  | laneLockGained (lane : Nat)
  /-- `REMOTE_FAULT_RECEIVED` -/
  | remoteFaultReceived (lane : Nat) (present : Bool)
  /-- `VERDICT_FRAME_TRANSMITTED` -/
  | verdictFrameTransmitted (lane : Nat)
  /-- `ENTROPY_HEALTH_TEST_FAIL`: the raw samples that a health test has last seen -/
  | entropyHealthTestFail (adaptive : List Bool)
  /-- `BACKUP_SUPPLY_LOSS` -/
  | backupSupplyLoss
  /-- `VDD_SAFE_OUT_OF_TOLERANCE` -/
  | vddSafeOutOfTolerance (below : Bool)
  /-- `SRAM_SCRUB_OVERDUE` -/
  | sramScrubOverdue (die : Nat) (target : Nat) (bank : Nat)
  deriving DecidableEq, Repr

end Sys2Proof
end

