-- ==== Sys2Proof/Decode.lean ====
section
/-!
DEFINITION. The command a word of the opcode table spells. No row of the table has an encoding: the part takes its
commands over its ports, not from an instruction memory, so every word is rejected.
-/
namespace Sys2Proof

/-- The rows of the table that have bits: none. -/
def rowsWithBits : List (Nat × Nat × Nat × Instr) := []

/-- The command spelled by a word, over the rows that have bits: width, mask, match value and command. -/
def decodeTableWord (nbits w : Nat) : Option Instr :=
  (rowsWithBits.find? (fun r => r.1 == nbits && (w &&& r.2.1) == r.2.2.1)).map (fun r => r.2.2.2)

end Sys2Proof
end

