-- ==== Sys2Proof/Config.lean ====
section
/-!
DEFINITION. What the spec leaves open, as constants without a body: nothing in Lean can evaluate them, and a claim
holds for every value of them. The free values are applied to the counter State.free, which each use advances
(log entry 2).
Conventions: log entry 2 (DESIGN CHOICE), log entry 6 (DESIGN CHOICE), log entry 21 (PRESUMED), log entry 27 (DEDUCED), log entry 54 (DESIGN CHOICE), log entry 55 (PRESUMED), log entry 57 (DESIGN CHOICE), log entry 73 (DESIGN CHOICE).
-/
namespace Sys2Proof.Config

/-- A value the spec leaves open, by use. -/
opaque freeNat : Nat → Nat

/-- A byte the spec leaves open, by use. -/
opaque freeByte : Nat → Byte

/-- The public keys of Felsol in the hub boot ROM (R491), whose values the spec does not give. -/
opaque felsolKey : Nat → List Byte

/-- Coefficients of the public key that Falcon key generation gives under a generation seed (R490, R500). The algorithm is the
Falcon specification's. -/
opaque falconKeygen : List Byte → Nat → Nat

/-- Salt and compressed coefficients of the Falcon signature made over a message with the key of a generation seed and fresh
randomness (R490, R501). -/
opaque falconSign : List Byte → List Byte → List Byte → List Byte

/-- The standard's codes that mode registers 4 and 8 hold (R51), which the spec does not give. -/
opaque modeReg4 : Byte
opaque modeReg8 : Byte

/-- Purpose of the other mode registers in the standard (R51): 1 latency, write-recovery and frequency set point,
2 electrical, 3 training; any other value means read-only. The spec does not give their numbers. -/
opaque modeClass : Nat → Nat

/-- The standard's lowest bin, the reset value of the latency registers (R51). -/
opaque lowestBin : Nat → Byte

/-- 64-byte lines, by target, that domain 2 uses of the hub's firmware memory and of the device area of hub main memory
(R107, R450), which the spec does not give. -/
opaque extentLines : Nat → Nat

/-- Where the package layout places an array in the working space of its context on a die, by line, and which line of a
package's copy a weight tensor begins at (R234, R107); the spec leaves the layout to Merore. -/
opaque padLine : Nat → List Nat → Nat
opaque copyLine : Nat → Nat → Nat

/-- Entry of a die's merge area that an element of a partition takes (R266), which the spec does not choose. -/
opaque mergePlace : Nat → List Nat → Nat

/-- How the hub's SRAM beside the aperture backing divides into its targets (R1, R448), which the spec does not give. -/
opaque targetLines : Nat → Nat

/-- Boundary-scan cell of an output ball (R507), which the spec does not give. -/
opaque boundaryCell : Nat → Nat

/-- How the payload bytes of a life-log record hold its values (R479), by type; the spec gives no offsets. -/
opaque lifePayload : Nat → List Nat → List Byte

/-- Row of a memory device that a channel offset lies in (R479); the spec gives no geometry. -/
opaque memoryRow : Nat → Nat

/-- The code a NaN takes in an integer weight format (R273, R312), which the spec does not state. -/
opaque nanAsInt : Nat → Nat

/-- The INT32 result of a skipped element whose fused sum leaves the INT32 range (R309), which the spec does not
state. -/
opaque wideSkip : Int → Nat

/-- FP32 code of an element of a row whose every copy was lost with its dies (R393), by table, row and element; the
spec does not state what a frame still bound to it reads. -/
opaque lostRow : Nat → Nat → Nat → Nat

end Sys2Proof.Config
end

