-- ==== Sys2Proof/Machine/Bytes.lean ====
section
/-!
DEFINITION. Byte order, bit fields, sign extension and rounding helpers used by every family of commands (R4, R5).
-/
namespace Sys2Proof.Machine

/-- Little-endian value of a byte sequence (R5). -/
def leNat : List Byte → Nat
  | [] => 0
  | b :: bs => b.toNat + 256 * leNat bs

/-- The `n` little-endian bytes of `v` (R5). -/
def leBytes : Nat → Nat → List Byte
  | 0, _ => []
  | n + 1, v => BitVec.ofNat 8 v :: leBytes n (v / 256)

/-- Big-endian value of a byte sequence (Ethernet formats). -/
def beNat (l : List Byte) : Nat := leNat l.reverse

/-- The `n` big-endian bytes of `v`. -/
def beBytes (n v : Nat) : List Byte := (leBytes n v).reverse

/-- The `n` bytes from offset `off`; bytes past the end are left out. -/
def slice (l : List Byte) (off n : Nat) : List Byte := (l.drop off).take n

/-- The byte at offset `off`, 0 past the end. -/
def byteAt (l : List Byte) (off : Nat) : Nat := (l.getD off 0).toNat

/-- Little-endian fields of 2, 4 and 8 bytes (R5). -/
def u16 (l : List Byte) (off : Nat) : Nat := leNat (slice l off 2)
def u32 (l : List Byte) (off : Nat) : Nat := leNat (slice l off 4)
def u64 (l : List Byte) (off : Nat) : Nat := leNat (slice l off 8)

/-- Bits `[hi:lo]` of `v` (R4). -/
def bitsOf (v hi lo : Nat) : Nat := v / 2 ^ lo % 2 ^ (hi + 1 - lo)

/-- Bit `i` of `v`. -/
def bitOf (v i : Nat) : Bool := v / 2 ^ i % 2 == 1

/-- Two's-complement value of the low `w` bits of `v`. -/
def signed (w v : Nat) : Int :=
  if v % 2 ^ w < 2 ^ (w - 1) then (v % 2 ^ w : Nat) else ((v % 2 ^ w : Nat) : Int) - 2 ^ w

/-- The low `w` bits of an integer, two's complement. -/
def unsigned (w : Nat) (i : Int) : Nat := (i % (2 ^ w : Nat)).toNat

/-- Signed little-endian fields. -/
def i16 (l : List Byte) (off : Nat) : Int := signed 16 (u16 l off)
def i32 (l : List Byte) (off : Nat) : Int := signed 32 (u32 l off)
def i64 (l : List Byte) (off : Nat) : Int := signed 64 (u64 l off)

/-- Quotient rounded up; 0 for a zero divisor. -/
def ceilDiv (a b : Nat) : Nat := if b = 0 then 0 else (a + b - 1) / b

/-- 1 for true. -/
def b2n (b : Bool) : Nat := if b then 1 else 0

/-- Pads or cuts a byte sequence to `n` bytes. -/
def padTo (n : Nat) (l : List Byte) : List Byte := l.take n ++ List.replicate (n - l.length) 0

/-- Saturation of the 32-bit counters (R58 and every counter rule). -/
def sat32 (n : Nat) : Nat := min n 0xFFFF_FFFF

/-- Updates entry `i` of a list; no effect past the end. -/
def updAt {α : Type} : List α → Nat → (α → α) → List α
  | [], _, _ => []
  | a :: l, 0, f => f a :: l
  | a :: l, i + 1, f => a :: updAt l i f

/-- Writes `d` over `l` from offset `off`; bytes past the end of `l` are dropped. -/
def overlay (l : List Byte) (off : Nat) (d : List Byte) : List Byte :=
  (l.take off ++ d ++ l.drop (off + d.length)).take l.length

/-- The last `n` entries of a list. -/
def keepLast {α : Type} (n : Nat) (l : List α) : List α := l.drop (l.length - n)

/-- All bytes are zero. -/
def allZero (l : List Byte) : Bool := l.all (· == 0)

/-- The value of a bit mask over `p` for the numbers below `n`. -/
def maskOf (n : Nat) (p : Nat → Bool) : Nat :=
  (List.range n).foldl (fun acc i => if p i then acc + 2 ^ i else acc) 0

end Sys2Proof.Machine
end

