-- ==== Sys2Proof/Machine/Map.lean ====
section
/-!
DEFINITION. Sparse maps: lists of (key, value) pairs with strictly rising keys. With a default value, no entry equals
the default, so that equal maps are equal lists. Memories are such maps from byte addresses to bytes.
Conventions: log entry 8 (DESIGN CHOICE).
-/
namespace Sys2Proof.Machine

/-- The value listed for a key. -/
def mapFind {β : Type} : List (Nat × β) → Nat → Option β
  | [], _ => none
  | (k, v) :: m, i => if i = k then some v else if i < k then none else mapFind m i

/-- The value at a key: `d` where none is listed. -/
def mapGet {β : Type} (d : β) (m : List (Nat × β)) (i : Nat) : β := (mapFind m i).getD d

/-- Lists `v` at key `i`. -/
def mapPut {β : Type} : List (Nat × β) → Nat → β → List (Nat × β)
  | [], i, v => [(i, v)]
  | (k, w) :: m, i, v =>
    if i = k then (i, v) :: m else if i < k then (i, v) :: (k, w) :: m else (k, w) :: mapPut m i v

/-- Removes the entry of key `i`. -/
def mapDel {β : Type} : List (Nat × β) → Nat → List (Nat × β)
  | [], _ => []
  | (k, w) :: m, i => if i = k then m else if i < k then (k, w) :: m else (k, w) :: mapDel m i

/-- Writes `v` at key `i` of a map with default `d`: the default is not listed. -/
def mapSet {β : Type} [DecidableEq β] (d : β) (m : List (Nat × β)) (i : Nat) (v : β) : List (Nat × β) :=
  if v = d then mapDel m i else mapPut m i v

/-- Keys strictly rising, all at least `lo`. -/
def keysFrom {β : Type} : Nat → List (Nat × β) → Bool
  | _, [] => true
  | lo, (k, _) :: m => decide (lo ≤ k) && keysFrom (k + 1) m

/-- The canonical form: keys strictly rising and no entry equal to the default. -/
def mapWf {β : Type} [DecidableEq β] (d : β) (m : List (Nat × β)) : Bool :=
  keysFrom 0 m && m.all (fun e => !decide (e.2 = d))

/-- Writes consecutive values from key `i` on. -/
def mapSetMany {β : Type} [DecidableEq β] (d : β) : List (Nat × β) → Nat → List β → List (Nat × β)
  | m, _, [] => m
  | m, i, v :: vs => mapSetMany d (mapSet d m i v) (i + 1) vs

/-- Reads `n` consecutive values from key `i` on. -/
def mapGetMany {β : Type} (d : β) (m : List (Nat × β)) (i n : Nat) : List β :=
  (List.range n).map (fun j => mapGet d m (i + j))

/-- A byte memory in canonical form (an unlisted byte reads 0; log entry 8). -/
abbrev Memory := List Host.Cell

/-- The canonical form of a byte memory. -/
def Memory.wf (m : Memory) : Bool := mapWf (0 : Byte) m

/-- One byte of a memory. -/
def memGet (m : Memory) (a : Nat) : Byte := mapGet (0 : Byte) m a

/-- `n` bytes of a memory. -/
def memRead (m : Memory) (a n : Nat) : List Byte := mapGetMany (0 : Byte) m a n

/-- Writes bytes to a memory, keeping the canonical form. -/
def memWrite (m : Memory) (a : Nat) (d : List Byte) : Memory := mapSetMany (0 : Byte) m a d

/-- A memory with n bytes from a on cleared. -/
def memClear (m : Memory) (a n : Nat) : Memory := m.filter (fun e => decide (e.1 < a) || decide (a + n ≤ e.1))

/-- Copies n bytes from `a` of a memory to `b` of another. -/
def memMove (src : Memory) (a n : Nat) (dst : Memory) (b : Nat) : Memory :=
  (src.filter (fun e => decide (a ≤ e.1) && decide (e.1 < a + n))).foldl
    (fun m e => mapSet (0 : Byte) m (b + (e.1 - a)) e.2) (memClear dst b n)

end Sys2Proof.Machine
end

