-- ==== Sys2Proof/Machine/State.lean ====
section
/-!
DEFINITION. The state of the LN880 as plain data: every register, buffer, queue, mode and pin the spec names, the
model's own counter of free values, and the queue of commands that wait. State.reset is the part held in reset.
Conventions: log entry 2 (DESIGN CHOICE), log entry 3 (DESIGN CHOICE), log entry 4 (DESIGN CHOICE), log entry 5
(DESIGN CHOICE), log entry 6 (DESIGN CHOICE), log entry 8 (DESIGN CHOICE), log entry 11 (DESIGN CHOICE), log entry
12 (DESIGN CHOICE), log entry 13 (DESIGN CHOICE), log entry 14 (DESIGN CHOICE), log entry 63 (DESIGN CHOICE), log
entry 84 (DESIGN CHOICE).
-/
namespace Sys2Proof.Machine

/-- Why the block stops with a fault. -/
inductive Fault where
  /-- Raised by no command: an access to an address that its target does not have is refused by the target's firewall, since
  no descriptor covers it (R449). The name stays for an interface that wants a fault type with a value. Safe. -/
  | noSuchAddress
  deriving DecidableEq, Repr

/-- Why the block refuses a command. -/
inductive Refusal where
  /-- Answered by the dispatch arms of commands without a meaning yet. Safe. -/
  | notModelled (mnemonic : String)
  deriving DecidableEq, Repr

/-! ## Host port and mailbox (02, 03) -/

/-- Low-power state of the port interface (R52). -/
inductive PortPower where
  | active
  | powerDown
  | selfRefresh
  deriving DecidableEq, Repr

/-- Trained settings of the port (R44, R50). -/
structure Trained where
  cbt : Bool := false
  wck : Bool := false
  rd : Bool := false
  wr : Bool := false
  zqStarted : Bool := false
  zqLatched : Bool := false
  deriving DecidableEq, Repr

/-- An accepted command (R75, R77): its slot, its copied header and operands, and whether it has started. -/
structure Cmd where
  slot : Nat
  code : Nat
  flags : Nat
  txn : Nat
  tag : Nat
  /-- the copied slot bytes 0 to 223 -/
  bytes : List Byte
  started : Bool
  /-- raw and corrected time of acceptance; and what acceptance fixed: for a FRAME_CLOSE that stops a periodic train the frame
  open then (R118), for a host-paced FRAME_OPEN that its frame opened (R116), for a command of R464 that another executed (1) or
  that its own change began (2) -/
  at_ : Nat
  corr : Nat
  note : Option Nat
  deriving DecidableEq, Repr

/-- One channel of the host port with its aperture, mailbox and ring (R55). -/
structure Chan where
  /-- measured data rate, MT/s (R45, R58) -/
  rate : Nat
  /-- low-power state and trained settings of each sub-channel (R46) -/
  low : List PortPower
  trained : List Trained
  /-- read-write mode registers (R51); latency registers whose code lies below the minimum of the measured bin, and those
  of them counted and reported since their last write (R47); all by sub-channel × 256 + register -/
  mr : List (Nat × Byte)
  lowLat : List Nat
  lowRep : List Nat
  /-- open row per sub-channel × 16 + bank (R62) -/
  rows : List (Nat × Nat)
  /-- aperture bytes by channel offset (R57) -/
  mem : Memory
  /-- stored metadata of the 32-byte units last written by the host, by unit number (R63) -/
  hostMeta : List (Nat × BitVec 32)
  /-- the port's outputs: last burst read, its metadata, last mode register read -/
  rdData : List Byte
  rdMeta : BitVec 32
  mrOut : Byte
  /-- counters of R58 and R86 -/
  unbacked : Nat
  roWrites : Nat
  unsupported : Nat
  latencyErr : Nat
  sramUe : Nat
  refused : Nat
  busySeals : Nat
  consumerInvalid : Nat
  /-- P, C and the raw write times of the pending pennants, oldest first (R81 to R84, R66) -/
  prod : Nat
  cons : Nat
  penTimes : List Nat
  /-- pennants lost in all and since the last marker (R82) -/
  lost : Nat
  lostSince : Nat
  /-- expected sequence of each slot of the channel, 1 where none is listed (R72) -/
  seqs : List (Nat × Nat)
  /-- commands in flight, in acceptance order (R80) -/
  inflight : List Cmd
  /-- window pages reserved, page to context (R87) -/
  pages : List (Nat × Nat)
  /-- HPT_RATE_OUT_OF_RANGE still to be written to the ring (R69) -/
  rateEvent : Bool
  /-- host ingest windows: expected sequence of each (R162) -/
  winSeq : List (Nat × Nat)
  deriving DecidableEq, Repr

/-- A record of the event log (R535). -/
structure LogRec where
  code : Nat
  whr : Nat
  seq : Nat
  time : Nat
  detail : List Byte
  deriving DecidableEq, Repr

/-- The event log, its next sequence, and the raw time of the last ring pennant of each rate-limited event. -/
structure EventLog where
  recs : List LogRec
  next : Nat
  ring : List (Nat × Nat)
  deriving DecidableEq, Repr

/-- A write waiting for a block's unit boundary (R95): the block and its die, the command that waits, whether the block's
pair checks passed when it entered the staged set, and whether the block of another die already held it (R96). -/
structure StagedWait where
  blk : Nat
  die : Nat
  slot : Nat
  reg : Nat
  idx : Nat
  fits : Bool
  held : Bool
  deriving DecidableEq, Repr

/-- Configuration (R94 to R97): active values and staged values by register × 65,536 + index. -/
structure Cfg where
  active : List (Nat × Nat)
  staged : List (Nat × Nat)
  waits : List StagedWait
  deriving DecidableEq, Repr

/-- One buffered write of a transaction: register key, value and mask (R99). -/
structure BufEntry where
  key : Nat
  value : Nat
  mask : Nat
  deriving DecidableEq, Repr

/-- A commit that applies: its command, the transaction's own writes, the sets that the blocks apply and the block
instances still to apply (R100, R101). -/
structure Commit where
  slot : Nat
  own : List BufEntry
  buf : List BufEntry
  todo : List (Nat × Nat)
  /-- a bundle's commit rather than the open transaction's (R498) -/
  bundle : Bool
  deriving DecidableEq, Repr

/-- The transaction (R98 to R102). -/
structure Txn where
  /-- MBX_TXN_STATE: 0 none, 1 open, 2 committing -/
  st : Nat
  id : Nat
  nextId : Nat
  buf : List BufEntry
  lastUse : Nat
  commits : List Commit
  deriving DecidableEq, Repr

/-! ## Dies (01, 08, 09, 15, 16, 18) -/

/-- State codes of R30. -/
inductive View where
  | off
  | ready
  | test
  | fenced
  | faulted
  deriving DecidableEq, Repr

/-- The two views of a unit (R38), its mismatch count (R41) and whether a halyard command is unacknowledged (R39). -/
structure UnitSt where
  mgmt : View
  data : View
  mism : Nat
  unack : Bool
  deriving DecidableEq, Repr

/-- What fenced a die as a whole (R532). -/
inductive FenceCause where
  | isolated
  | channel
  | unitFault
  | burst
  | bank
  | loft
  | sram
  | misses
  | starved
  | startup
  deriving DecidableEq, Repr

/-- One end of a die's link (R15 to R17). -/
structure LinkSt where
  /-- the receiver: next expected sequence, replays of the flit that bears it, each sent again and not accepted (R17), down, last flit
  accepted -/
  expect : Nat
  replays : Nat
  down : Bool
  last : List Byte
  /-- the sender: next sequence, flits sent and not acknowledged oldest first, how many of the last of them are to be sent
  again (R16), and flits that wait to be sent, their sequence and CRC still to be set -/
  next : Nat
  held : List (List Byte)
  again : Nat
  queue : List (List Byte)
  deriving DecidableEq, Repr

/-- A hop of the halyard (R26): failures in a row, broken. -/
structure HopSt where
  fails : Nat
  broken : Bool
  deriving DecidableEq, Repr

/-- One completed pace window (R33): the monitors that counted in it, with their values. -/
structure PaceWin where
  counts : List (Nat × Nat)
  deriving DecidableEq, Repr

/-- Leave granted or asked for (R472, R473): who holds it, for which frame, the package's figure at Nominal, from the
reservation or not, raw time of the request. -/
structure LeaveItem where
  who : Nat
  ctx : Nat
  num : Nat
  op : Nat
  fig : Nat
  reserved : Bool
  at_ : Nat
  deriving DecidableEq, Repr

/-- A gather outstanding in a stall thread (R229): the work it is for, and the bytes its accesses at the bank ports have
read. -/
structure Gather where
  thread : Nat
  src : GatherSrc
  len : Nat
  for_ : ReadFor
  got : List Byte
  deriving DecidableEq, Repr

/-- A stall's own state (R228 to R232, R248, R249). -/
structure StallSt where
  view : UnitSt
  /-- outstanding gathers, and gathers waiting for a thread -/
  gathers : List Gather
  waiting : List Gather
  /-- data returned last to each thread -/
  thrData : List (Nat × List Byte)
  /-- chunks of the next tile that changed lane: owner and thief (R249) -/
  moved : List (Nat × Nat)
  /-- active and shadow accumulator sets, lane × 32 + k to 32 bits (R231), and which set number is active -/
  active : List (Nat × Nat)
  shadow : List (Nat × Nat)
  set_ : Nat
  /-- line writes that the shadow set has still to drain -/
  drain : Nat
  /-- the near buffer, line 0 to 2,047 to its 64 bytes (R230) -/
  near : List (Nat × List Byte)
  /-- lines of streamed weight tensors read in the operator run, tensor and line (R298) -/
  streamed : List (Nat × Nat)
  /-- the running tile is flagged by R238 -/
  flagged : Bool
  /-- ring neighbours that the stall reaches through the hub since a tile boundary (R17) -/
  hubWay : List Nat
  deriving DecidableEq, Repr

/-- A paddock engine operation (R238 to R240): issuer and its thread, the work it is for, its lines, how many are moved,
and a copy's line read and not yet written. -/
structure EngineOp where
  issuer : Nat
  thread : Nat
  for_ : ReadFor
  /-- copy source, or none for a fill -/
  src : Option Nat
  dst : Nat
  n : Nat
  pattern : List Byte
  moved : Nat
  buf : Option (List Byte)
  deriving DecidableEq, Repr

/-- A paddock engine: operations held in issue order, issues that wait for their issuer's entry, and the rotation: the
entry served last and the lines of its grant. -/
structure Engine where
  ops : List EngineOp
  waiting : List EngineOp
  turn : Nat
  lines : Nat
  deriving DecidableEq, Repr

/-- A waiting request at an arbiter and the slots it has waited (R243, R245). -/
structure ArbWait where
  req : Nat
  slots : Nat
  deriving DecidableEq, Repr

/-- A gate arbiter (R243, R244): rank order, requests waiting in arrival order, grants since reset, owner and the
accesses of its grant. -/
structure ArbSt where
  order : List Nat
  waiting : List ArbWait
  n : Nat
  owner : Option Nat
  used : Nat
  deriving DecidableEq, Repr

/-- A main-memory channel (R434 to R444). -/
structure MemChan where
  /-- MMC_CH_CAP code -/
  cap : Nat
  trained : Bool
  failed : Bool
  selfRefresh : Bool
  patrol : Nat
  /-- write queue of bursts, oldest first: channel offset and data -/
  wq : List (Nat × List Byte)
  /-- writes that wait for an entry of the queue (R439), and the burst last delivered to a requester (R443) -/
  held : List (Nat × List Byte)
  out : List Byte
  /-- raw times of the uncorrectable bursts within the last second -/
  ueTimes : List Nat
  refreshes : Nat
  zqCals : Nat
  deriving DecidableEq, Repr

/-- In-service self-test of a die (R527 to R531). -/
structure SelfTest where
  pen : Nat
  done : Nat
  slices : Nat
  /-- raw start of the slice in progress -/
  running : Option Nat
  /-- the partial test is discarded at the slice's end (R527) -/
  discard : Bool
  /-- pens unfenced throughout the rotation -/
  through : Nat
  rotStart : Nat
  rotLast : Nat
  degraded : Bool
  overdueRaised : Bool
  deferredMark : Bool
  /-- the slice in progress was met by a window that became known after its start (R529) -/
  met : Bool
  /-- the pen test of a FENCE_CLEAR: raw start of its slice in progress, slices done, one of them failed; and whether a new
  fault fenced the unit during the test (R534) -/
  clearRun : Option Nat
  clearSlices : Nat
  clearFailed : Bool
  clearFault : Bool
  deriving DecidableEq, Repr

/-- A year record of the life log for a die (R484). -/
structure YearRec where
  year : Nat
  least : Nat
  median : Nat
  days : Nat
  deriving DecidableEq, Repr

/-- Aging of a die (R482 to R484): last 16 daily indices oldest first, year records. -/
structure Aging where
  days : List Nat
  years : List YearRec
  /-- the log was unreadable at start-up and fewer than 16 indices exist since (R483) -/
  unreadable : Bool
  deriving DecidableEq, Repr

/-- Junction temperature of a die (R475, R485). -/
structure Therm where
  now : Nat
  peak : Nat
  alarmed : Bool
  /-- below 45 C since the last counted cycle -/
  cold : Bool
  deriving DecidableEq, Repr

/-- Lines that an allocation takes at a target of a die (R437, R451): the first descriptor number of its use in R450, what
it is for, first line and number of lines. A die's five paddocks count as target 0 of 655,360 lines, line i on the paddock
of cluster i mod 5. -/
structure Alloc where
  target : Nat
  grp : Nat
  owner : List Nat
  base : Nat
  len : Nat
  deriving DecidableEq, Repr

/-- A line that a unit of a die has still to move through a paddock bank port (R242): requester 9 to 12, cluster, address,
the data to write there, or where the line read goes to (the memory port's: the main-memory address; the loft controller's: the
first of its loft entries), and the work it is for. -/
structure Xfer where
  req : Nat
  cluster : Nat
  addr : Nat
  data : List Byte
  out : Option Nat
  for_ : ReadFor
  deriving DecidableEq, Repr

/-- One die: index 0 is the hub. -/
structure Die where
  fences : List FenceCause
  /-- the die's core is powered -/
  powered : Bool
  /-- answers on its link and the halyard (R523) -/
  up : Bool
  pens : List UnitSt
  stalls : List StallSt
  /-- die-level units by the low 12 bits of their unit code (R43); READY where none is listed -/
  units : List (Nat × UnitSt)
  /-- pens gated off while fenced, whose fence stays in force (R42, R468) -/
  fencedOff : List Nat
  /-- pens whose power the die controller has gated after a fault of their warden (R41) -/
  cutPens : List Nat
  /-- flit last delivered at each port of the die (R15) -/
  ports : List (Nat × List Byte)
  links : List LinkSt
  paceWins : List PaceWin
  lowRun : Nat
  belowCnt : Nat
  /-- aged floor loaded (R34) -/
  floorKnown : Bool
  /-- latest term of R122 at an evaluation -/
  paceUsed : Nat
  audits : Nat
  grants : List LeaveItem
  requests : List LeaveItem
  therm : Therm
  aging : Aging
  selftest : SelfTest
  /-- raw times of the deadline misses charged within the last second (R408) -/
  misses : List Nat
  pads : List Memory
  engines : List Engine
  mmc : List MemChan
  mem : Memory
  /-- loft entries by number, 128 bits (R266) -/
  loft : List (Nat × Nat)
  mergePeak : Nat
  beRun : Option (Nat × Nat)
  csuOwned : Nat
  /-- raw bytes of the SRAM targets without records of their own, by target (R448); data last returned by a target of the
  die (R449); raw time of each bank's last full scrub or counted second, by target × 4,096 + bank (R445) -/
  sram : List (Nat × Memory)
  busOut : List Byte
  scrubs : List (Nat × Nat)
  /-- allocations at the die's targets (R451), and lines that its units have still to write to paddocks (R242) -/
  allocs : List Alloc
  xfers : List Xfer
  /-- the memory self-test's pass over each bank, by cluster × 64 + bank: its next line and its raw start (R530) -/
  linePass : List (Nat × Nat × Nat)
  deriving DecidableEq, Repr

/-! ## Contexts and frames (04 to 14) -/

/-- A loaded package (R107). -/
structure Pkg where
  handle : Nat
  decl : PkgDecl
  bytes : Nat
  digest : List Byte
  deriving DecidableEq, Repr

/-- A point record (R155). -/
structure Pt where
  x : Int
  y : Int
  z : Int
  inten : Nat
  sensor : Nat
  chan : Nat
  time : Nat
  deriving DecidableEq, Repr

/-- A sample of a pose table (R182): time, nine rotation elements, three of translation. -/
structure Pose where
  time : Int
  e : List Int
  deriving DecidableEq, Repr

/-- A sensor's pose table: mode 0 EMPTY, 1 STATIC, 2 MOVING (R182). -/
structure PoseTab where
  mode : Nat
  samples : List Pose
  deriving DecidableEq, Repr

/-- A point after deskew, with its frame index (R187). -/
structure DPt where
  j : Nat
  x : Int
  y : Int
  z : Int
  pt : Pt
  deriving DecidableEq, Repr

/-- A hash entry with its neighbour mask and rank (R194, R217). -/
structure Cell where
  key : Nat
  die : Nat
  slot : Nat
  count : Nat
  su : Nat
  sv : Nat
  sw : Nat
  inten : Nat
  sweep : Nat
  age : Nat
  mask : Nat
  rank : Nat
  deriving DecidableEq, Repr

/-- A site of a level (R207) with the exact coordinate sums and count its centroid is made of (R331). -/
structure Site where
  ix : Nat
  iy : Nat
  iz : Nat
  ckey : Nat
  cnt : Nat
  sx : Int
  sy : Int
  sz : Int
  deriving DecidableEq, Repr

/-- A pair of a rulebook: input rank, output rank, offset index (R222). -/
structure Pair where
  inp : Nat
  out : Nat
  off : Nat
  deriving DecidableEq, Repr

/-- A built class: pairs, or for a query the slots of each output with their used counts (R222, R224). -/
structure ClassBook where
  cls : Nat
  pairs : List Pair
  lists : List (List Nat)
  counts : List Nat
  deriving DecidableEq, Repr

/-- A row of a tensor or map: element codes, scale bytes, tag (R320, R278). -/
structure Row where
  codes : List Nat
  scales : List Nat
  tag : Nat
  deriving DecidableEq, Repr

/-- A list of the selection unit (R358): 32-byte header and entries as written, with what later operators need. -/
structure SelEntry where
  index : Nat
  value : Nat
  x : Int
  y : Int
  z : Int
  flagged : Bool
  carryA : Nat
  carryB : Nat
  deriving DecidableEq, Repr

/-- One row's list. -/
structure SelList where
  row : Nat
  cap : Nat
  entries : List SelEntry
  total : Nat
  overflow : Bool
  /-- some entry is flagged (header byte 12, bit 1), and the unused slots are the empty ones of a top-k (R355) -/
  flagged : Bool
  topK : Bool
  hasZ : Bool
  selSum : Nat
  leftSum : Nat
  nans : Nat
  deriving DecidableEq, Repr

/-- A tile of a stall operator run (R248, R280): its number in the run, die, stall, outputs lo to hi - 1, partition of
a split row, scale step of its latest attempt, done. -/
structure Tile where
  id : Nat
  /-- segment of its elements' chunks (R267) -/
  seg : Nat
  die : Nat
  stall : Nat
  lo : Nat
  hi : Nat
  part : Option Nat
  q : Nat
  done : Bool
  deriving DecidableEq, Repr

/-- What one element of a row holds after an attempt: FP32 bits, an integer, or an overflow's sign (R277). -/
inductive Elem where
  | f (bits : Nat)
  | i (v : Int)
  | overs (neg : Bool)
  deriving DecidableEq, Repr

/-- A row's result after its latest attempt. -/
structure RowRes where
  row : Nat
  elems : List Elem
  q : Nat
  tag : Nat
  deriving DecidableEq, Repr

/-- A partition's values waiting to be merged: FP64 bits or integers (R270). -/
structure PartRes where
  row : Nat
  part : Nat
  die : Nat
  q : Nat
  vals : List Elem
  tag : Nat
  deriving DecidableEq, Repr

/-- Merged prefix of a split row: number of partitions merged and the running values. -/
structure MergeSt where
  row : Nat
  upto : Nat
  q : Nat
  vals : List Elem
  tag : Nat
  deriving DecidableEq, Repr

/-- The operator run of a frame. -/
structure Run where
  op : Nat
  dies : List Nat
  /-- stalls that serve the run (R112) -/
  stalls : List Nat
  tiles : List Tile
  rows : List RowRes
  parts : List PartRes
  merges : List MergeSt
  /-- stage items done per die (cells, sites, windows or elements) -/
  done : List (Nat × Nat)
  /-- partition lists of the selection unit: die, indices emitted -/
  selParts : List (Nat × List Nat)
  /-- rows in each die's halo copy (R213) -/
  halo : List (Nat × List Nat)
  /-- rows of split runs whose pre-pass tile was flagged (R238, R278) -/
  preFlags : List Nat
  deriving DecidableEq, Repr

/-- Where a frame stands. -/
inductive FPhase where
  | opened
  | pending
  | accepted
  | waiting
  | refused
  | sealed
  deriving DecidableEq, Repr

/-- The checker's verdict of a frame (R402, R403). -/
structure ChkRes where
  counts : List Nat
  dist : List Nat
  noPose : Bool
  stale : Bool
  deriving DecidableEq, Repr

/-- The ML path's result (R361). -/
structure MlRes where
  counts : List Nat
  dist : List Nat
  untrusted : Bool
  deriving DecidableEq, Repr

/-- A combined gradient of a map row (R386): table, row, element values (FP32 bits). -/
structure Grad where
  table : Nat
  row : Nat
  vals : List Nat
  eta : Nat
  deriving DecidableEq, Repr

/-- One frame of one context. -/
structure Frame where
  ctx : Nat
  num : Nat
  phase : FPhase
  /-- n-th frame of its train -/
  idx : Nat
  /-- corrected open, previous close, scheduled close of periodic mode; corrected close, raw close, raw deadline and cut-off -/
  prevClose : Nat
  sched : Nat
  close : Nat
  closeRaw : Nat
  deadline : Nat
  cutoff : Nat
  /-- PDE_TS_LEAD_US at the close, in ns (R194) -/
  lead : Nat
  pts : List Pt
  /-- guaranteed or best-effort points admitted to the checker up to this frame's last one (R404) -/
  chkUpto : Nat
  /-- which of the frame's points the checker store holds (all but those of R400) -/
  chkPts : List Nat
  /-- the frame holds its half of the point store and of the checker store, half idx mod 2; a point met a half that was
  not free -/
  psHalf : Bool
  ckHalf : Bool
  psHeld : Bool
  ckHeld : Bool
  silent : Bool
  /-- the pose tables at the close (R185) -/
  poses : List (Nat × PoseTab)
  poseEvents : List Nat
  /-- points read per die by deskew, points deskewed, next j for voxelisation -/
  dskDone : List (Nat × Nat)
  dpts : List DPt
  voxNext : Nat
  cells : List Cell
  truncated : Bool
  voxDone : Bool
  pairs : List (Nat × Nat)
  pass : Nat
  refusal : Nat
  /-- reference instant of the accepting pass, its bound's terms up to and including each operator by position with the
  whole bound after the last (R414), and the retry budget left (R282) -/
  refRaw : Nat
  cum : List (Nat × Nat)
  nCells : Nat
  retry : Nat
  retryEnded : Bool
  /-- reserved shares and stalls available per die as recorded at acceptance (R208) -/
  shares : List (Nat × Nat × Nat)
  csuStarted : Bool
  csuDone : List (Nat × Nat)
  ordered : Bool
  order : List Nat
  cuts : List Nat
  levels : List (Nat × List Site)
  books : List ClassBook
  tensors : List (Nat × List (Nat × Row))
  maps : List (Nat × List (Nat × Row))
  lists : List (Nat × List SelList)
  run : Run
  poisoned : Bool
  chkReady : Bool
  chkBad : Bool
  chk : Option ChkRes
  mlIn : Bool
  ml : Option MlRes
  grads : List Grad
  /-- tables whose update by the frame is discarded (R387) -/
  gradsOff : List Nat
  background : Bool
  epochs : List (Nat × Nat)
  followed : Bool
  stamps : List (Nat × Nat × Nat)
  deriving DecidableEq, Repr

/-- A held update of a delivered background frame (R387): its context, the raw time of its seal, and its gradients. -/
structure HeldUpd where
  ctx : Nat
  order : Nat
  grads : List Grad
  deriving DecidableEq, Repr

/-- A zone's standing state (R411, R431). -/
structure ZoneSt where
  hist : Nat
  latched : Bool
  combined : Bool
  checker : Bool
  ml : Bool
  deriving DecidableEq, Repr

/-- The frame train of a context (R116 to R118). -/
structure Train where
  first : Nat
  /-- frames closed, number of the next frame to close, corrected time of the previous close -/
  n : Nat
  num : Nat
  prev : Nat
  stop : Bool
  deriving DecidableEq, Repr

/-- A context (R106, R109). -/
structure Ctx where
  id : Nat
  /-- state code of R106 -/
  st : Nat
  /-- PAUSED and to return to DEGRADED (R382) -/
  pausedDegraded : Bool
  guaranteed : Bool
  zones : List (List Byte)
  pkg : Nat
  period : Nat
  deadline : Nat
  pointCap : Nat
  cellCap : Nat
  keep : Nat
  dieMask : Nat
  domain : Nat
  pages : Nat
  hostPaced : Bool
  share : Nat
  chan : Nat
  firstPage : Nat
  bound : Nat
  stage : Nat
  train : Option Train
  /-- the point store and the checker store are allocated (R180, R400) -/
  stores : Bool
  delivered : Nat
  refusedCnt : Nat
  late : Nat
  slacks : List Int
  destroy : Option Nat
  vseq : Nat
  zst : List ZoneSt
  /-- latest verdict sent: raw time, and whether it shows no protective zone occupied (R418) -/
  sentAt : Option Nat
  sentClear : Bool
  chkClear : Bool
  ageLog : Nat
  /-- frames still followed after a miss or a fence clear (R413) -/
  follow : Nat
  /-- adapted weight tensors: by tensor number, the bytes that differ from the package's, by offset (R311) -/
  adapted : List (Nat × List (Nat × Byte))
  /-- its later checker verdicts are not ready until CTX_DESTROY (R445) -/
  chkDead : Bool
  deriving DecidableEq, Repr

/-! ## Ingest and time (05) -/

/-- A frame in a lane's receive buffer or in the firmware queue, with its arrival instant (R140, R153). -/
structure RxFrame where
  lane : Nat
  bytes : List Byte
  arrival : Nat
  deriving DecidableEq, Repr

/-- A packet in decode on a lane (R156). -/
structure Decoding where
  sensor : Nat
  /-- the decoder descriptor and the steering entry's contexts as they stood when the packet was steered -/
  desc : List Byte
  ctxs : List Nat
  payload : List Byte
  block : Nat
  arrival : Nat
  deriving DecidableEq, Repr

/-- A frame waiting in a lane's transmit queue; verdict frames carry their context and destination (R417). -/
structure TxFrame where
  verdict : Option (Nat × Nat)
  bytes : List Byte
  deriving DecidableEq, Repr

/-- An Ethernet lane (R138 to R176). -/
structure Lane where
  up : Bool
  locked : Bool
  lockRaw : Nat
  remoteFault : Bool
  rx : List RxFrame
  dec : Option Decoding
  tx : List TxFrame
  /-- last frame that left the lane -/
  sent : List Byte
  deriving DecidableEq, Repr

/-- A steering entry (R143), as the operand bytes 18 to 175. -/
structure Steer where
  kind : Nat
  plen : Nat
  mask : Nat
  dport : Nat
  sport : Nat
  vlan : Nat
  desc : Nat
  ctxs : List Nat
  addr : List Byte
  deriving DecidableEq, Repr

/-- Per-sensor ingest state (R160). -/
structure Sensor where
  /-- raw times: last valid point, and since when the entry lists an open train -/
  lastPt : Option Nat
  listed : Option Nat
  /-- the silence event was raised and no point came since -/
  raised : Bool
  deriving DecidableEq, Repr

/-- A published host window (R161, R163): channel, window, header taken, raw publish time. -/
structure HiwBusy where
  ch : Nat
  win : Nat
  header : List Byte
  at_ : Nat
  deriving DecidableEq, Repr

/-- A PTP master as announced (R169). -/
structure PtpMaster where
  gm : List Byte
  port : List Byte
  dataset : List Byte
  deriving DecidableEq, Repr

/-- A foreign master (R169): its announce interval in ns, and the raw times of its last two Announces, latest first. -/
structure Foreign where
  master : PtpMaster
  interval : Nat
  times : List Nat
  deriving DecidableEq, Repr

/-- The time unit (R164 to R171). -/
structure Tmu where
  offset : Int
  rate : Int
  anchor : Nat
  /-- PTP servo: state code of TMU_PTP_STATE while the source is PTP, estimate, good estimates in a row -/
  servo : Nat
  est : Int
  good : Nat
  lastSync : Nat
  /-- masters heard, the one selected, and the grandmaster last selected -/
  foreign : List Foreign
  master : Option PtpMaster
  gm : Option (List Byte)
  /-- two-step Sync awaiting Follow_Up: sequence, receive time, correction -/
  pendSync : Option (Nat × Nat × Int)
  /-- Delay_Req sent: sequence and send time -/
  delayReq : Option (Nat × Nat)
  pathDelay : Int
  /-- latest master-to-slave difference -/
  msDiff : Int
  stepHeld : Bool
  reqSeq : Nat
  /-- raw second at which the calendar was last set from PTP -/
  calAt : Nat
  deriving DecidableEq, Repr

/-! ## Map tables (13) -/

/-- A stored map row: class and storage bytes (R367). -/
structure MapRow where
  cls : Nat
  data : List Byte
  deriving DecidableEq, Repr

/-- A map table replacement that is open (R378). -/
structure MapLoad where
  width : Nat
  rowCount : Nat
  shards : Nat
  dies : Nat
  /-- rows in the classes of their records, and as they are placed: whether the table is small so far, and its rows -/
  rows : List MapRow
  small : Bool
  placed : List MapRow
  /-- the last part's command, once it is placed -/
  slot : Option Nat
  paused : List Nat
  deriving DecidableEq, Repr

/-- A flip in progress (R391): the copied rows, and the held updates it includes once its cut-off has passed. -/
structure Flip where
  rows : List MapRow
  taken : Option Nat
  deriving DecidableEq, Repr

/-- A map table (R366). -/
structure MapTable where
  id : Nat
  /-- state code of MTU_TB_STATE -/
  st : Nat
  width : Nat
  shards : Nat
  dies : Nat
  small : Bool
  /-- dies of the mask that lost their copy of a small table (R393) -/
  lostCopies : Nat
  epoch : Nat
  rows : List MapRow
  oldRows : Option (Nat × List MapRow)
  hits : List (Nat × Nat)
  /-- frames delivered since the last re-class -/
  since : Nat
  upd : List HeldUpd
  load : Option MapLoad
  flip : Option Flip
  flipHeldRaised : Bool
  deriving DecidableEq, Repr

/-! ## Checker and verdict unit (14) -/

/-- A stop output (R418 to R421). -/
structure StopSt where
  level : Bool
  toggled : Bool
  /-- static until device reset -/
  dead : Bool
  fails : Nat
  /-- level driven at the last edge, awaiting its readback, and the raw time of that edge -/
  edge : Option (Bool × Nat)
  /-- raw time of the last heartbeat received by the unit that drives it, and whether one has come since reset (R430) -/
  hb : Nat
  heard : Bool
  deriving DecidableEq, Repr

/-- The checker and the verdict unit. -/
structure Zck where
  gAdm : Nat
  gTaken : Nat
  bAdm : Nat
  bTaken : Nat
  /-- hub channel failed: no checker verdict is ready until reset (R444) -/
  dead : Bool
  outA : StopSt
  outB : StopSt
  boundary : Nat
  deriving DecidableEq, Repr

/-! ## Power, life log, security, start-up (16 to 19) -/

/-- Power state and its transitions (R458 to R470). -/
structure Pwr where
  st : Nat
  changing : Bool
  from_ : Nat
  target : Nat
  slot : Option Nat
  /-- commands accepted before the PWR_STATE_SET, still in flight (R462) -/
  before : List Nat
  stepAt : Nat
  level : Nat
  /-- PACE_SET in progress: level, command, drive instant, frames to wait for -/
  paceTo : Option Nat
  paceSlot : Nat
  paceDriven : Option Nat
  paceWait : List (Nat × Nat)
  /-- GATE_SET in progress: command, die, mask, action, raw start -/
  gate : Option (Nat × Nat × Nat × Nat × Nat)
  /-- FENCE_CLEAR in progress: command, die, kind, pen, raw start -/
  clear : Option (Nat × Nat × Nat × Nat × Nat)
  diesOff : List Nat
  deriving DecidableEq, Repr

/-- Supplies and control pins (R545 to R551). -/
structure Pins where
  hpSingle : Bool
  flOctal : Bool
  sampledSingle : Bool
  sampledOctal : Bool
  supplied : Bool
  resetN : Bool
  pwrReq : Bool
  cmpEn : Bool
  vsel : Nat
  tripN : Bool
  hint : Bool
  safeOk : Bool
  deriving DecidableEq, Repr

/-- The backup domain (R476, R477, R518). -/
structure Backup where
  cal : Nat
  calValid : Bool
  calNs : Nat
  trip : Option Nat
  cause : Nat
  deriving DecidableEq, Repr

/-- A life-log record (R478). -/
structure LifeRec where
  typ : Nat
  die : Nat
  calBad : Bool
  seq : Nat
  cal : Nat
  /-- the values of its payload in the order of R479 -/
  fields : List Nat
  /-- its CRC fails when it is read back -/
  bad : Bool
  deriving DecidableEq, Repr

/-- Totals of a die since the device was first provisioned (R479): powered time in ns, energy in mW ns, thermal cycles,
peak junction, late leave grants, over-reservations; and its daily indices recorded (R482). -/
structure DieTot where
  powered : Nat
  energy : Nat
  cycles : Nat
  peak : Nat
  late : Nat
  overs : Nat
  days : Nat
  deriving DecidableEq, Repr

/-- The life log (R478 to R481, R484). -/
structure Life where
  recs : List LifeRec
  next : Nat
  /-- operating time, and the part of it in READY or SERVING, in ns -/
  opNs : Nat
  readyNs : Nat
  /-- operating time of the last checkpoint; years closed; power-ons; event records not written -/
  lastCkpt : Nat
  years : Nat
  powerOns : Nat
  dropped : Nat
  tot : List DieTot
  /-- corrections per SRAM bank (one-bit, two-bit, uncorrectable, mask of bits) and per channel (by kind, mask of
  symbols, lowest and highest row) -/
  banks : List (Nat × List Nat)
  chans : List (Nat × List Nat)
  /-- daily indices of the running year by die -/
  yearDays : List (Nat × List Nat)
  /-- operating second and the event records written in it -/
  sec : Nat
  secCnt : Nat
  /-- the latest program or erase of the log's region that an outcome was given for has failed (R480) -/
  flashBad : Bool
  deriving DecidableEq, Repr

/-- A firmware image slot of the flash, as the boot ROM's checks find it (R497). -/
structure Image where
  valid : Bool
  svn : Nat
  key : Nat
  digest : List Byte
  deriving DecidableEq, Repr

/-- A boot record (R520). -/
structure BootRec where
  cand : Nat
  active : Nat
  attempts : Nat
  seq : Nat
  deriving DecidableEq, Repr

/-- An owner record copy (R506). -/
structure OwnerRec where
  gen : Nat
  key : List Byte
  /-- the device's signature over both, as what it was made with: the seed of the device key, the generation and the
  key signed (log entry 84, DESIGN CHOICE) -/
  sig : Nat × Nat × List Byte
  deriving DecidableEq, Repr

/-- The one-time-programmable fields (R492) and the flash (R520). -/
structure NonVol where
  seed : Option Nat
  provisioned : Bool
  returned : Bool
  ownerGen : Nat
  svn : Nat
  revoked : List Nat
  owner0 : Option OwnerRec
  owner1 : Option OwnerRec
  cert : List Byte
  /-- the two boot record copies as the flash holds them -/
  recs : List (List Byte)
  images : List Image
  deriving DecidableEq, Repr

/-- The security engine (R493 to R515). -/
structure Sec where
  debug : Nat
  /-- raw expiry of an unlock with a duration -/
  until_ : Option Nat
  /-- open challenge: level, nonce, raw time -/
  chal : Option (Nat × List Byte × Nat)
  /-- raw time of the reset that ends an INTRUSIVE unlock -/
  resetAt : Option Nat
  keyReady : Bool
  trng : Nat
  trngFails : Nat
  trngAt : Nat
  /-- open firmware update: bytes so far, and the last part's command -/
  upd : Option (List Byte)
  updSlot : Option Nat
  updImage : Option Image
  deriving DecidableEq, Repr

/-- Refusals of a target (SEC_FW_STATUS). -/
structure FwStat where
  domain : Nat
  write : Bool
  line : Nat
  count : Nat
  deriving DecidableEq, Repr

/-- The debug interface (R507). -/
structure Dbg where
  /-- TAP instruction: 0 BYPASS, 1 IDCODE, 2 SAMPLE/PRELOAD, 3 EXTEST; the data register; the update stage of the boundary
  register, which EXTEST drives -/
  ir : Nat
  dr : Nat
  update : Nat
  halted : Bool
  regs : List (Nat × Nat)
  hubMem : Memory
  out : Nat
  deriving DecidableEq, Repr

/-- Where the part stands between reset and READY. -/
inductive BootPhase where
  | off
  | held
  | starting
  | running
  | faulted
  deriving DecidableEq, Repr

/-- Start-up (R522 to R526). -/
structure Boot where
  phase : BootPhase
  /-- what start-up finds, from the release of RESET_N until it ends; raw instants at which the port answers and at which
  start-up ends (R50, R522) -/
  plan : Option BootReport
  answerAt : Nat
  doneAt : Nat
  /-- HPT_ID_BOOT -/
  idBoot : Nat
  step : Nat
  fault : Nat
  slot : Nat
  fellBack : Bool
  cause : Nat
  diesUp : Nat
  /-- management processor halted by an uncorrectable word (R445) -/
  halted : Bool
  deriving DecidableEq, Repr

/-- The board management port (R552, R553). -/
structure Bmp where
  dyn : Option Nat
  forced : Bool
  deriving DecidableEq, Repr

/-- The state of the machine. -/
structure State where
  /-- commands that wait, first in, first out -/
  pending : List Instr
  /-- the MODEL's own counter of free values (log entry 2), not the spec's -/
  free : Nat
  variant : Nat
  /-- the raw counter (R164) -/
  raw : Nat
  pins : Pins
  boot : Boot
  chans : List Chan
  cfg : Cfg
  /-- counters by register × 65,536 + index (every counter rule), and counts below a counter's unit -/
  cnt : List (Nat × Nat)
  sub : List (Nat × Nat)
  txn : Txn
  log : EventLog
  dies : List Die
  hops : List HopSt
  /-- last halyard message delivered to each node of R25, by its key -/
  halyard : List (Nat × List Byte)
  arbs : List (Nat × ArbSt)
  pkgs : List Pkg
  ctxs : List Ctx
  frames : List Frame
  lanes : List Lane
  fwq : List RxFrame
  steer : List (Nat × Steer)
  decs : List (Nat × List Byte)
  sensors : List (Nat × Sensor)
  hiw : List HiwBusy
  /-- raw instant of the latest block start, and its place in the order of R159: a lane, or 16 for a host window -/
  lastBlock : Nat × Nat
  tmu : Tmu
  poses : List (Nat × PoseTab)
  tables : List MapTable
  zck : Zck
  pwr : Pwr
  backup : Backup
  life : Life
  nv : NonVol
  sec : Sec
  fwStat : List (Nat × FwStat)
  dbg : Dbg
  bmp : Bmp
  deriving DecidableEq, Repr

/-! ## Reset -/

/-- A unit that is OFF (R29, R30). -/
def UnitSt.reset : UnitSt := ⟨.off, .off, 0, false⟩

/-- A channel right after device reset: mode registers at their lowest bins, ring empty (R51, R84). The spec gives no
rate before the first measurement and does not say which latency codes lie below the minimum then: the model starts at
10,667 MT/s with none (log entries 5 and 63, DESIGN CHOICE). -/
def Chan.reset : Chan :=
  { rate := 10667, low := [.active, .active], trained := [{}, {}], mr := [], lowLat := [], lowRep := [], rows := [], mem := [],
    hostMeta := [], rdData := List.replicate 32 0, rdMeta := 0, mrOut := 0, unbacked := 0, roWrites := 0,
    unsupported := 0, latencyErr := 0, sramUe := 0, refused := 0, busySeals := 0, consumerInvalid := 0, prod := 0,
    cons := 0, penTimes := [], lost := 0, lostSince := 0, seqs := [], inflight := [], pages := [],
    rateEvent := false, winSeq := [] }

def StallSt.reset : StallSt :=
  { view := UnitSt.reset, gathers := [], waiting := [], thrData := [], moved := [], active := [], shadow := [],
    set_ := 0, drain := 0, near := [], streamed := [], flagged := false, hubWay := [] }

def LinkSt.reset : LinkSt := ⟨0, 0, false, [], 0, [], 0, []⟩

def MemChan.reset : MemChan :=
  { cap := 0, trained := false, failed := false, selfRefresh := false, patrol := 0, wq := [], held := [], out := [], ueTimes := [],
    refreshes := 0, zqCals := 0 }

def Engine.reset : Engine := ⟨[], [], 0, 0⟩

def SelfTest.reset : SelfTest :=
  { pen := 0, done := 0, slices := 0, running := none, discard := false, through := 0, rotStart := 0, rotLast := 0,
    degraded := false, overdueRaised := false, deferredMark := false, met := false, clearRun := none, clearSlices := 0,
    clearFailed := false, clearFault := false }

def Die.reset (hub : Bool) : Die :=
  { fences := [], powered := false, up := false,
    pens := List.replicate (if hub then 0 else 4) UnitSt.reset,
    stalls := List.replicate (if hub then 0 else 40) StallSt.reset,
    units := [], fencedOff := [], cutPens := [], ports := [], links := List.replicate (if hub then 7 else 3) LinkSt.reset, paceWins := [],
    lowRun := 0, belowCnt := 0, floorKnown := false, paceUsed := 0, audits := 0, grants := [], requests := [],
    therm := ⟨0, 0, false, false⟩, aging := ⟨[], [], false⟩, selftest := SelfTest.reset, misses := [],
    pads := List.replicate (if hub then 0 else 5) [],
    engines := List.replicate (if hub then 0 else 5) Engine.reset,
    mmc := List.replicate (if hub then 2 else 4) MemChan.reset, mem := [], loft := [], mergePeak := 0,
    beRun := none, csuOwned := 0, sram := [], busOut := [], scrubs := [], allocs := [], xfers := [],
    linePass := [] }

def Lane.reset : Lane :=
  { up := false, locked := false, lockRaw := 0, remoteFault := false, rx := [], dec := none, tx := [], sent := [] }

def StopSt.reset : StopSt := ⟨false, false, false, 0, none, 0, false⟩

def Tmu.reset : Tmu :=
  { offset := 0, rate := 0, anchor := 0, servo := 1, est := 0, good := 0, lastSync := 0, foreign := [], master := none, gm := none,
    pendSync := none, delayReq := none, pathDelay := 0, msDiff := 0, stepHeld := false, reqSeq := 0, calAt := 0 }

def Pwr.reset : Pwr :=
  { st := 3, changing := false, from_ := 3, target := 3, slot := none, before := [], stepAt := 0, level := 1, paceTo := none,
    paceSlot := 0, paceDriven := none, paceWait := [], gate := none, clear := none, diesOff := [] }

def Zck.reset : Zck :=
  { gAdm := 0, gTaken := 0, bAdm := 0, bTaken := 0, dead := false, outA := StopSt.reset, outB := StopSt.reset,
    boundary := 0 }

def Sec.reset : Sec :=
  { debug := 0, until_ := none, chal := none, resetAt := none, keyReady := false, trng := 0, trngFails := 0,
    trngAt := 0, upd := none, updSlot := none, updImage := none }

def Boot.reset : Boot :=
  { phase := .held, plan := none, answerAt := 0, doneAt := 0, idBoot := 0, step := 0, fault := 0, slot := 0, fellBack := false, cause := 0, diesUp := 0,
    halted := false }

/-- Everything a device reset loses (R518), over what it keeps: the variant, the pins, the backup domain, the life
log's flash, the one-time-programmable fields and the flash. -/
def State.coldReset (variant : Nat) (pins : Pins) (backup : Backup) (life : Life) (nv : NonVol) (free : Nat)
    (pending : List Instr) : State :=
  { pending := pending, free := free, variant := variant, raw := 0, pins := pins, boot := Boot.reset,
    chans := [Chan.reset, Chan.reset], cfg := ⟨[], [], []⟩, cnt := [], sub := [],
    txn := { st := 0, id := 0, nextId := 1, buf := [], lastUse := 0, commits := [] },
    log := ⟨[], 1, []⟩, dies := Die.reset true :: List.replicate 7 (Die.reset false),
    hops := List.replicate 8 ⟨0, false⟩, halyard := [], arbs := [], pkgs := [], ctxs := [], frames := [],
    lanes := List.replicate 16 Lane.reset, fwq := [], steer := [], decs := [], sensors := [], hiw := [], lastBlock := (0, 0),
    tmu := Tmu.reset, poses := [], tables := [], zck := Zck.reset, pwr := Pwr.reset, backup := backup,
    life := life, nv := nv, sec := Sec.reset, fwStat := [], dbg := ⟨0, 0, 0, false, [], [], 0⟩,
    bmp := ⟨none, false⟩ }

/-- The pins while the part is held in its first reset with every rail present (R545 to R550). -/
def Pins.reset : Pins :=
  { hpSingle := false, flOctal := false, sampledSingle := false, sampledOctal := false, supplied := true,
    resetN := false, pwrReq := false, cmpEn := false, vsel := 1, tripN := true, hint := false, safeOk := true }

/-- The non-volatile content of a new part (log entry 14). -/
def NonVol.reset : NonVol :=
  { seed := none, provisioned := false, returned := false, ownerGen := 0, svn := 0, revoked := [], owner0 := none,
    owner1 := none, cert := [], recs := [[], []], images := [⟨true, 0, 0, List.replicate 64 0⟩, ⟨false, 0, 0, []⟩] }

def Life.reset : Life :=
  { recs := [], next := 1, opNs := 0, readyNs := 0, lastCkpt := 0, years := 0, powerOns := 0, dropped := 0,
    tot := List.replicate 8 ⟨0, 0, 0, 0, 0, 0, 0⟩, banks := [], chans := [], yearDays := [], sec := 0, secCnt := 0, flashBad := false }

/-- The machine right after reset: an LN880-8 held in its first reset, straps low (log entries 3 and 14). -/
def State.reset : State :=
  State.coldReset 8 Pins.reset ⟨0, false, 0, none, 1⟩ Life.reset NonVol.reset 0 []

end Sys2Proof.Machine
end

