-- ==== Sys2Proof/Machine/Regs.lean ====
section
/-!
DEFINITION. The register map (R94): every register of the field maps with its identifier, the masks of its field
classes (R95), its reset value and the ranges of its writable fields.
-/
namespace Sys2Proof.Machine

/-- A writable field: bits [hi:lo] and its stated range. -/
structure FldSpec where
  hi : Nat
  lo : Nat
  min : Nat
  max : Nat
  deriving DecidableEq, Repr

/-- A register: identifier, masks of its LIVE, STAGED, LOCKED and RO fields (reserved bits in none), reset value of the
writable fields, writable fields. -/
structure RegSpec where
  id : Nat
  live : Nat
  staged : Nat
  locked : Nat
  ro : Nat
  reset : Nat
  flds : List FldSpec
  deriving DecidableEq, Repr

def rDcuCapacity : Nat := 0x0100
def rDcuPenState : Nat := 0x0101
def rDcuPaceStatus : Nat := 0x0102
def rDcuStallCnt : Nat := 0x0103
def rDcuArithCnt : Nat := 0x0104
def rDcuSparseCnt : Nat := 0x0105
def rDcuOpCnt : Nat := 0x0106
def rDcuSramCnt : Nat := 0x0107
def rDcuLeaveBudget : Nat := 0x0108
def rDcuLeaveStatus : Nat := 0x0109
def rDcuTherm : Nat := 0x010A
def rDcuStCfg : Nat := 0x010B
def rDcuStStatus : Nat := 0x010C
def rDcuStCnt : Nat := 0x010D
def rHptCfg : Nat := 0x0200
def rHptHintCfg : Nat := 0x0201
def rMbxCfg : Nat := 0x0300
def rMbxTxnCfg : Nat := 0x0301
def rAdmCfg : Nat := 0x0400
def rAdmStatus : Nat := 0x0401
def rAdmPaceUsed : Nat := 0x0402
def rAdmChkStatus : Nat := 0x0403
def rPdeLaneCfg : Nat := 0x0500
def rPdeIp4 : Nat := 0x0501
def rPdeIngestCfg : Nat := 0x0502
def rPdeLaneStatus : Nat := 0x0503
def rPdeLaneCnt : Nat := 0x0504
def rPdeSensorCnt : Nat := 0x0505
def rTmuCfg : Nat := 0x0600
def rTmuPtpCfg : Nat := 0x0601
def rTmuNow : Nat := 0x0602
def rTmuOffset : Nat := 0x0603
def rTmuRateStatus : Nat := 0x0604
def rDskCfg : Nat := 0x0700
def rDskStatus : Nat := 0x0701
def rDskPoseStatus : Nat := 0x0702
def rDskCtxCnt : Nat := 0x0703
def rVhuStatus : Nat := 0x0800
def rVhuCtxCnt : Nat := 0x0801
def rCsuStatus : Nat := 0x0900
def rCsuCtxCnt : Nat := 0x0901
def rRbbLast : Nat := 0x0A00
def rRbbCtxCnt : Nat := 0x0A01
def rPdkArbOrder : Nat := 0x0B00
def rPdkClusterCnt : Nat := 0x0B01
def rLftStatus : Nat := 0x0C00
def rLftCnt : Nat := 0x0C01
def rMtuCfg : Nat := 0x0D00
def rMtuCtxCfg : Nat := 0x0D01
def rMtuSrState : Nat := 0x0D02
def rMtuTableStatus : Nat := 0x0D03
def rMtuTableClass : Nat := 0x0D04
def rMtuStatus : Nat := 0x0D05
def rMtuCtxCnt : Nat := 0x0D06
def rBsuCtxCnt : Nat := 0x0E00
def rSelCtxCnt : Nat := 0x0F00
def rZckCfg : Nat := 0x1000
def rZckStatus : Nat := 0x1001
def rZckCtxCnt : Nat := 0x1002
def rVrdCfg : Nat := 0x1100
def rVrdDest : Nat := 0x1101
def rVrdDestIp : Nat := 0x1102
def rVrdCtxCfg : Nat := 0x1103
def rVrdStopStatus : Nat := 0x1104
def rVrdZoneState : Nat := 0x1105
def rVrdAgeLog : Nat := 0x1106
def rVrdCtxCnt : Nat := 0x1107
def rMmcCfg : Nat := 0x1200
def rMmcChStatus : Nat := 0x1201
def rMmcChCnt : Nat := 0x1202
def rLnkReplayCnt : Nat := 0x1300
def rMgpPaceStatus : Nat := 0x1400
def rMgpSramCnt : Nat := 0x1401
def rMgpTherm : Nat := 0x1402
def rMgpPwrStatus : Nat := 0x1403
def rMgpBootStatus : Nat := 0x1404
def rSecFwRange : Nat := 0x1500
def rSecFwPerm : Nat := 0x1501
def rSecFwStatus : Nat := 0x1502
def rSecState : Nat := 0x1503
def rSecDeviceId : Nat := 0x1504
def rSecCfg : Nat := 0x1505
def rSecTrngCnt : Nat := 0x1506
def rLflCfg : Nat := 0x1600
def rLflStatus : Nat := 0x1601
def rLflCalendar : Nat := 0x1602
def rLflAging : Nat := 0x1603
def rLflProjection : Nat := 0x1604
def rBmpCfg : Nat := 0x1700

/-- Registers of the map, part 1. -/
def regPart1 : List RegSpec := [
  ⟨0x0100, 0, 0, 0, 0xffffff03, 0, []⟩,
  ⟨0x0101, 0, 0, 0, 0xffffffff, 0, []⟩,
  ⟨0x0102, 0, 0, 0, 0xffffffffff03ffff, 0, []⟩,
  ⟨0x0103, 0, 0, 0, 0xffffffff, 0, []⟩,
  ⟨0x0104, 0, 0, 0, 0xffffffff, 0, []⟩,
  ⟨0x0105, 0, 0, 0, 0xffffffff, 0, []⟩,
  ⟨0x0106, 0, 0, 0, 0xffffffff, 0, []⟩,
  ⟨0x0107, 0, 0, 0, 0xffffffff, 0, []⟩,
  ⟨0x0108, 0xfffff, 0, 0, 0, 0xabe0, [⟨19, 0, 5000, 70000⟩]⟩,
  ⟨0x0109, 0, 0, 0, 0xfffffffffffffff1, 0, []⟩,
  ⟨0x010A, 0, 0xffff0000, 0, 0xffff, 0x64030000, [⟨31, 24, 70, 115⟩, ⟨23, 16, 1, 20⟩]⟩,
  ⟨0x010B, 0, 0xfffff000, 0, 0, 0x7814000, [⟨31, 20, 100, 4095⟩, ⟨19, 12, 12, 255⟩]⟩,
  ⟨0x010C, 0, 0, 0, 0xffe00000ffffffff, 0, []⟩,
  ⟨0x010D, 0, 0, 0, 0xffffffff, 0, []⟩,
  ⟨0x0200, 1, 0, 0, 0, 0, [⟨0, 0, 0, 1⟩]⟩,
  ⟨0x0201, 0x80ffffff, 0, 0, 0, 0x1000, [⟨31, 31, 0, 1⟩, ⟨23, 12, 0, 4095⟩, ⟨11, 0, 0, 4095⟩]⟩,
  ⟨0x0300, 0, 0xffffffff, 0, 0, 0x20000000, [⟨31, 16, 1, 8192⟩, ⟨15, 0, 0, 8191⟩]⟩,
  ⟨0x0301, 0xffff, 0, 0, 0, 0x3e8, [⟨15, 0, 0, 65535⟩]⟩,
  ⟨0x0400, 0, 0xffc00000, 0x3fffbf, 0, 0x78a0818, [⟨31, 22, 30, 200⟩, ⟨21, 15, 0, 100⟩, ⟨14, 7, 0, 64⟩, ⟨5, 0, 8, 32⟩]⟩,
  ⟨0x0401, 0, 0, 0, 0xffffffffff83ffff, 0, []⟩,
  ⟨0x0402, 0, 0, 0, 0xffff0000, 0, []⟩,
  ⟨0x0403, 0, 0, 0, 0xffffffff, 0, []⟩,
  ⟨0x0500, 0, 0xfffffffffffff000, 0, 0, 0, [⟨63, 16, 0, 281474976710655⟩, ⟨15, 15, 0, 1⟩, ⟨14, 14, 0, 1⟩, ⟨13, 12, 0, 2⟩]⟩,
  ⟨0x0501, 0xffffffff, 0, 0, 0, 0, [⟨31, 0, 0, 4294967295⟩]⟩]

/-- Registers of the map, part 2. -/
def regPart2 : List RegSpec := [
  ⟨0x0502, 0, 0xfffffffffff00000, 0, 0, 0x2710064006400000, [⟨63, 48, 0, 65535⟩, ⟨47, 36, 0, 4095⟩, ⟨35, 20, 0, 65535⟩]⟩,
  ⟨0x0503, 0, 0, 0, 0xc0000000, 0, []⟩,
  ⟨0x0504, 0, 0, 0, 0xffffffff, 0, []⟩,
  ⟨0x0505, 0, 0, 0, 0xffffffff, 0, []⟩,
  ⟨0x0600, 0x1ffff, 0, 0xfffc0000, 0, 0x3e8, [⟨31, 31, 0, 1⟩, ⟨30, 24, 0, 127⟩, ⟨23, 20, 0, 15⟩, ⟨19, 18, 0, 2⟩, ⟨16, 0, 0, 100000⟩]⟩,
  ⟨0x0601, 0xffffffff, 0, 0, 0, 0xbb80014, [⟨31, 16, 1, 65535⟩, ⟨15, 0, 1, 1000⟩]⟩,
  ⟨0x0602, 0, 0, 0, 0xffffffffffffffff, 0, []⟩,
  ⟨0x0603, 0, 0, 0, 0xffffffffffffffff, 0, []⟩,
  ⟨0x0604, 0, 0, 0, 0xffffffffffffffff, 0, []⟩,
  ⟨0x0700, 0, 0, 0xfff, 0, 0x400, [⟨11, 0, 64, 4095⟩]⟩,
  ⟨0x0701, 0, 0, 0, 0xffffffff, 0, []⟩,
  ⟨0x0702, 0, 0, 0, 0xfe000000ffffffff, 0, []⟩,
  ⟨0x0703, 0, 0, 0, 0xffffffff, 0, []⟩,
  ⟨0x0800, 0, 0, 0, 0x3ffff0003ffff, 0, []⟩,
  ⟨0x0801, 0, 0, 0, 0xffffffff, 0, []⟩,
  ⟨0x0900, 0, 0, 0, 0xffff0000000fffff, 0, []⟩,
  ⟨0x0901, 0, 0, 0, 0xffffffff, 0, []⟩,
  ⟨0x0A00, 0, 0, 0, 0xffffffff, 0, []⟩,
  ⟨0x0A01, 0, 0, 0, 0xffffffff, 0, []⟩,
  ⟨0x0B00, 0xfffffffffffff, 0, 0, 0, 0xcba9876543210, [⟨51, 0, 0, 4503599627370495⟩]⟩,
  ⟨0x0B01, 0, 0, 0, 0xffffffff, 0, []⟩,
  ⟨0x0C00, 0, 0, 0, 0xffffffffc0000000, 0, []⟩,
  ⟨0x0C01, 0, 0, 0, 0xffffffff, 0, []⟩,
  ⟨0x0D00, 0, 0xffffffff, 0xffffffff00000000, 0, 0x2002010003e84004, [⟨63, 52, 64, 4095⟩, ⟨51, 44, 1, 255⟩, ⟨43, 32, 0, 4095⟩, ⟨31, 16, 0, 65535⟩, ⟨15, 8, 1, 255⟩, ⟨7, 0, 1, 254⟩]⟩]

/-- Registers of the map, part 3. -/
def regPart3 : List RegSpec := [
  ⟨0x0D01, 0xffff0000, 0, 0, 0, 0, [⟨31, 16, 0, 65535⟩]⟩,
  ⟨0x0D02, 0, 0xffffffffffffffff, 0, 0, 0, [⟨63, 0, 0, 18446744073709551615⟩]⟩,
  ⟨0x0D03, 0, 0, 0, 0xffffffffffffffff, 0, []⟩,
  ⟨0x0D04, 0, 0, 0, 0xffffffffffffffff, 0, []⟩,
  ⟨0x0D05, 0, 0, 0, 0xffffffff00000000, 0, []⟩,
  ⟨0x0D06, 0, 0, 0, 0xffffffff, 0, []⟩,
  ⟨0x0E00, 0, 0, 0, 0xffffffff, 0, []⟩,
  ⟨0x0F00, 0, 0, 0, 0xffffffff, 0, []⟩,
  ⟨0x1000, 0, 0x80000, 0xfff00000, 0, 0x40080000, [⟨31, 20, 64, 4095⟩, ⟨19, 19, 0, 1⟩]⟩,
  ⟨0x1001, 0, 0, 0, 0xfffffffffffffff1, 0, []⟩,
  ⟨0x1002, 0, 0, 0, 0xffffffff, 0, []⟩,
  ⟨0x1100, 0xf0008000, 0xfff0000, 0, 0, 0x30400000, [⟨31, 28, 0, 15⟩, ⟨27, 16, 0, 4095⟩, ⟨15, 15, 0, 1⟩]⟩,
  ⟨0x1101, 0, 0xfc00ffffffffffff, 0, 0, 0, [⟨63, 62, 0, 2⟩, ⟨61, 58, 0, 15⟩, ⟨47, 0, 0, 281474976710655⟩]⟩,
  ⟨0x1102, 0, 0xffffffffffffffff, 0, 0, 0, [⟨63, 32, 0, 4294967295⟩, ⟨31, 16, 0, 65535⟩, ⟨15, 0, 0, 65535⟩]⟩,
  ⟨0x1103, 0, 0xffe00000, 0, 0, 0, [⟨31, 31, 0, 1⟩, ⟨30, 27, 0, 15⟩, ⟨26, 26, 0, 1⟩, ⟨25, 22, 0, 15⟩, ⟨21, 21, 0, 1⟩]⟩,
  ⟨0x1104, 0, 0, 0, 0xffffffff, 0, []⟩,
  ⟨0x1105, 0, 0, 0, 0xffff00f0, 0, []⟩,
  ⟨0x1106, 0, 0, 0, 0xffffffffffffffff, 0, []⟩,
  ⟨0x1107, 0, 0, 0, 0xffffffff, 0, []⟩,
  ⟨0x1200, 0, 0xfcffff, 0xff000000, 0, 0x90c00e10, [⟨31, 24, 64, 144⟩, ⟨23, 18, 16, 63⟩, ⟨15, 0, 0, 65535⟩]⟩,
  ⟨0x1201, 0, 0, 0, 0xf0000000ffffffff, 0, []⟩,
  ⟨0x1202, 0, 0, 0, 0xffffffff, 0, []⟩,
  ⟨0x1300, 0, 0, 0, 0xffffffff, 0, []⟩,
  ⟨0x1400, 0, 0, 0, 0xffffffffff03ffff, 0, []⟩]

/-- Registers of the map, part 4. -/
def regPart4 : List RegSpec := [
  ⟨0x1401, 0, 0, 0, 0xffffffff, 0, []⟩,
  ⟨0x1402, 0, 0xffff0000, 0, 0xffff, 0x64030000, [⟨31, 24, 70, 115⟩, ⟨23, 16, 1, 20⟩]⟩,
  ⟨0x1403, 0, 0, 0, 0xfe00ff00, 0, []⟩,
  ⟨0x1404, 0, 0, 0, 0xffc0ffff, 0, []⟩,
  ⟨0x1500, 0, 0, 0, 0xffffffffffffffff, 0, []⟩,
  ⟨0x1501, 0, 0, 0, 0xffffffff80000000, 0, []⟩,
  ⟨0x1502, 0, 0, 0, 0xffffffffffffffff, 0, []⟩,
  ⟨0x1503, 0, 0, 0, 0xffffffffffc00000, 0, []⟩,
  ⟨0x1504, 0, 0, 0, 0xffffffffffffffff, 0, []⟩,
  ⟨0x1505, 0, 0x80000000, 0, 0, 0, [⟨31, 31, 0, 1⟩]⟩,
  ⟨0x1506, 0, 0, 0, 0xffffffff, 0, []⟩,
  ⟨0x1600, 0, 0xffff, 0, 0, 0x3c, [⟨15, 0, 10, 1440⟩]⟩,
  ⟨0x1601, 0, 0, 0, 0xffffffffffffffff, 0, []⟩,
  ⟨0x1602, 0, 0, 0, 0x8000ffffffffffff, 0, []⟩,
  ⟨0x1603, 0, 0, 0, 0xffffffffffff0000, 0, []⟩,
  ⟨0x1604, 0, 0, 0, 0xffffffff, 0, []⟩,
  ⟨0x1700, 0, 0x7f, 0, 0, 0x2c, [⟨6, 0, 8, 127⟩]⟩]

/-- The register map. -/
def regMap : List RegSpec := regPart1 ++ regPart2 ++ regPart3 ++ regPart4

/-- The register of an identifier. -/
def regOf (id : Nat) : Option RegSpec := regMap.find? (fun r => r.id == id)

end Sys2Proof.Machine
end

