-- ==== Sys2Proof/Machine/Ops.lean ====
section
/-!
DEFINITION. The named operations over the state that every family shares: channels, configuration, time, counters,
pennants and the ring, events, commands in flight, dies and their capacity.
Conventions: log entry 2 (DESIGN CHOICE), log entry 15 (DESIGN CHOICE), log entry 16 (DESIGN CHOICE), log entry 20
(DESIGN CHOICE), log entry 26 (DEDUCED), log entry 43 (DEDUCED), log entry 45 (DEDUCED), log entry 56 (DEDUCED), log
entry 59 (DESIGN CHOICE), log entry 84 (DESIGN CHOICE).
-/
namespace Sys2Proof.Machine

/-! ## Places -/

/-- The compute dies of the package (R11). -/
def nDies (s : State) : Nat := if s.variant = 2 then 1 else if s.variant = 4 then 3 else 7

/-- Compute die `d` is in the package. -/
def isDie (s : State) (d : Nat) : Bool := 1 ≤ d && d ≤ nDies s

/-- The compute die numbers. -/
def computeDies (s : State) : List Nat := (List.range (nDies s)).map (· + 1)

def emptyDie : Die := Die.reset false

def dieOf (s : State) (d : Nat) : Die := s.dies.getD d emptyDie

def modDie (s : State) (d : Nat) (f : Die → Die) : State := { s with dies := updAt s.dies d f }

def chanOf (s : State) (ch : Nat) : Chan := s.chans.getD ch Chan.reset

def modChan (s : State) (ch : Nat) (f : Chan → Chan) : State := { s with chans := updAt s.chans ch f }

/-- What the acceptance of a command fixed stands with it (R116, R118, R464). -/
def setNote (s : State) (slot n : Nat) : State :=
  modChan s (slot / 8192) (fun h => { h with inflight := h.inflight.map (fun x => if x.slot == slot then { x with note := some n } else x) })

/-- Channel 1 does not exist with HP_SINGLE sampled high (R54). -/
def chanExists (s : State) (ch : Nat) : Bool := ch = 0 || (ch = 1 && !s.pins.sampledSingle)

/-- The part is powered and out of reset, and its start-up has come to READY or to a boot fault. -/
def partOn (s : State) : Bool := s.boot.phase = .running || s.boot.phase = .faulted

/-- The measured rate lies within the range of R45. -/
def rateOk (r : Nat) : Bool := 6400 ≤ r && r ≤ 10667

/-- The port answers: from 20 ms after the release of RESET_N, while the firmware still starts (R50). -/
def portUp (s : State) : Bool := (partOn s || s.boot.phase = .starting) && decide (s.boot.answerAt ≤ s.raw)

/-- A channel runs (R85). -/
def chanRuns (s : State) (ch : Nat) : Bool :=
  chanExists s ch && rateOk (chanOf s ch).rate && s.pwr.st != 0 && portUp s

/-! ## Configuration (R94) -/

def cfgKey (reg idx : Nat) : Nat := reg * 65536 + idx

/-- Reset value of a register's writable fields; the leave budget's depends on the variant (R485). -/
def regReset (s : State) (reg : Nat) : Nat :=
  if reg = rDcuLeaveBudget && s.variant = 8 then 38857
  else match regOf reg with
    | some r => r.reset
    | none => 0

/-- The active value of a register's writable fields. -/
def cfgGet (s : State) (reg idx : Nat) : Nat := mapGet (regReset s reg) s.cfg.active (cfgKey reg idx)

/-- An active field. -/
def cfgFld (s : State) (reg idx hi lo : Nat) : Nat := bitsOf (cfgGet s reg idx) hi lo

def cfgPut (s : State) (reg idx v : Nat) : State :=
  { s with cfg := { s.cfg with active := mapPut s.cfg.active (cfgKey reg idx) v } }

/-! ## Time (R164, R165) -/

/-- Corrected time at a raw instant. -/
def corrAt (s : State) (raw : Nat) : Int :=
  (raw : Int) + s.tmu.offset + s.tmu.rate * ((raw : Int) - s.tmu.anchor) / (2 : Int) ^ 40

/-- Corrected time now. -/
def now (s : State) : Nat := (corrAt s s.raw).toNat

/-- Its low 32 bits (R168). -/
def now32 (s : State) : Nat := now s % 2 ^ 32

/-- The raw times lie within `ns` of each other, the first not after the second. -/
def within (ns a b : Nat) : Bool := b < a + ns

/-! ## Counters -/

/-- A counter's value. -/
def cntGet (s : State) (reg idx : Nat) : Nat := mapGet 0 s.cnt (cfgKey reg idx)

/-- Adds to a saturating 32-bit counter. -/
def cntAdd (s : State) (reg idx n : Nat) : State :=
  { s with cnt := mapSet 0 s.cnt (cfgKey reg idx) (sat32 (cntGet s reg idx + n)) }

/-- Raises a counter that holds a maximum. -/
def cntMax (s : State) (reg idx n : Nat) : State :=
  { s with cnt := mapSet 0 s.cnt (cfgKey reg idx) (sat32 (max n (cntGet s reg idx))) }

/-- Adds to a counter in units of `unit`, keeping the part below the unit. -/
def cntUnits (s : State) (reg idx unit n : Nat) : State :=
  let t := mapGet 0 s.sub (cfgKey reg idx) + n
  let s1 := cntAdd s reg idx (t / unit)
  { s1 with sub := mapSet 0 s1.sub (cfgKey reg idx) (t % unit) }

/-- A per-context counter, index ctx × 8 + n. -/
def ctxCnt (s : State) (reg ctx n k : Nat) : State := cntAdd s reg (ctx * 8 + n) k

/-! ## Free values -/

/-- A free value and the state with its counter advanced. -/
def freeNat (s : State) : Nat × State := (Config.freeNat s.free, { s with free := s.free + 1 })

/-- `n` free bytes. -/
def freeBytes (s : State) (n : Nat) : List Byte × State :=
  ((List.range n).map (fun i => Config.freeByte (s.free + i)), { s with free := s.free + n })

/-! ## Aperture writes by the device (R60, R63) -/

/-- The device writes one whole 32-byte unit: its metadata rule becomes the device's. -/
def devWriteUnit (ch : Chan) (unit : Nat) (d : List Byte) : Chan :=
  { ch with mem := memWrite ch.mem (unit * 32) (padTo 32 d), hostMeta := mapDel ch.hostMeta unit }

/-- The device writes whole units from an aligned offset. -/
def devWrite : Nat → Chan → Nat → List Byte → Chan
  | 0, ch, _, _ => ch
  | n + 1, ch, off, d => devWrite n (devWriteUnit ch (off / 32) (d.take 32)) (off + 32) (d.drop 32)

/-- The device writes `d`, padded to whole units, at an aligned offset of a channel. -/
def apertureWrite (s : State) (ch off : Nat) (d : List Byte) : State :=
  modChan s ch (fun c => devWrite ((d.length + 31) / 32) c off d)

/-! ## The pennant ring (R81 to R85) -/

/-- Pending pennants (R81). -/
def ringPending (c : Chan) : Nat := (c.prod + 2 ^ 32 - c.cons) % 2 ^ 32

def ctxOf (s : State) (x : Nat) : Option Ctx := s.ctxs.find? (fun c => c.id == x)

/-- Accepted frames whose pennant is not yet written. -/
def isAccepted (f : Frame) : Bool := f.phase = .accepted || f.phase = .waiting

/-- The channel of a context. -/
def chanOfCtx (s : State) (x : Nat) : Nat := ((ctxOf s x).map (·.chan)).getD 0

/-- Reserved entries (R81). -/
def ringReserved (s : State) (ch : Nat) : Nat :=
  (chanOf s ch).inflight.length + (s.frames.filter (fun f => isAccepted f && chanOfCtx s f.ctx == ch)).length

/-- Free entries (R81). -/
def ringFree (s : State) (ch : Nat) : Nat := 8192 - ringPending (chanOf s ch) - ringReserved s ch

/-- A pennant (R84). -/
structure Pennant where
  type : Nat
  status : Nat
  source : Nat
  whr : Nat
  ident : Nat
  body : List Byte
  deriving DecidableEq, Repr

/-- The 32 bytes of a pennant written at entry `p` (R84). -/
def pennantBytes (p time : Nat) (x : Pennant) : List Byte :=
  leBytes 1 x.type ++ leBytes 1 (p / 8192 % 256) ++ leBytes 2 x.status ++ leBytes 2 x.source ++ leBytes 2 x.whr ++
  leBytes 4 x.ident ++ leBytes 4 time ++ padTo 16 x.body

/-- HINT_N's condition of R66 holds on a channel. -/
def hintCond (s : State) (c : Chan) : Bool :=
  let cnt := max 1 (cfgFld s rHptHintCfg 0 23 12)
  let hold := cfgFld s rHptHintCfg 0 11 0 * 1000
  decide (cnt ≤ ringPending c) ||
    (match c.penTimes with
     | [] => false
     | t :: _ => decide (t + hold ≤ s.raw))

/-- HINT_N by R66: low from its condition until no pennant is pending; released while disabled. -/
def hintUpdate (s : State) : State :=
  let en := cfgFld s rHptHintCfg 0 31 31 == 1
  let some_ := s.chans.any (fun c => ringPending c != 0)
  let low := en && some_ && (s.pins.hint || s.chans.any (hintCond s))
  { s with pins := { s.pins with hint := low } }

/-- Writes a pennant to entry P mod 8,192, and P advances (R84). -/
def writePennant (s : State) (ch : Nat) (x : Pennant) : State :=
  let t := now32 s
  hintUpdate (modChan s ch (fun c =>
    let c1 := devWriteUnit c ((0x300000 + c.prod % 8192 * 32) / 32) (pennantBytes c.prod t x)
    { c1 with prod := (c1.prod + 1) % 2 ^ 32, penTimes := c1.penTimes ++ [s.raw] }))

/-- The loss marker of R82, once an entry is free again after losses. -/
def flushMarker (s : State) (ch : Nat) : State :=
  if (chanOf s ch).lostSince ≠ 0 ∧ 1 ≤ ringFree s ch then
    let s1 := writePennant s ch ⟨4, 0, 0, 0, (chanOf s ch).lostSince, []⟩
    modChan s1 ch (fun c => { c with lostSince := 0 })
  else s

/-- A pennant that holds a reserved entry. -/
def reservedPennant (s : State) (ch : Nat) (x : Pennant) : State := writePennant (flushMarker s ch) ch x

/-- A pennant without a reserved entry: written if an entry is free, otherwise lost and counted (R81, R82). -/
def looseP (s : State) (ch : Nat) (x : Pennant) : State :=
  let s1 := flushMarker s ch
  if 1 ≤ ringFree s1 ch then writePennant s1 ch x
  else modChan s1 ch (fun c => { c with lost := sat32 (c.lost + 1), lostSince := c.lostSince + 1 })

/-! ## Events (R535, R537) -/

/-- An event: code, die, bits [12:0] of `where`, detail, and whether its chapter limits it to one ring pennant per
source in any 100 ms. -/
structure Ev where
  code : Nat
  die : Nat
  loc : Nat
  detail : List Byte := []
  limited : Bool := false
  deriving DecidableEq, Repr

def Ev.whr (e : Ev) : Nat := e.die * 8192 + e.loc

/-- The channel an event's pennant goes to (R85). -/
def eventChan (s : State) (e : Ev) : Option Nat :=
  let own0 := 0x0201 ≤ e.code && e.code ≤ 0x0203 && e.loc == 0
  if chanRuns s 1 && (!chanRuns s 0 || own0) then some 1
  else if chanRuns s 0 then some 0 else none

/-- Writes the event-log record (R535). -/
def logEvent (s : State) (e : Ev) : State :=
  let r : LogRec := ⟨e.code, e.whr, s.log.next, now s, padTo 16 e.detail⟩
  { s with log := { s.log with recs := keepLast 8192 (s.log.recs ++ [r]), next := s.log.next + 1 } }

/-- Key of a rate limit: the context, table or place in bits [12:0], or the channel or target of its die (R456). -/
def Ev.key (e : Ev) : Nat :=
  e.code * 65536 + (if [0x0140, 0x1280, 0x1281, 0x1580].contains e.code then e.whr else e.loc)

/-- Writes an event's pennant, if its rate limit lets it through (R82, R85). -/
def ringEvent (s : State) (e : Ev) : State :=
  let blocked := e.limited && (match mapFind s.log.ring e.key with
    | some t => within 100000000 t s.raw
    | none => false)
  if blocked then s
  else
    let s1 := if e.limited then { s with log := { s.log with ring := mapPut s.log.ring e.key s.raw } } else s
    match eventChan s1 e with
    | some ch => looseP s1 ch ⟨3, 0, e.code, e.whr, 0, e.detail⟩
    | none => if e.code == 0x0201 then modChan s1 e.loc (fun c => { c with rateEvent := true }) else s1

/-- Raises one event. Detail bytes that its chapter does not state are free (log entry 20). -/
def raiseOne (s : State) (e : Ev) : State :=
  let r := freeBytes s (16 - e.detail.length)
  let e1 := { e with detail := e.detail ++ r.1 }
  ringEvent (logEvent r.2 e1) e1

/-- Inserts an event in the order of R537: ascending code, die, `where`. -/
def evInsert (e : Ev) : List Ev → List Ev
  | [] => [e]
  | x :: l =>
    if x.code < e.code || (x.code == e.code && x.whr ≤ e.whr) then x :: evInsert e l else e :: x :: l

def evSort (l : List Ev) : List Ev := l.foldl (fun acc e => evInsert e acc) []

/-- Raises events of one instant (R535, R537). -/
def raise (s : State) (l : List Ev) : State := (evSort l).foldl raiseOne s

/-! ## Commands in flight (R75, R80) -/

def statusOk : Nat := 0

/-- The command of a slot. -/
def cmdOf (s : State) (slot : Nat) : Option Cmd :=
  (chanOf s (slot / 8192)).inflight.find? (fun c => c.slot == slot)

def readyUnit : UnitSt := ⟨.ready, .ready, 0, false⟩

/-- A die-level unit's views, by block and instance (R43). -/
def unitOf (s : State) (d blk inst : Nat) : UnitSt := mapGet readyUnit (dieOf s d).units (blk * 128 + inst)

/-- A die-level unit accepts work: its management view is READY (R30, R40). -/
def unitServes (s : State) (d blk inst : Nat) : Bool := (unitOf s d blk inst).mgmt == .ready

/-- A unit of the hub accepts work (R38, R40). -/
def hubServes (s : State) (blk : Nat) : Bool := unitServes s 0 blk 0

/-- The command of a slot that may start now: every earlier command of its channel has started, and an ORDERED one has
no earlier command left (R80); the management cores run (R445, R507). -/
def startable (s : State) (slot code : Nat) : Option Cmd :=
  let l := (chanOf s (slot / 8192)).inflight
  let before := l.takeWhile (fun c => c.slot != slot)
  match cmdOf s slot with
  | none => none
  | some c =>
    if s.boot.idBoot = 1 ∧ hubServes s 0x03 = true ∧ s.boot.halted = false ∧ s.dbg.halted = false ∧ c.code = code ∧ c.started = false ∧ before.all (·.started) ∧
        (bitOf c.flags 1 = false ∨ before = []) then some c else none

/-- Marks a command as started. -/
def markStarted (s : State) (slot : Nat) : State :=
  modChan s (slot / 8192) (fun ch =>
    { ch with inflight := ch.inflight.map (fun c => if c.slot == slot then { c with started := true } else c) })

/-- Completes a command: it leaves the commands in flight and its pennant is written (R75, R84). Body bytes that the
command's rule does not state are free (log entry 20). -/
def complete (s : State) (c : Cmd) (status : Nat) (body : List Byte) : State :=
  let ch := c.slot / 8192
  let r := freeBytes s (16 - body.length)
  let s1 := flushMarker r.2 ch
  let s2 := modChan s1 ch (fun k => { k with inflight := k.inflight.filter (fun x => x.slot != c.slot) })
  writePennant s2 ch ⟨1, status, c.slot, 0, c.tag, body ++ r.1⟩

/-- Completes the command of a slot, if it is in flight. -/
def completeSlot (s : State) (slot status : Nat) (body : List Byte) : State :=
  match cmdOf s slot with
  | some c => complete s c status body
  | none => s

/-- How a command's start ends: completed with a status and a body, or still in flight. -/
inductive CmdRes where
  | done (status : Nat) (body : List Byte)
  | stay
  deriving DecidableEq, Repr

/-- Runs the command of a slot by its meaning, if it may start (R80). -/
def withCmd (code slot : Nat) (s : State) (f : Cmd → State → State × CmdRes) : State :=
  match startable s slot code with
  | none => s
  | some c =>
    let r := f c (markStarted s slot)
    match r.2 with
    | .done st b => complete r.1 c st b
    | .stay => r.1

/-- Refuses within a command: nothing changes but its completion. -/
def fail (s : State) (st : Nat) : State × CmdRes := (s, .done st [])

/-! ## Staging pages (R87) -/

/-- Pages `first` to `first + n - 1` may be named by a command of channel `ch`. -/
def pagesOk (s : State) (ch first n : Nat) : Bool :=
  (List.range n).all (fun i => 1 ≤ first + i && first + i ≤ 383 && (mapFind (chanOf s ch).pages (first + i)).isNone)

/-- Pages that `count` bytes from a first page take; 0 bytes name no page. -/
def pageCount (count : Nat) : Nat := (count + 4095) / 4096

/-- The staged bytes. -/
def staged (s : State) (ch first count : Nat) : List Byte :=
  memRead (chanOf s ch).mem (0x400000 + first * 4096) count

def pageReservedErr : Nat := 0x030B

/-! ## Capacity (R28 to R30) -/

/-- A unit takes part: READY or under test. -/
def unitUp (u : UnitSt) : Bool := u.mgmt = .ready || u.mgmt = .test

/-- A die is fenced as a whole (R532). -/
def dieFenced (s : State) (d : Nat) : Bool := !(dieOf s d).fences.isEmpty

/-- Gating has turned the die off (R470). -/
def dieOff (s : State) (d : Nat) : Bool := s.pwr.diesOff.contains d

/-- Pen of a stall of a die (R22). -/
def penOf (stall : Nat) : Nat := stall % 8 / 2

/-- Pen `p` of die `d` is unfenced (an OFF pen counts as fenced, R468). -/
def penUp (s : State) (d p : Nat) : Bool :=
  !dieFenced s d && !dieOff s d &&
    (match (dieOf s d).pens[p]? with
     | some u => unitUp u
     | none => false)

def pensUp (s : State) (d : Nat) : Nat := ((List.range 4).filter (penUp s d)).length

/-- The isolation gates of a pen are closed (R24): the pen is fenced after a fault, has no power, or its die is fenced.
Its stall ports are then cut from the paddocks and the data network. -/
def gatesClosed (s : State) (d p : Nat) : Bool :=
  dieFenced s d || dieOff s d ||
    (match (dieOf s d).pens[p]? with
     | some u => u.mgmt == .faulted || u.mgmt == .off
     | none => true)

/-- Stalls fenced one by one whose pen is unfenced and not the self-test pen (R28). -/
def loneFences (s : State) (d : Nat) : Nat :=
  ((List.range 40).filter (fun i =>
    penUp s d (penOf i) && penOf i != (dieOf s d).selftest.pen &&
      (match (dieOf s d).stalls[i]? with
       | some t => !unitUp t.view
       | none => false))).length

/-- Stalls available to admission (R28). -/
def stallsAvail (s : State) (d : Nat) : Nat := 10 * (pensUp s d - 1) - loneFences s d

/-- A stall takes new tiles: its pen and itself unfenced and READY, and its pen not under test (R28, R40). -/
def stallReady (s : State) (d i : Nat) : Bool :=
  penUp s d (penOf i) && penOf i != (dieOf s d).selftest.pen &&
    (match (dieOf s d).stalls[i]? with
     | some t => t.view.mgmt = .ready
     | none => false)

/-! ## Pace (R31 to R35) -/

/-- Guaranteed floor of a level (R31), 0.0001 Gstep/s. -/
def levelFloor (l : Nat) : Nat := if l = 0 then 9500 else if l = 1 then 12500 else 15000

/-- The lower of the two levels while a change is in progress, otherwise the level (R34). -/
def floorLevel (s : State) : Nat :=
  match s.pwr.paceTo with
  | some l => min l s.pwr.level
  | none => s.pwr.level

/-- The higher of the two levels during a change (R466). -/
def leaveLevel (s : State) : Nat :=
  match s.pwr.paceTo with
  | some l => max l s.pwr.level
  | none => s.pwr.level

def natInsert (n : Nat) : List Nat → List Nat
  | [] => [n]
  | x :: l => if x ≤ n then x :: natInsert n l else n :: x :: l

def natSort (l : List Nat) : List Nat := l.foldl (fun acc n => natInsert n acc) []

/-- The lower middle value of a list, 10,000 for none (R482). -/
def lowerMedian (l : List Nat) : Nat :=
  if l.isEmpty then 10000 else (natSort l).getD ((l.length - 1) / 2) 10000

/-- Aging index of a die (R482). -/
def agingIndex (a : Aging) : Nat := lowerMedian a.days

/-- Factor of a daily index (R482). -/
def factorOf (idx : Nat) : Nat := min 10000 (idx * 10000 / 9200)

/-- Aging factor of a die; 9,000 while the log was unreadable (R483). -/
def agingFactor (a : Aging) : Nat := if a.unreadable then 9000 else factorOf (agingIndex a)

/-- Aged floor of a die at a level (R482). -/
def agedFloorAt (s : State) (d l : Nat) : Nat :=
  if (dieOf s d).floorKnown then levelFloor l * agingFactor (dieOf s d).aging / 10000 else 0

/-- DCU_PACE_FLOOR_AGED (R34). -/
def agedFloor (s : State) (d : Nat) : Nat := agedFloorAt s d (floorLevel s)

/-- A monitor counts: on the hub always, on a compute die while its pen is neither OFF nor fenced (R32, R33). -/
def monCounts (s : State) (d m : Nat) : Bool := if d = 0 then m < 4 else m < 20 && penUp s d (m % 4)

/-- Values of the last ten windows by the monitors that count now. -/
def paceValues (s : State) (d : Nat) : List (Nat × Nat) :=
  ((dieOf s d).paceWins.flatMap (·.counts)).filter (fun c => monCounts s d c.1)

/-- Measured pace (R33): the lowest value of the last ten windows; 0 if no monitor counts. -/
def paceMeas (s : State) (d : Nat) : Nat :=
  match paceValues s d with
  | [] => 0
  | c :: l => l.foldl (fun m x => min m x.2) c.2

/-- Monitor that gave the measured pace. Of several the model names the lowest-numbered one of the oldest window that
counted it, and 0 where no monitor counts (log entry 59, DESIGN CHOICE). -/
def paceWorst (s : State) (d : Nat) : Nat :=
  match (paceValues s d).find? (fun c => c.2 == paceMeas s d) with
  | some c => c.1
  | none => 0

/-! ## Frames -/

def frameOf (s : State) (x num : Nat) : Option Frame :=
  s.frames.find? (fun f => f.ctx == x && f.num == num && f.phase != .sealed)

def putFrame (s : State) (f : Frame) : State :=
  { s with frames := s.frames.map (fun g => if g.ctx == f.ctx && g.num == f.num then f else g) }

def putCtx (s : State) (c : Ctx) : State :=
  { s with ctxs := s.ctxs.map (fun g => if g.id == c.id then c else g) }

/-- Dies of a mask, ascending. -/
def maskDies (m : Nat) : List Nat := (List.range 8).filter (bitOf m)

/-- The package of a context. -/
def pkgOf (s : State) (h : Nat) : Option Pkg := s.pkgs.find? (fun p => p.handle == h)

/-- A context is DEGRADED, or paused and to return to it. -/
def trainOpen (c : Ctx) : Bool := c.train.isSome

/-- Any context has an open frame train. -/
def anyTrain (s : State) : Bool := s.ctxs.any trainOpen

/-- The device is in SERVING and no PWR_STATE_SET that leaves it was accepted (R460). -/
def serving (s : State) : Bool := s.pwr.st == 4 && !s.pwr.changing

/-! ## Lifecycle (R492) -/

/-- An owner record is valid if its generation is the programmed one and its signature verifies under the device key: it was
made with this device's seed over this generation and key (R491, R506). -/
def ownerValid (nv : NonVol) (r : Option OwnerRec) : Bool :=
  match r with
  | some o => o.gen == nv.ownerGen && nv.seed == some o.sig.1 && o.sig.2 == (o.gen, o.key)
  | none => false

def ownerRec (nv : NonVol) : Option OwnerRec :=
  if ownerValid nv nv.owner0 then nv.owner0 else if ownerValid nv nv.owner1 then nv.owner1 else none

/-- Lifecycle state code (R492). -/
def lifecycle (nv : NonVol) : Nat :=
  if nv.returned then 3 else if !nv.provisioned then 0 else if (ownerRec nv).isSome then 2 else 1

end Sys2Proof.Machine
end

