-- ==== Sys2Proof/Machine/Operands.lean ====
section
/-!
DEFINITION. The operator descriptors of a package, as far as every chapter reads them: operator codes, the lists and
maps they name, and their counts (R342, R352, R360 to R362, R377, R386).
-/
namespace Sys2Proof.Machine

/-- Operator code (descriptor bytes 0 and 1). -/
def opCode (o : OpDecl) : Nat := u16 o.desc 0

def cDeskew : Nat := 0x0010
def cVoxelise : Nat := 0x0011
def cCurve : Nat := 0x0012
def cRulebook : Nat := 0x0013
def cConv : Nat := 0x0020
def cAttention : Nat := 0x0021
def cActivation : Nat := 0x0022
def cMapLookup : Nat := 0x0030
def cMapUpdate : Nat := 0x0031
def cScatter : Nat := 0x0040
def cDense : Nat := 0x0041
def cMapAct : Nat := 0x0042
def cCompact : Nat := 0x0050
def cTopK : Nat := 0x0051
def cSuppress : Nat := 0x0052
def cZone : Nat := 0x0053

/-- The operator runs on the stalls. -/
def isStallOp (o : OpDecl) : Bool :=
  [cConv, cAttention, cActivation, cDense, cMapAct].contains (opCode o)

/-- The selection unit's operators. -/
def isSelOp (o : OpDecl) : Bool := [cCompact, cTopK, cSuppress, cZone].contains (opCode o)

def emptyOp : OpDecl := ⟨[], ⟨0, 1, false, 0⟩, 0⟩

def opAt (p : PkgDecl) (i : Nat) : OpDecl := p.ops.getD i emptyOp

/-- A map declaration (R342). -/
def mapDeclOf (p : PkgDecl) (m : Nat) : List Byte := p.maps.getD m []
def mapFmt (p : PkgDecl) (m : Nat) : Nat := byteAt (mapDeclOf p m) 0
def mapHalo (p : PkgDecl) (m : Nat) : Nat := byteAt (mapDeclOf p m) 1
def mapC (p : PkgDecl) (m : Nat) : Nat := u16 (mapDeclOf p m) 2
def mapX (p : PkgDecl) (m : Nat) : Nat := u16 (mapDeclOf p m) 4
def mapY (p : PkgDecl) (m : Nat) : Nat := u16 (mapDeclOf p m) 6

/-- A feature tensor declaration (R319): level, format, channels. -/
def tensDecl (p : PkgDecl) (t : Nat) : List Byte := p.tensors.getD t []
def tensFmt (p : PkgDecl) (t : Nat) : Nat := byteAt (tensDecl p t) 1
def tensLevel (p : PkgDecl) (t : Nat) : Nat := byteAt (tensDecl p t) 0
def tensC (p : PkgDecl) (t : Nat) : Nat := u16 (tensDecl p t) 2

/-- The list an operator writes. -/
def outList (o : OpDecl) : Option Nat :=
  if opCode o = cCompact ∨ opCode o = cTopK then some (byteAt o.desc 26)
  else if opCode o = cSuppress then some (byteAt o.desc 3) else none

/-- Capacity of a list: of the selection that writes it, or of a suppression's input (R352, R360), looking at the
operators before position `n`. -/
def listCap (p : PkgDecl) : Nat → Nat → Nat
  | 0, _ => 0
  | n + 1, l =>
    let o := opAt p n
    if outList o = some l then
      if opCode o = cSuppress then listCap p n (byteAt o.desc 2) else u16 o.desc 24
    else listCap p n l

/-- Tables of a map lookup: number, grid shift, width (R369). -/
def lookupTables (o : OpDecl) : List (Nat × Nat × Nat) :=
  (List.range (byteAt o.desc 2)).map (fun i =>
    (u16 o.desc (16 + 4 * i), byteAt o.desc (18 + 4 * i), 8 * 2 ^ byteAt o.desc (19 + 4 * i)))

/-- Taps of a map lookup (R377). -/
def lookupTaps (o : OpDecl) : Nat := if byteAt o.desc 3 = 1 then 8 else 1

/-- The lookup whose taps a map update reuses (R386). -/
def lookupOf (p : PkgDecl) (o : OpDecl) : OpDecl := if opCode o = cMapUpdate then opAt p (u16 o.desc 2) else o

/-- Every map table a package uses. -/
def pkgTables (p : PkgDecl) : List Nat :=
  (p.ops.filter (fun o => opCode o == cMapLookup)).flatMap (fun o => (lookupTables o).map (·.1))

/-! ## Pair classes (R220, R222) -/

/-- The rulebook operators of a package. -/
def rbOps (p : PkgDecl) : List (List Byte) := (p.ops.filter (fun o => opCode o == cRulebook)).map (·.desc)

/-- The operator that builds a class. -/
def classOp (p : PkgDecl) (q : Nat) : Option (List Byte) := (rbOps p).find? (fun d => byteAt d 3 == q)

/-- Kernel volume of a class (R222). -/
def kernelVolume (p : PkgDecl) (d : List Byte) : Nat :=
  let own := fun (e : List Byte) => if byteAt e 2 = 0 then byteAt e 5 * byteAt e 6 * byteAt e 7 else byteAt e 5 ^ 3
  if byteAt d 2 ≤ 1 then own d
  else if byteAt d 2 = 2 then ((classOp p (byteAt d 8)).map own).getD 0
  else 2 * byteAt d 9 + 1

/-- Kernel volumes of the classes 0 to 15, 0 for a class that is not built. -/
def pkgVolumes (p : PkgDecl) : List Nat :=
  (List.range 16).map (fun q => ((classOp p q).map (kernelVolume p)).getD 0)

/-! ## Weight tensors (R289 to R293, R297) -/

def wHead (p : PkgDecl) (t : Nat) : List Byte := (p.weights.getD t ([], [])).1
def wData (p : PkgDecl) (t : Nat) : List Byte := (p.weights.getD t ([], [])).2

/-- A weight tensor as bytes from the start of its header (R290). -/
def tensorBytes (p : PkgDecl) (t : Nat) : List Byte := wHead p t ++ wData p t

def whFmt (h : List Byte) : Nat := byteAt h 0
def whCompressed (h : List Byte) : Bool := bitOf (byteAt h 1) 0
def whPredictor (h : List Byte) : Bool := bitOf (byteAt h 1) 1
def whAdaptable (h : List Byte) : Bool := bitOf (byteAt h 1) 2
def whO (h : List Byte) : Nat := u32 h 4
def whK (h : List Byte) : Nat := u32 h 8
def whP (h : List Byte) : Nat := u32 h 12
def whTo (h : List Byte) : Nat := ceilDiv (whO h) 32
def whTk (h : List Byte) : Nat := ceilDiv (whK h) 32

/-- Codes of the MX formats (R256). -/
def isMx (f : Nat) : Bool := 7 ≤ f && f ≤ 12

/-- Bits of an element of a format (R256). -/
def fmtBits (f : Nat) : Nat :=
  if f = 1 ∨ f = 11 then 4 else if f = 9 ∨ f = 10 then 6
  else if f = 4 ∨ f = 5 then 16 else if f = 6 ∨ f = 13 then 32 else 8

/-- Lengths of a tensor's regions: bitmap, offset table, data, scale array, predictor rows (R291, R292, R307). -/
def whBitmapLen (h : List Byte) : Nat := if whCompressed h then ceilDiv (whTo h * whTk h) 64 * 8 else 0
def whTableLen (h : List Byte) : Nat := if whCompressed h then whP h * 4 else 0
def whDataLen (h : List Byte) : Nat := u32 h 28
def whScaleLen (h : List Byte) : Nat :=
  if isMx (whFmt h) then (if whCompressed h then whP h * 32 else whO h * whTk h) else 0
def whPredLen (h : List Byte) : Nat := if whPredictor h then ceilDiv (whO h) 4 * (whTk h * 16) else 0

def round64 (n : Nat) : Nat := ceilDiv n 64 * 64

/-- Resident footprint (R297). -/
def footprint (h : List Byte) : Nat :=
  round64 48 + round64 (whBitmapLen h) + round64 (whTableLen h) + round64 (whDataLen h) + round64 (whScaleLen h) +
    round64 (whPredLen h)

/-- Bytes of a package in the weight pool: adaptable tensors are counted in the working bytes (R297, R311). -/
def poolBytes (p : PkgDecl) : Nat :=
  ((p.weights.filter (fun w => !whAdaptable w.1)).map (fun w => footprint w.1)).sum

/-! ## Stall operators (R269, R326, R337, R350) -/

/-- A neighbour query. -/
def isQuery (d : List Byte) : Bool := 3 ≤ byteAt d 2

/-- Channels padded to whole blocks (R320). -/
def padC (c : Nat) : Nat := ceilDiv c 32

/-- Chunks that a row's reduction is split at, L_p of the arithmetic control block (R260). -/
def acbLp (d : List Byte) : Nat := u32 d 20

/-- The weight tensor number, the input and output numbers and the fused number of a convolution. -/
def convW (o : OpDecl) : Nat := if opCode o = cConv then u16 o.desc 8 else u16 o.desc 12
def convIn (o : OpDecl) : Nat := if opCode o = cConv then u16 o.desc 4 else u16 o.desc 8
def convOut (o : OpDecl) : Nat := if opCode o = cConv then u16 o.desc 6 else u16 o.desc 10
def convFused (o : OpDecl) : Nat := if opCode o = cConv then u16 o.desc 10 else u16 o.desc 14
def convSrc (o : OpDecl) : Nat := if opCode o = cConv then byteAt o.desc 3 else byteAt o.desc 6

def isConvOp (o : OpDecl) : Bool := opCode o == cConv || opCode o == cDense

/-- The operator works on maps. -/
def onMaps (o : OpDecl) : Bool := opCode o == cDense || opCode o == cMapAct

/-- Weight slots V of a convolution class (R322). -/
def convSlots (p : PkgDecl) (q : Nat) : Nat :=
  match classOp p q with
  | some d => if isQuery d then byteAt d 10 else kernelVolume p d
  | none => 0

/-- Input channels and output channels of a convolution. -/
def convCin (p : PkgDecl) (o : OpDecl) : Nat := if opCode o = cConv then tensC p (convIn o) else mapC p (convIn o)
def convCout (p : PkgDecl) (o : OpDecl) : Nat := if opCode o = cConv then tensC p (convOut o) else mapC p (convOut o)

/-- Chunks of a convolution's row (R324, R349). -/
def convChunks (p : PkgDecl) (o : OpDecl) : Nat :=
  (if opCode o = cConv then convSlots p (byteAt o.desc 2) else byteAt o.desc 2 * byteAt o.desc 3) * padC (convCin p o)

/-- Partitions of a row of n chunks; 1 without a split (R269). -/
def partsOf (lp n : Nat) : Nat := if lp < n then ceilDiv n lp else 1

/-- Rows per tile of operators that take ranges of rows. -/
def rowsPerTile (p : PkgDecl) (o : OpDecl) : Nat :=
  if opCode o = cConv then 1024 / max 1 (convCout p o)
  else if opCode o = cAttention then 1024 / max 1 (byteAt o.desc 4 * byteAt o.desc 5)
  else 1024 / max 1 (32 * padC (if opCode o = cMapAct then mapC p (u16 o.desc 4) else tensC p (u16 o.desc 4)))

end Sys2Proof.Machine
end

