-- ==== Sys2Proof/Machine/Keccak.lean ====
section
/-!
DEFINITION. SHAKE256 of FIPS 202, the digest of the security engine (R490).
Conventions: log entry 21 (PRESUMED).
-/
namespace Sys2Proof.Machine

/-! The permutation's state is a number of 1,600 bits: lane (x, y) is its 64-bit word 5y + x, and row y its 320-bit word y. -/

def kLane (a i : Nat) : Nat := a / 2 ^ (64 * i) % 2 ^ 64
def kRow (a y : Nat) : Nat := a / 2 ^ (320 * y) % 2 ^ 320

/-- Joins words of `n` bits. -/
def kJoin (n : Nat) (l : List Nat) : Nat := l.foldr (fun w a => a * 2 ^ n + w) 0

/-- A lane rotated left by n bits. -/
def kRotl (w n : Nat) : Nat := w * 2 ^ n % 2 ^ 64 + w / 2 ^ (64 - n)

/-- The row whose lane x is lane x + k of a row. -/
def kTurn (r k : Nat) : Nat := r / 2 ^ (64 * k) + r % 2 ^ (64 * k) * 2 ^ (64 * (5 - k))

/-- Theta: to every row is added the row of column parities x − 1 and, rotated by 1, x + 1. -/
def kTheta (a : Nat) : Nat :=
  let c := kRow a 0 ^^^ kRow a 1 ^^^ kRow a 2 ^^^ kRow a 3 ^^^ kRow a 4
  let d := kTurn c 4 ^^^ kJoin 64 ((List.range 5).map (fun x => kRotl (kLane (kTurn c 1) x) 1))
  a ^^^ kJoin 320 [d, d, d, d, d]

/-- Rho and pi as the walk of FIPS 202 (3.2.2): lane 0 stays, and step t of the walk turns the lane where it stands by the
triangular number of t + 1 and puts it where the walk goes next, from (x, y) to (y, 2x + 3y). -/
def kWalk (a : Nat) : Nat → Nat → Nat → Nat → Nat
  | 0, _, _, out => out
  | left + 1, x, y, out =>
    let t := 24 - left
    let y2 := (2 * x + 3 * y) % 5
    kWalk a left y y2 (out + kRotl (kLane a (5 * y + x)) (t * (t + 1) / 2 % 64) * 2 ^ (64 * (5 * y2 + y)))

def kRhoPi (a : Nat) : Nat := kWalk a 24 1 0 (kLane a 0)

/-- Chi. -/
def kChi (a : Nat) : Nat :=
  kJoin 320 ((List.range 5).map (fun y =>
    let r := kRow a y
    r ^^^ ((2 ^ 320 - 1 - kTurn r 1) &&& kTurn r 2)))

/-- One step of the generator of the round constants (FIPS 202, 3.2.5): x^8 + x^6 + x^5 + x^4 + 1. -/
def kLfsr (r : Nat) : Nat := if r < 128 then 2 * r else (2 * r) ^^^ 0x171

/-- The generator after the seven steps of a round, and the round's constant: step j sets bit 2^j - 1. -/
def kConst (r : Nat) : Nat × Nat :=
  (List.range 7).foldl (fun a j => (kLfsr a.1, a.2 + a.1 % 2 * 2 ^ (2 ^ j - 1))) (r, 0)

/-- The permutation: theta, rho, pi, chi and iota, `n` rounds from a state of the generator on. -/
def kRounds : Nat → Nat → Nat → Nat
  | 0, _, a => a
  | n + 1, r, a =>
    let c := kConst r
    kRounds n c.1 (kChi (kRhoPi (kTheta a)) ^^^ c.2)

def keccakF (a : Nat) : Nat := kRounds 24 1 a

/-- Absorbs whole blocks of 136 bytes. -/
def kAbsorbAll : Nat → Nat → List Byte → Nat
  | 0, a, _ => a
  | n + 1, a, l => kAbsorbAll n (keccakF (a ^^^ leNat (l.take 136))) (l.drop 136)

/-- The message with the SHAKE padding to whole blocks. -/
def kPad (l : List Byte) : List Byte :=
  let n := 136 - l.length % 136
  if n = 1 then l ++ [0x9F] else l ++ [0x1F] ++ List.replicate (n - 2) 0 ++ [0x80]

/-- Squeezes `n` blocks. -/
def kSqueeze : Nat → Nat → List Byte
  | 0, _ => []
  | n + 1, a => leBytes 136 a ++ kSqueeze n (keccakF a)

/-- SHAKE256 of a message, to `n` bytes. -/
def shake256 (l : List Byte) (n : Nat) : List Byte :=
  let p := kPad l
  (kSqueeze (ceilDiv n 136) (kAbsorbAll (p.length / 136) 0 p)).take n

end Sys2Proof.Machine
end

