-- ==== Sys2Proof/Machine/Falcon.lean ====
section
/-!
DEFINITION. Verification of Falcon-1024 signatures (R490). The encodings and constants are those of version 1.2 of the
Falcon specification, to which R490 refers (PRESUMED, log entry 21).
Conventions: log entry 21 (PRESUMED).
-/
namespace Sys2Proof.Machine

def falconQ : Nat := 12289
def falconN : Nat := 1024

/-- Greatest squared norm of an accepted signature. -/
def falconBound : Nat := 70265242

/-- The bits of a byte sequence, most significant first. -/
def bitsMsb (l : List Byte) : List Bool := l.flatMap (fun b => (List.range 8).map (fun i => bitOf b.toNat (7 - i)))

/-- Value of bits, most significant first. -/
def bitsVal (l : List Bool) : Nat := l.foldl (fun a b => 2 * a + b2n b) 0

/-- `n` numbers of `w` bits each. -/
def takeNums (w : Nat) : Nat → List Bool → List Nat
  | 0, _ => []
  | n + 1, l => bitsVal (l.take w) :: takeNums w n (l.drop w)

/-- A public key: header 0x0A and 1,024 coefficients of 14 bits below q. -/
def falconKey (pk : List Byte) : Option (List Nat) :=
  if pk.length = 1793 ∧ byteAt pk 0 = 0x0A then
    let h := takeNums 14 falconN (bitsMsb (pk.drop 1))
    if h.all (fun c => c < falconQ) then some h else none
  else none

/-- Zeros before the next one, and what follows it. -/
def unary : List Bool → Option (Nat × List Bool)
  | [] => none
  | true :: l => some (0, l)
  | false :: l => (unary l).map (fun r => (r.1 + 1, r.2))

/-- One coefficient of the compressed encoding: sign, seven low bits, the rest in unary; zero has one encoding. -/
def falconCoeff (l : List Bool) : Option (Int × List Bool) :=
  match unary (l.drop 8) with
  | none => none
  | some r =>
    let m := bitsVal ((l.drop 1).take 7) + 128 * r.1
    if l.headD false then (if m = 0 then none else some (-(m : Int), r.2)) else some ((m : Int), r.2)

/-- `n` coefficients; the bits left over are 0. -/
def falconCoeffs : Nat → List Bool → Option (List Int)
  | 0, l => if l.all (fun b => !b) then some [] else none
  | n + 1, l =>
    match falconCoeff l with
    | none => none
    | some r => (falconCoeffs n r.2).map (fun t => r.1 :: t)

/-- Values below 5q of a stream of big-endian 16-bit words, reduced. -/
def hashCoeffs : List Byte → List Nat
  | a :: b :: l =>
    let t := a.toNat * 256 + b.toNat
    if t < 5 * falconQ then t % falconQ :: hashCoeffs l else hashCoeffs l
  | _ => []

/-- Hash to a point: as many words of the stream as 1,024 coefficients take. -/
def hashToPoint (nonce msg : List Byte) : List Nat := (hashCoeffs (shake256 (nonce ++ msg) 8192)).take falconN

/-- Coefficients in one number, 64 bits each, and n of them back. -/
def polyJoin (l : List Nat) : Nat := l.foldr (fun c v => c + 2 ^ 64 * v) 0
def polySplit : Nat → Nat → List Nat
  | 0, _ => []
  | n + 1, v => v % 2 ^ 64 :: polySplit n (v / 2 ^ 64)

/-- Product modulo x^n + 1 of polynomials with coefficients below q: every coefficient of the plain product is below
n × q², which is below 2^64. -/
def ringMul (a b : List Nat) : List Int :=
  let p := polySplit (2 * falconN) (polyJoin a * polyJoin b)
  List.zipWith (fun (x y : Nat) => (x : Int) - y) (p.take falconN) (p.drop falconN)

/-- Representative of least magnitude modulo q. -/
def centred (i : Int) : Int :=
  let r := i % (falconQ : Int)
  if r ≤ 6144 then r else r - falconQ

def squares (l : List Int) : Nat := (l.map (fun i => (i * i).toNat)).sum

/-- The signature verifies over the message under the public key (R490, R494 check 7). -/
def falconVerify (pk msg sig : List Byte) : Bool :=
  match falconKey pk with
  | none => false
  | some h =>
    if sig.length < 42 ∨ byteAt sig 0 ≠ 0x3A then false
    else match falconCoeffs falconN (bitsMsb (sig.drop 41)) with
      | none => false
      | some s2 =>
        let c := hashToPoint (slice sig 1 40) msg
        let p := ringMul (s2.map (fun i => (i % (falconQ : Int)).toNat)) h
        let s1 := List.zipWith (fun (x : Nat) (y : Int) => centred ((x : Int) - y)) c p
        c.length == falconN && decide (squares s1 + squares s2 ≤ falconBound)

/-! ## The device's own key (R490, R500) -/

/-- What seeds the key generation: SHAKE256 of the 48 seed bytes. -/
def keySeed (seed : Nat) : List Byte := shake256 (leBytes 48 seed) 64

/-- A public key in its encoding: header 0x0A and 1,024 coefficients of 14 bits below q, most significant first. -/
def falconEncode (h : Nat → Nat) : List Byte :=
  0x0A :: (leBytes 1792 ((List.range falconN).foldl (fun v i => v * 2 ^ 14 + h i % falconQ) 0)).reverse

/-- The device public key of a seed: the same on every derivation (R500). -/
def deviceKey (seed : Nat) : List Byte := falconEncode (Config.falconKeygen (keySeed seed))

/-- The device's signature: header 0x3A, a salt of 40 bytes and at most 1,495 bytes of coefficients, 1,536 in all (R490). -/
def deviceSignature (seed : Nat) (msg rnd : List Byte) : List Byte :=
  let x := Config.falconSign (keySeed seed) msg rnd
  0x3A :: padTo 40 x ++ (x.drop 40).take 1495

theorem leBytes_count (n v : Nat) : (leBytes n v).length = n := by
  induction n generalizing v with
  | zero => rfl
  | succ n ih => simp [leBytes, ih]

theorem deviceKey_length (seed : Nat) : (deviceKey seed).length = 1793 := by
  simp [deviceKey, falconEncode, leBytes_count]

theorem deviceSignature_length (seed : Nat) (msg rnd : List Byte) :
    41 ≤ (deviceSignature seed msg rnd).length ∧ (deviceSignature seed msg rnd).length ≤ 1536 := by
  simp [deviceSignature, padTo]
  omega

end Sys2Proof.Machine
end

