-- ==== Sys2Proof/Machine/Bound.lean ====
section
/-!
DEFINITION. The admission bound (R120 to R123), the reservations it rests on (R112 to R114), and the leave amounts of
R471. All arithmetic is exact.
Conventions: log entry 39 (DEDUCED), log entry 45 (DEDUCED), log entry 78 (DEDUCED).
-/
namespace Sys2Proof.Machine

/-! ## Exact fractions -/

/-- A non-negative fraction. -/
structure Frac where
  num : Nat
  den : Nat
  deriving DecidableEq, Repr

def Frac.zero : Frac := ⟨0, 1⟩
def Frac.add (a b : Frac) : Frac := ⟨a.num * b.den + b.num * a.den, a.den * b.den⟩
def Frac.mul (a b : Frac) : Frac := ⟨a.num * b.num, a.den * b.den⟩
/-- Quotient; its denominator is 0 for a zero divisor. -/
def Frac.div (a b : Frac) : Frac := ⟨a.num * b.den, a.den * b.num⟩
def Frac.ceil (a : Frac) : Nat := ceilDiv a.num a.den
def Frac.sum (l : List Frac) : Frac := l.foldl Frac.add Frac.zero

/-! ## Reservations (R112 to R114) -/

/-- Guaranteed contexts assigned to a die. -/
def guarOn (s : State) (d : Nat) : List Ctx := s.ctxs.filter (fun c => c.guaranteed && bitOf c.dieMask d)

/-- Stall shares reserved on a die, 1/32 stall. -/
def shareRes (s : State) (d : Nat) : Nat := ((guarOn s d).map (·.share)).sum

/-- Stage share of a stall share, in 1/256 (R112). -/
def stageShare (share : Nat) : Nat := min 256 (ceilDiv (share * 8) 30)

/-- Stage shares reserved on a die, 1/256. -/
def stageRes (s : State) (d : Nat) : Nat := ((guarOn s d).map (fun c => stageShare c.share)).sum

def maskCount (m : Nat) : Nat := (maskDies m).length

/-- Hash entries a cell cap takes on each of its dies (R113, R192). -/
def hashShare (cap k : Nat) : Nat := if k ≤ 1 then cap else min 196608 (ceilDiv (5 * cap) (4 * k))

/-- Slots of a partition (R192). -/
def partSlots (r : Nat) : Nat := r + r / 3

def hashRes (s : State) (d : Nat) : Nat :=
  ((guarOn s d).map (fun c => hashShare c.cellCap (maskCount c.dieMask))).sum

/-- A best-effort frame holds its partitions (R131). -/
def holdsPartition (f : Frame) : Bool := isAccepted f

/-- The r of best-effort partitions now held on a die. -/
def beHeld (s : State) (d : Nat) : Nat :=
  ((s.frames.filter holdsPartition).map (fun f =>
    match ctxOf s f.ctx with
    | some c => if !c.guaranteed && bitOf c.dieMask d then hashShare c.cellCap (maskCount c.dieMask) else 0
    | none => 0)).sum

def declOf (s : State) (h : Nat) : PkgDecl :=
  match pkgOf s h with
  | some p => p.decl
  | none => ⟨[], [], [], [], [], 0, 0, 0, 0, 0⟩

/-- Working paddock bytes and merge-area entries reserved on a die (R114). -/
def workRes (s : State) (d : Nat) : Nat := ((guarOn s d).map (fun c => (declOf s c.pkg).workBytes)).sum
def mergeRes (s : State) (d : Nat) : Nat := ((guarOn s d).map (fun c => (declOf s c.pkg).mergeEntries)).sum

/-- Packages resident on a die, each once (R108). -/
def residentPkgs (s : State) (d : Nat) : List Nat := ((guarOn s d).map (·.pkg)).eraseDups

def poolUsed (s : State) (d : Nat) : Nat := ((residentPkgs s d).map (fun h => poolBytes (declOf s h))).sum

/-! ## Leave amounts (R471) -/

/-- Leave factor of a level. -/
def leaveF (l : Nat) : Nat := if l = 0 then 601 else if l = 1 then 1024 else 1562

/-- A figure stated at Nominal, at a level. -/
def leaveAt (fig l : Nat) : Nat := ceilDiv (fig * leaveF l) 1024

/-- A context's leave reservation at a level (R114, R471). -/
def ctxLeaveAt (s : State) (c : Ctx) (l : Nat) : Nat :=
  let p := declOf s c.pkg
  ceilDiv ((p.leaveStall * c.share + 32 * p.leaveStage * stageShare c.share) * leaveF l) (32 * 1024)

def leaveRes (s : State) (d l : Nat) : Nat := ((guarOn s d).map (fun c => ctxLeaveAt s c l)).sum

/-- The power state lets pens be powered: in READY and SERVING, and on the way up to them (R458, R461). -/
def pensLive (s : State) : Bool :=
  decide (3 ≤ s.pwr.st) || (s.pwr.st == 2 && s.pwr.changing && decide (2 < s.pwr.target))

/-- A pen is powered: not OFF, and its power not gated after a fault of its warden (R41). -/
def penPowered (x : Die) (p : Nat) (u : UnitSt) : Bool := u.mgmt != .off && !x.cutPens.contains p

/-- Pens of a die that count as powered: unless they are OFF (R471). -/
def pensPowered (s : State) (d : Nat) : Nat :=
  ((List.range 4).filter (fun p => pensLive s && (((dieOf s d).pens[p]?).map (fun u => u.mgmt != .off)).getD false)).length

def baseDie (l : Nat) : Nat := if l = 0 then 3000 else if l = 1 then 4000 else 6000
def basePen (l : Nat) : Nat := if l = 0 then 500 else if l = 1 then 1000 else 1500

/-- Base power of a die with `n` pens powered. -/
def basePens (l n : Nat) : Nat := baseDie l + n * basePen l

/-- Base power b of a die (R471); a die without power has none. -/
def baseLeave (s : State) (d l : Nat) : Nat :=
  if dieOff s d then 500 else if (dieOf s d).powered = false then 0 else basePens l (pensPowered s d)

/-- Unreserved leave granted, u. -/
def unresLeave (s : State) (d l : Nat) : Nat :=
  (((dieOf s d).grants.filter (fun g => !g.reserved)).map (fun g => leaveAt g.fig l)).sum

/-- Budget B. -/
def leaveBudget (s : State) (d : Nat) : Nat := cfgFld s rDcuLeaveBudget d 19 0

/-! ## Counts of the operators (R120, R362, R377) -/

/-- What a bound is evaluated over: points, cells, pairs by class, dies, zones, halo allowance. -/
structure Counts where
  points : Nat
  cells : Nat
  pairs : List Nat
  k : Nat
  zones : Nat
  halo : Nat
  deriving DecidableEq, Repr

/-- A count after halo allowance, rounded up to whole items. -/
def withHalo (c : Counts) (n : Nat) : Nat := if 2 ≤ c.k then ceilDiv (n * (256 + c.halo)) 256 else n

def pairsOf (c : Counts) (cls : Nat) : Nat := c.pairs.getD cls 0

/-- Count of a stage-unit operator at a position of its package. -/
def stageCount (p : PkgDecl) (c : Counts) (i : Nat) (o : OpDecl) : Nat :=
  let code := opCode o
  if code = cDeskew ∨ code = cVoxelise then c.points
  else if code = cCurve then c.cells
  else if code = cRulebook then withHalo c (pairsOf c (byteAt o.desc 3))
  else if code = cMapLookup ∨ code = cMapUpdate then
    let q := lookupOf p o
    withHalo c c.cells * lookupTaps q * ((lookupTables q).map (fun t => ceilDiv t.2.2 32)).sum
  else if code = cScatter then withHalo c c.cells
  else if code = cSuppress then ceilDiv (listCap p i (byteAt o.desc 2) ^ 2) 8
  else if code = cZone then listCap p i (byteAt o.desc 2) * max 1 c.zones
  else
    let m := u16 o.desc 2
    mapX p m * mapY p m + 2 * mapHalo p m * mapX p m * (c.k - 1)

/-- Count of a map lookup or update over its tables, with the factor f of R377 for large tables. -/
def mtuCount (p : PkgDecl) (c : Counts) (small : Nat → Bool) (o : OpDecl) : Nat :=
  let q := lookupOf p o
  withHalo c c.cells * lookupTaps q *
    ((lookupTables q).map (fun t => ceilDiv t.2.2 32 * (if small t.1 then 1 else c.k))).sum

/-- Coefficient of a stage unit, steps per item (R120). -/
def stageCoef (o : OpDecl) : Frac :=
  let code := opCode o
  if code = cDeskew ∨ code = cMapLookup ∨ code = cMapUpdate then ⟨2, 1⟩
  else if code = cVoxelise then ⟨3, 1⟩
  else if code = cCurve then ⟨25, 8⟩
  else if code = cRulebook then ⟨1, 4⟩
  else if code = cScatter then ⟨1, 1⟩
  else ⟨1, 2⟩

/-- Count of a stall operator on its basis (R338, R362): pairs of a convolution's class, cells of an attention or an
activation, output pixels of an operator on maps. -/
def stallCount (p : PkgDecl) (c : Counts) (o : OpDecl) : Nat :=
  if opCode o = cConv then withHalo c (pairsOf c (byteAt o.desc 2))
  else if onMaps o then
    let m := if opCode o = cDense then convOut o else u16 o.desc 6
    mapX p m * mapY p m
  else withHalo c c.cells

/-- Tiles per item of a stall operator (R338, R362). -/
def tilesPerItem (p : PkgDecl) (o : OpDecl) : Frac :=
  let s := partsOf (acbLp o.desc) (convChunks p o)
  if isConvOp o && decide (1 < s) then ⟨s, 1⟩
  else if opCode o = cDense then ⟨1, max 1 (byteAt o.desc 7 * byteAt o.desc 48)⟩
  else ⟨1, max 1 (rowsPerTile p o)⟩

/-- Tile count of a stall operator. -/
def tileCount (p : PkgDecl) (c : Counts) (o : OpDecl) : Nat := (Frac.mul ⟨stallCount p c o, 1⟩ (tilesPerItem p o)).ceil

/-! ## The bound (R120) -/

/-- Shares a bound is evaluated with: U of the stalls in stalls, U of the stage units, pace in 0.0001 Gstep/s. -/
structure Shares where
  us : Frac
  ug : Frac
  p : Nat
  deriving DecidableEq, Repr

/-- Time of `n` steps at pace p, ns. -/
def stepsNs (p : Nat) (n : Frac) : Frac := Frac.mul n ⟨10000, p⟩

/-- Clockless microseconds at 1.25 Gstep/s, in ns at pace p. -/
def clockless (p us : Nat) : Frac := ⟨us * 1000 * 12500, p⟩

def fracNs (n : Nat) : Frac := ⟨n, 1⟩

/-- One operator's part of the operator sum. -/
def opTime (p : PkgDecl) (c : Counts) (small : Nat → Bool) (u : Shares) (i : Nat) : Frac :=
  let o := opAt p i
  if isStallOp o then
    Frac.div (stepsNs u.p (Frac.mul ⟨o.cost.cNum, o.cost.cDen⟩ ⟨stallCount p c o, 1⟩)) u.us
  else
    let n := if opCode o = cMapLookup ∨ opCode o = cMapUpdate then mtuCount p c small o else stageCount p c i o
    Frac.div (stepsNs u.p (Frac.mul (stageCoef o) ⟨n, 1⟩)) u.ug

/-- Remaining operators: all of them for the full bound, from curve order onward otherwise. -/
def remaining (p : PkgDecl) (full : Bool) : List Nat :=
  (List.range p.ops.length).filter (fun i => full || decide (2 ≤ i))

/-- Frame close and ingest tail. -/
def closeNs (u : Shares) : Frac := Frac.add (fracNs 4000) (clockless u.p 2)

/-- The fixed overheads F over the operators `r`; share lag and verdict where they are counted. -/
def fixedNs (p : PkgDecl) (c : Counts) (u : Shares) (full : Bool) (r : List Nat) (stalled verdict : Bool) : Nat :=
  let after := (r.filter (fun i => decide (3 ≤ i))).length
  let close := if full then closeNs u else Frac.zero
  let disp := clockless u.p r.length
  let cut := if 2 ≤ c.k then Frac.add (fracNs (2000 * after)) (clockless u.p after) else Frac.zero
  let lag := if stalled then stepsNs u.p ⟨2 * p.sMax, 1⟩ else Frac.zero
  let send := if verdict then Frac.add (fracNs 6000) (clockless u.p 4) else Frac.zero
  (Frac.sum [close, disp, cut, lag, send]).ceil

/-- Σ of the tile counts of the remaining stall operators. -/
def tileSum (p : PkgDecl) (c : Counts) (full : Bool) : Nat :=
  (((remaining p full).filter (fun i => isStallOp (opAt p i))).map (fun i => tileCount p c (opAt p i))).sum

/-- Retries that a retry budget allows (R120, R282). -/
def retryCount (rb tiles : Nat) : Nat := ceilDiv (rb * tiles) 1000

/-- The terms of R120 over the operators `r`, each rounded up once. `stalled` counts share lag and retry budget,
`verdict` the verdict component. -/
def termsNs (p : PkgDecl) (c : Counts) (small : Nat → Bool) (u : Shares) (rb : Nat) (full : Bool) (r : List Nat)
    (stalled verdict : Bool) : Nat :=
  let ops := (Frac.sum (r.map (opTime p c small u))).ceil
  let leave := 1500 * (r.filter (fun i => (opAt p i).cost.leaveReq)).length
  let arb := (stepsNs u.p ⟨384 * ((r.filter (fun i => isStallOp (opAt p i))).map
    (fun i => (Frac.div ⟨tileCount p c (opAt p i), 1⟩ u.us).ceil)).sum, 1⟩).ceil
  let retry := if stalled then (Frac.div (stepsNs u.p ⟨retryCount rb (tileSum p c full) * p.sMax, 1⟩) u.us).ceil else 0
  ops + fixedNs p c u full r stalled verdict + leave + arb + retry

/-- The bound in ns. -/
def boundNs (p : PkgDecl) (c : Counts) (small : Nat → Bool) (u : Shares) (rb : Nat) (full : Bool) : Nat :=
  termsNs p c small u rb full (remaining p full) true true

/-- The position under which the ingest tail's term and stamp stand (R414). -/
def tailPos : Nat := 65535

/-- The sum of the bound's terms up to and including each remaining operator, the whole bound under the position after the
last, and in the full bound the ingest tail's term (R414): share lag and retry budget count from the first stall operator
on. -/
def cumTerms (p : PkgDecl) (c : Counts) (small : Nat → Bool) (u : Shares) (rb : Nat) (full : Bool) : List (Nat × Nat) :=
  let r := remaining p full
  r.map (fun i =>
    let q := r.filter (fun j => decide (j ≤ i))
    (i, termsNs p c small u rb full q (q.any (fun j => isStallOp (opAt p j))) false)) ++
    (p.ops.length, boundNs p c small u rb full) :: (if full then [(tailPos, (closeNs u).ceil)] else [])

/-- The bound, none where the shares or the pace are 0 and no time suffices. -/
def bound? (p : PkgDecl) (c : Counts) (small : Nat → Bool) (u : Shares) (rb : Nat) (full : Bool) : Option Nat :=
  if u.p = 0 ∨ u.us.num = 0 ∨ u.ug.num = 0 then none else some (boundNs p c small u rb full)

/-! ## Shares and pace of a context -/

/-- φ of a die times the context's stall share, in stalls, with `avail` stalls and `res` shares reserved (R120). -/
def effShare (share avail res : Nat) : Frac := ⟨share * min res (32 * avail), 32 * res⟩

/-- U of the stalls on a mask of dies (R120). -/
def usOf (s : State) (share mask : Nat) : Frac :=
  Frac.sum ((maskDies mask).map (fun d => effShare share (stallsAvail s d) (max share (shareRes s d))))

/-- U of the stage units: the unfenced dies of the mask (R120). -/
def ugOf (s : State) (share mask : Nat) : Frac :=
  ⟨stageShare share * ((maskDies mask).filter (fun d => !dieFenced s d && !dieOff s d)).length, 256⟩

/-- A table is small (R368, R377). -/
def smallTable (s : State) (t : Nat) : Bool :=
  match s.tables.find? (fun x => x.id == t) with
  | some x => x.small
  | none => false

/-- A die's term of R122. -/
def paceTerm (s : State) (d : Nat) : Nat :=
  min (paceMeas s d * (1000 - cfgFld s rAdmCfg 0 31 22) / 1000) (agedFloor s d)

/-- The pace used (R122) over a mask of dies and the hub. -/
def paceUsed (s : State) (mask : Nat) : Nat :=
  (maskDies mask).foldl (fun m d => min m (paceTerm s d)) (paceTerm s 0)

/-- Lowest aged floor over a mask of dies and the hub, at a level (R121). -/
def lowFloor (s : State) (mask l : Nat) : Nat :=
  (maskDies mask).foldl (fun m d => min m (agedFloorAt s d l)) (agedFloorAt s 0 l)

/-- Pairs of each class as cells × kernel volume. -/
def capPairs (p : PkgDecl) (cells : Nat) : List Nat := (pkgVolumes p).map (· * cells)

/-- Counts at a context's caps (R121). -/
def capCounts (s : State) (p : PkgDecl) (c : Ctx) : Counts :=
  ⟨c.pointCap, c.cellCap, capPairs p c.cellCap, maskCount c.dieMask, c.zones.length, cfgFld s rAdmCfg 0 14 7⟩

def retryBudget (s : State) : Nat := cfgFld s rAdmCfg 0 21 15

/-- The bound at caps with φ = 1, at a level (R121). -/
def boundAtCaps (s : State) (c : Ctx) (l : Nat) : Option Nat :=
  let p := declOf s c.pkg
  let k := maskCount c.dieMask
  bound? p (capCounts s p c) (smallTable s) ⟨⟨c.share * k, 32⟩, ⟨stageShare c.share * k, 256⟩, lowFloor s c.dieMask l⟩
    (retryBudget s) true

/-- The bound at caps with the present φ (R128). -/
def boundNow (s : State) (c : Ctx) : Option Nat :=
  let p := declOf s c.pkg
  bound? p (capCounts s p c) (smallTable s)
    ⟨usOf s c.share c.dieMask, ugOf s c.share c.dieMask, lowFloor s c.dieMask (floorLevel s)⟩ (retryBudget s) true

/-- A bound that exceeds a deadline in µs. -/
def exceeds (b : Option Nat) (deadline : Nat) : Bool :=
  match b with
  | some n => decide (deadline * 1000 < n)
  | none => true

/-- The checker condition of R123 with a backlog of q points and a pace, deadline in µs. -/
def checkerFits (q p deadline : Nat) : Bool :=
  decide (p ≠ 0) &&
    decide ((Frac.sum [⟨5 * q, 2⟩, fracNs 26000, clockless p 4]).num ≤
      deadline * 1000 * (Frac.sum [⟨5 * q, 2⟩, fracNs 26000, clockless p 4]).den)

/-- Point caps of all guaranteed contexts. -/
def capSum (s : State) : Nat := ((s.ctxs.filter (·.guaranteed)).map (·.pointCap)).sum

/-! ## Recomputation (R128, R130) -/

/-- The events of a recomputation for a die whose stalls available changed (R128, R137). -/
def capacityEvents (s : State) (d : Nat) : List Ev :=
  (if d ≠ 0 ∧ 32 * stallsAvail s d < shareRes s d then [{ code := 0x0480, die := d, loc := 0 }] else []) ++
    ((s.ctxs.filter (fun c => c.guaranteed && exceeds (boundNow s c) c.deadline)).map
      (fun c => { code := 0x0480, die := d, loc := 4096 + c.id }))

end Sys2Proof.Machine
end

