-- ==== Sys2Proof/Machine/Crc.lean ====
section
/-!
DEFINITION. The check codes: the CRC-32 of R71, the CRC-16 of R15 and the RS(36,32) code of R440 and R441.
-/
namespace Sys2Proof.Machine

/-- One bit of the reflected CRC-32 (R71). -/
def crc32Bit (c : BitVec 32) : BitVec 32 :=
  if c.getLsbD 0 then (c >>> 1) ^^^ 0xEDB88320#32 else c >>> 1

/-- `n` bits of the CRC-32. -/
def crc32Bits : Nat → BitVec 32 → BitVec 32
  | 0, c => c
  | n + 1, c => crc32Bits n (crc32Bit c)

/-- One byte of the CRC-32. -/
def crc32Byte (c : BitVec 32) (b : Byte) : BitVec 32 := crc32Bits 8 (c ^^^ (b.setWidth 32 : BitVec 32))

/-- CRC-32 of IEEE 802.3 (R71). -/
def crc32 (l : List Byte) : Nat := (l.foldl crc32Byte 0xFFFFFFFF#32 ^^^ 0xFFFFFFFF#32).toNat

/-- One bit of the CRC-16 (R15). -/
def crc16Bit (c : BitVec 16) : BitVec 16 :=
  if c.getLsbD 15 then (c <<< 1) ^^^ 0x1021#16 else c <<< 1

def crc16Bits : Nat → BitVec 16 → BitVec 16
  | 0, c => c
  | n + 1, c => crc16Bits n (crc16Bit c)

/-- CRC-16 over bytes, most significant bit first, initial value 0xFFFF (R15). -/
def crc16 (l : List Byte) : Nat :=
  (l.foldl (fun c b => crc16Bits 8 (c ^^^ ((b.setWidth 16 : BitVec 16) <<< (8 : Nat)))) 0xFFFF#16).toNat

/-! ## RS(36,32) over GF(2^8) (R440, R441) -/

/-- Multiplication by x in the field of R440. -/
def gdouble (a : Byte) : Byte := if a.getLsbD 7 then (a <<< 1) ^^^ 0x1D#8 else a <<< 1

/-- Product over the low `n` bits of `b`. -/
def gmulBits : Nat → Byte → Byte → Byte
  | 0, _, _ => 0
  | n + 1, a, b => (if b.getLsbD 0 then a else 0) ^^^ gmulBits n (gdouble a) (b >>> 1)

/-- Multiplication in the field of R440. -/
def gmul (a b : Byte) : Byte := gmulBits 8 a b

/-- Power in the field. -/
def gpow (a : Byte) : Nat → Byte
  | 0 => 1
  | n + 1 => gmul a (gpow a n)

/-- Inverse of a non-zero element. -/
def ginv (a : Byte) : Byte := gpow a 254

/-- One data byte of the encoder of R440. -/
def rsStep (r : Byte × Byte × Byte × Byte) (d : Byte) : Byte × Byte × Byte × Byte :=
  let f := d ^^^ r.1
  (r.2.1 ^^^ gmul f 0x0F, r.2.2.1 ^^^ gmul f 0x36, r.2.2.2 ^^^ gmul f 0x78, gmul f 0x40)

/-- The four check bytes of 32 data bytes (R440). -/
def rsCheck (d : List Byte) : List Byte :=
  let r := d.foldl rsStep (0, 0, 0, 0)
  [r.1, r.2.1, r.2.2.1, r.2.2.2]

/-- The 32 metadata bits: check byte k in bits [8k + 7 : 8k] (R440). -/
def rsMeta (d : List Byte) : BitVec 32 := BitVec.ofNat 32 (leNat (rsCheck d))

/-- Value of the received word at a point, the first byte being the highest coefficient (R441). -/
def polyEval (x : Byte) (c : List Byte) : Byte := c.foldl (fun acc b => gmul acc x ^^^ b) 0

/-- Syndrome j (R441). -/
def syndrome (c : List Byte) (j : Nat) : Byte := polyEval (gpow 2 j) c

/-- A single error at a position that explains the syndromes: position and value. -/
def rsOne (s0 s1 s2 s3 : Byte) : Option (Nat × Byte) :=
  ((List.range 36).find? (fun p =>
    let x := gpow 2 (35 - p)
    s1 == gmul s0 x && s2 == gmul s1 x && s3 == gmul s2 x)).map (fun p => (p, s0))

/-- Error values at two positions by the first two syndromes. -/
def rsPair (s0 s1 : Byte) (p q : Nat) : Byte × Byte :=
  let x := gpow 2 (35 - p)
  let y := gpow 2 (35 - q)
  let e2 := gmul (s1 ^^^ gmul s0 x) (ginv (x ^^^ y))
  (s0 ^^^ e2, e2)

/-- Errors at positions p and q explain all four syndromes. -/
def rsPairOk (s0 s1 s2 s3 : Byte) (p q : Nat) : Bool :=
  let x := gpow 2 (35 - p)
  let y := gpow 2 (35 - q)
  let e := rsPair s0 s1 p q
  s2 == (gmul e.1 (gmul x x) ^^^ gmul e.2 (gmul y y)) &&
    s3 == (gmul e.1 (gmul x (gmul x x)) ^^^ gmul e.2 (gmul y (gmul y y)))

/-- Two positions whose errors explain the syndromes. -/
def rsTwo (s0 s1 s2 s3 : Byte) : Option (Nat × Nat) :=
  ((List.range 36).flatMap (fun p => (List.range 36).filterMap (fun q =>
    if p < q ∧ rsPairOk s0 s1 s2 s3 p q = true then some (p, q) else none))).head?

/-- How a burst of 36 received bytes is taken (R441): symbols corrected and the corrected bytes, none if
uncorrectable. -/
def rsDecode (c : List Byte) : Option (Nat × List Byte) :=
  let s0 := syndrome c 0
  let s1 := syndrome c 1
  let s2 := syndrome c 2
  let s3 := syndrome c 3
  if s0 = 0 ∧ s1 = 0 ∧ s2 = 0 ∧ s3 = 0 then some (0, c)
  else match rsOne s0 s1 s2 s3 with
    | some (p, e) => some (1, updAt c p (· ^^^ e))
    | none =>
      match rsTwo s0 s1 s2 s3 with
      | some (p, q) =>
        let e := rsPair s0 s1 p q
        some (2, updAt (updAt c p (· ^^^ e.1)) q (· ^^^ e.2))
      | none => none

end Sys2Proof.Machine
end

