-- ==== Sys2Proof/Machine/Mailbox.lean ====
section
/-!
DEFINITION. The slot watcher: the command catalogue (R88), the submission checks (R73 to R78, R462), the consumer
position (R83) and the command NOP.
Conventions: log entry 26 (DEDUCED).
-/
namespace Sys2Proof.Machine

/-! ## The catalogue -/

/-- A row of the catalogue: code, operand length, byte ranges reserved at a fixed position, reserved bits within other
operand bytes, and the power states that permit it as a mask of state codes (R76, R88, R462). -/
structure CatRow where
  code : Nat
  len : Nat
  res : List (Nat × Nat)
  bits : List (Nat × Nat)
  perm : Nat
  deriving DecidableEq, Repr

/-- States of the four rows of R462. -/
def permAll : Nat := 0b11110
def permStandby : Nat := 0b11100
def permReady : Nat := 0b11000
def permReadyOnly : Nat := 0b01000

def catalogueA : List CatRow := [
  ⟨0x0001, 0, [], [], permAll⟩,
  ⟨0x0010, 8, [(20, 4)], [], permAll⟩,
  ⟨0x0011, 24, [(20, 4)], [], permAll⟩,
  ⟨0x0012, 0, [], [], permAll⟩,
  ⟨0x0013, 0, [], [], permAll⟩,
  ⟨0x0014, 0, [], [], permAll⟩,
  ⟨0x0020, 8, [(18, 2)], [], permReady⟩,
  ⟨0x0021, 8, [(18, 6)], [], permStandby⟩,
  ⟨0x0022, 8, [(18, 6)], [], permAll⟩,
  ⟨0x0023, 16, [(18, 2)], [], permReady⟩,
  ⟨0x0024, 8, [(19, 5)], [], permReady⟩,
  ⟨0x0025, 8, [(18, 6)], [], permReady⟩,
  ⟨0x0030, 8, [(18, 2)], [], permReady⟩,
  ⟨0x0031, 8, [(18, 6)], [], permStandby⟩,
  ⟨0x0032, 8, [(18, 2)], [], permReady⟩,
  ⟨0x0033, 16, [(19, 1), (22, 2)], [(18, 0xF8)], permReady⟩]

def catalogueB : List CatRow := [
  ⟨0x0040, 8, [(18, 2)], [], permReady⟩,
  ⟨0x0041, 160, [(30, 2)], [], permReady⟩,
  ⟨0x0042, 176, [(20, 4)], [], permReady⟩,
  ⟨0x0043, 32, [(17, 7), (36, 4), (46, 2)], [(16, 0xF8)], permAll⟩,
  ⟨0x0050, 8, [(17, 7)], [], permAll⟩,
  ⟨0x0051, 8, [(17, 7)], [], permReady⟩,
  ⟨0x0052, 8, [(19, 5)], [(17, 0xF0)], permReady⟩,
  ⟨0x0053, 8, [], [], permAll⟩,
  ⟨0x0060, 8, [(19, 5)], [], permReady⟩,
  ⟨0x0061, 8, [(23, 1)], [], permAll⟩,
  ⟨0x0070, 16, [(19, 1)], [(18, 0xF8)], permReadyOnly⟩,
  ⟨0x0071, 40, [(19, 5)], [], permStandby⟩,
  ⟨0x0072, 8, [(17, 7)], [], permStandby⟩,
  ⟨0x0073, 8, [(18, 2)], [], permStandby⟩,
  ⟨0x0074, 8, [(17, 1)], [], permReadyOnly⟩]

/-- The command catalogue (R88). -/
def catalogue : List CatRow := catalogueA ++ catalogueB

def catRow (code : Nat) : Option CatRow := catalogue.find? (fun r => r.code == code)

/-! ## Submission checks (R76) -/

/-- Check 4: reserved header bits, `txn` without IN_TXN, the bytes after the operands, and the bytes and bits that the
command reserves at a fixed position. -/
def reservedOk (b : List Byte) : Bool :=
  let flags := u16 b 4
  let len := u16 b 2
  decide (flags < 4) && u16 b 6 == 0 && (bitOf flags 0 || u32 b 8 == 0) &&
    allZero ((b.take 224).drop (16 + len)) &&
    (match catRow (u16 b 0) with
     | none => true
     | some r => r.res.all (fun p => allZero (slice b p.1 p.2)) &&
        r.bits.all (fun p => byteAt b p.1 &&& p.2 == 0))

/-- Power states a check 7 covers: the current one, or every state from the one left to the target (R462). -/
def powerSpan (s : State) : List Nat :=
  if s.pwr.changing then
    let lo := min s.pwr.from_ s.pwr.target
    let hi := max s.pwr.from_ s.pwr.target
    (List.range 5).filter (fun c => lo ≤ c && c ≤ hi)
  else [s.pwr.st]

def powerPermits (s : State) (r : CatRow) : Bool := (powerSpan s).all (bitOf r.perm)

/-- With IN_TXN, the commands permitted (check 8). -/
def txnAllowed (code : Nat) : Bool := code == 0x0011 || code == 0x0013 || code == 0x0014

/-- Expected sequence of a slot (R72). -/
def expectedSeq (c : Chan) (slot : Nat) : Nat := mapGet 1 c.seqs slot

def nextSeq (n : Nat) : Nat := if n = 65535 then 1 else n + 1

/-- The status of the first failing check of R76, 0 if all pass. `b` is the slot's 256 bytes as copied. -/
def sealStatus (s : State) (slot : Nat) (b : List Byte) : Nat :=
  let ch := slot / 8192
  let c := chanOf s ch
  let code := u16 b 0
  let inTxn := bitOf (u16 b 4) 0
  if s.boot.idBoot ≠ 1 then 0x0306
  else if u16 b 252 ≠ expectedSeq c slot then 0x0301
  else if u32 b 248 ≠ crc32 (b.take 224) then 0x0302
  else if reservedOk b = false then 0x0303
  else match catRow code with
    | none => 0x0304
    | some r =>
      if u16 b 2 ≠ r.len then 0x0305
      else if powerPermits s r = false then 0x0306
      else if inTxn ∧ txnAllowed code = false then 0x030A
      else if inTxn ∧ ¬ (s.txn.id ≠ 0 ∧ u32 b 8 = s.txn.id) then 0x0309
      else if cfgFld s rMbxCfg ch 31 16 ≤ c.inflight.length then 0x0307
      else if ringFree s ch < 1 + cfgFld s rMbxCfg ch 15 0 then 0x0308
      else 0

/-- Slot offset within its channel (R57). -/
def slotOff (slot : Nat) : Nat := 0x100000 + slot % 8192 * 256

/-- The answer unit of R78. -/
def answerBytes (s : State) (slot status seq : Nat) : List Byte :=
  let c := chanOf s (slot / 8192)
  leBytes 2 status ++ leBytes 2 (expectedSeq c slot) ++ leBytes 2 c.inflight.length ++ leBytes 2 0 ++
    leBytes 4 (now32 s) ++ leBytes 12 0 ++ leBytes 4 0 ++ leBytes 2 seq ++ leBytes 2 0

/-- Writes the answer (R78). -/
def answerSeal (s : State) (slot status seq : Nat) : State :=
  apertureWrite s (slot / 8192) (slotOff slot + 224) (answerBytes s slot status seq)

/-- Accepts a submission: busy, one ring entry reserved, sequence advanced, transaction touched (R72, R75, R102). -/
def acceptSeal (s : State) (slot : Nat) (b : List Byte) : State :=
  let cmd : Cmd := { slot := slot, code := u16 b 0, flags := u16 b 4, txn := u32 b 8, tag := u32 b 12,
                     bytes := b.take 224, started := false, at_ := s.raw, corr := now s,
                     note := none }
  let s1 := modChan s (slot / 8192) (fun c =>
    { c with inflight := c.inflight ++ [cmd], seqs := mapSet 1 c.seqs slot (nextSeq (expectedSeq c slot)) })
  if bitOf (u16 b 4) 0 then { s1 with txn := { s1.txn with lastUse := s.raw } } else s1

/-- Decides a submission and answers it. -/
def decideSeal (s : State) (slot : Nat) (b : List Byte) : State :=
  let st := sealStatus s slot b
  if st = 0 then answerSeal (acceptSeal s slot b) slot 0 (u16 b 252)
  else
    let s1 := modChan s (slot / 8192) (fun c => { c with refused := sat32 (c.refused + 1) })
    answerSeal s1 slot st (u16 b 252)

/-- A slot is busy (R75). -/
def slotBusy (s : State) (slot : Nat) : Bool := (cmdOf s slot).isSome

/-- Evaluates a seal write after its unit is stored (R73, R75, R76). -/
def sealEval (s : State) (slot : Nat) : State :=
  let ch := slot / 8192
  let b := memRead (chanOf s ch).mem (slotOff slot) 256
  if u16 b 254 ≠ 0x5EA1 then s
  else if slotBusy s slot then
    raise (modChan s ch (fun c => { c with busySeals := sat32 (c.busySeals + 1) }))
      [{ code := 0x0380, die := 0, loc := slot % 8192, detail := leBytes 2 slot ++ leBytes 1 ch }]
  else decideSeal s slot b

/-! ## The consumer position (R83) -/

/-- A written consumer value is taken. -/
def consumerOk (c : Chan) (v : Nat) : Bool :=
  decide ((c.prod + 2 ^ 32 - v) % 2 ^ 32 ≤ ringPending c)

/-- Takes or ignores a written consumer value; freed entries let a loss marker be written (R82, R83). -/
def takeConsumer (s : State) (ch v : Nat) : State :=
  let c := chanOf s ch
  if consumerOk c v then
    let s1 := modChan s ch (fun c =>
      { c with cons := v, penTimes := c.penTimes.drop (ringPending c - (c.prod + 2 ^ 32 - v) % 2 ^ 32) })
    hintUpdate (flushMarker s1 ch)
  else
    raise (modChan s ch (fun c => { c with consumerInvalid := sat32 (c.consumerInvalid + 1) }))
      [{ code := 0x0381, die := 0, loc := ch }]

/-! ## NOP -/

/-- NOP: status OK, body 0 (R88). -/
def execNop (slot : Nat) (s : State) : Host.Outcome State Fault Refusal :=
  .next (withCmd 0x0001 slot s (fun _ s => (s, .done statusOk (leBytes 16 0))))

end Sys2Proof.Machine
end

