-- ==== Sys2Proof/Machine/Extents.lean ====
section
/-!
DEFINITION. Where allocations stand at the targets of a die (R107, R108, R437, R448, R450, R451): the zones that the
regions of single descriptors take, the extents of the domains, and the placement of an allocation within them.
Conventions: log entry 54 (DESIGN CHOICE), log entry 73 (DESIGN CHOICE).
-/
namespace Sys2Proof.Machine

/-- The elements of a list with their numbers, from i on. -/
def enumFrom {α : Type} : Nat → List α → List (Nat × α)
  | _, [] => []
  | i, a :: l => (i, a) :: enumFrom (i + 1) l

/-- Aperture offset of a window page (R57, R87). -/
def pageOff (page : Nat) : Nat := 0x400000 + page * 4096

/-! ## Targets and their sizes (R1, R448) -/

/-- The targets of a die (R448). -/
def targetExists (s : State) (d t : Nat) : Bool :=
  if d = 0 then t ≤ 4 || t = 9 else isDie s d && t ≤ 9

/-- Bytes of a die's main memory. -/
def mainBytes (s : State) (d : Nat) : Nat :=
  ((dieOf s d).mmc.map (fun c => if c.cap = 0 then 0 else 2 ^ c.cap * 1073741824)).sum

/-- Lines of hub targets 1 to 3; with target 4 they take the 16 MiB that R1 leaves beside the aperture backing. How those
divide is not the spec's (log entry 54, DESIGN CHOICE). -/
def hubCut (t : Nat) : Nat :=
  if t = 1 then Config.targetLines 1 % 262141 + 1
  else if t = 2 then Config.targetLines 2 % (262142 - (Config.targetLines 1 % 262141 + 1)) + 1
  else
    let a := Config.targetLines 1 % 262141 + 1
    let b := Config.targetLines 2 % (262142 - a) + 1
    Config.targetLines 3 % (262143 - a - b) + 1

/-- Lines of a hub SRAM target: 24 MiB in all (R1). -/
def hubLines (t : Nat) : Nat :=
  if t = 0 then 131072
  else if t ≤ 3 then hubCut t
  else if t = 4 then 262144 - hubCut 1 - hubCut 2 - hubCut 3
  else 0

/-- Lines of a target. A compute die's 64 MiB of SRAM (R1) are its paddocks, loft, hash store, hot cache and near buffers,
which leaves 4 MiB for the sort and rulebook store (log entry 54). -/
def lineCount (s : State) (d t : Nat) : Nat :=
  if t = 9 then mainBytes s d / 64
  else if d = 0 then hubLines t
  else if t ≤ 4 then 131072
  else if t = 5 then 65536
  else if t = 6 then 131072
  else if t = 8 then 49152
  else 65536

/-! ## Zones (R107, R108, R394, R400, R461) -/

/-- Lines of the weight pool over a die's paddocks (R108), and the first line of their working space. -/
def poolLines (s : State) : Nat := cfgFld s rAdmCfg 0 5 0 * 16384
def workBase (s : State) : Nat := ceilDiv (poolLines s) 5 * 5

/-- First line of a compute die's map-table region: it lies below the save area. -/
def regionBase (s : State) (d : Nat) : Nat := lineCount s d 9 - 1048576 - cfgFld s rMtuCfg 0 63 52 * 16384

/-- Lines of the checker region at the bottom of hub main memory; the device area is the top 128 MiB (R107). -/
def chkLines (s : State) : Nat := cfgFld s rZckCfg 0 31 20 * 16384

/-- First line and end of the part of a target in which allocations of a use stand (log entry 73, DESIGN CHOICE): those of
R107 and R394 as these rules give, the rest in what remains. -/
def zone (s : State) (d t grp : Nat) : Nat × Nat :=
  if d = 0 then
    (if t = 9 then
      (if grp = 11 then (chkLines s, lineCount s 0 9 - 2097152)
       else if grp = 1 then (0, chkLines s)
       else (lineCount s 0 9 - 2097152, lineCount s 0 9))
     else (0, lineCount s 0 t))
  else if t ≤ 4 then (if grp = 8 then (0, poolLines s) else (workBase s, 655360))
  else if t = 5 then (40960, 65536)
  else if t = 9 then
    (let b := regionBase s d
     let c := cfgFld s rMtuCfg 0 51 44 * 16384
     if grp = 10 then (b, b + c)
     else if grp = 9 then (b + c, b + cfgFld s rMtuCfg 0 63 52 * 16384)
     else (0, b))
  else (0, lineCount s d t)

/-! ## Extents (R450, R451) -/

/-- The first descriptor of a domain's extents, and how many it has. -/
def domGrp (dom : Nat) : Nat := if dom = 1 then 1 else if dom = 2 then 4 else 12 + 4 * (dom - 3)
def grpExtents (grp : Nat) : Nat := if grp = 1 then 3 else 4

/-- Inserts a span, first line and length, in ascending line. -/
def spanInsert (x : Nat × Nat) : List (Nat × Nat) → List (Nat × Nat)
  | [] => [x]
  | y :: l => if y.1 ≤ x.1 then y :: spanInsert x l else x :: y :: l

def spanSort (l : List (Nat × Nat)) : List (Nat × Nat) := l.foldr spanInsert []

/-- Sorted spans with those that touch made one. -/
def spanJoin : List (Nat × Nat) → List (Nat × Nat)
  | [] => []
  | x :: l =>
    match spanJoin l with
    | [] => [x]
    | y :: r => if y.1 ≤ x.1 + x.2 then (x.1, max (x.1 + x.2) (y.1 + y.2) - x.1) :: r else x :: y :: r

/-- Spans that allocations take at a target. -/
def spansAt (s : State) (d t : Nat) (p : Alloc → Bool) : List (Nat × Nat) :=
  ((dieOf s d).allocs.filter (fun a => a.target == t && p a)).map (fun a => (a.base, a.len))

/-- Extents of a use at a target. -/
def extents (s : State) (d t grp : Nat) : List (Nat × Nat) := spanJoin (spanSort (spansAt s d t (fun a => a.grp == grp)))

/-- A span stands free within a zone. -/
def spanFree (z : Nat × Nat) (all : List (Nat × Nat)) (x : Nat × Nat) : Bool :=
  decide (z.1 ≤ x.1) && decide (x.1 + x.2 ≤ z.2) &&
    all.all (fun y => decide (x.1 + x.2 ≤ y.1) || decide (y.1 + y.2 ≤ x.1))

/-- Where a domain's allocation of n lines goes: an extent of its own is extended, upwards or downwards, or else a free one
used at the lowest place that fits (R451). -/
def placeIn (s : State) (d t grp n : Nat) : Option Nat :=
  let all := spansAt s d t (fun _ => true)
  let own := extents s d t grp
  let tries := own.map (fun x => x.1 + x.2) ++ own.map (fun x => x.1 - n) ++
    (zone s d t grp).1 :: (spanSort all).map (fun x => x.1 + x.2)
  tries.find? (fun b => spanFree (zone s d t grp) all (b, n) &&
    decide ((spanJoin (spanSort ((b, n) :: own))).length ≤ grpExtents grp))

/-- Adds an allocation. -/
def addAlloc (s : State) (d : Nat) (a : Alloc) : State := modDie s d (fun x => { x with allocs := x.allocs ++ [a] })

/-- An allocation of n lines, none where it does not fit. -/
def allocate (s : State) (d t grp : Nat) (owner : List Nat) (n : Nat) : Option State :=
  if n = 0 then some s else (placeIn s d t grp n).map (fun b => addAlloc s d ⟨t, grp, owner, b, n⟩)

/-- An allocation for each die of a list; none where one does not fit. -/
def allocateAll (t grp : Nat) (owner : List Nat) (n : Nat) : List Nat → State → Option State
  | [], s => some s
  | d :: l, s => (allocate s d t grp owner n).bind (allocateAll t grp owner n l)

/-- Free spans of a zone between sorted spans. -/
def gapsFrom (lo hi : Nat) : List (Nat × Nat) → List (Nat × Nat)
  | [] => if lo < hi then [(lo, hi - lo)] else []
  | x :: l => (if lo < min hi x.1 then [(lo, min hi x.1 - lo)] else []) ++ gapsFrom (max lo (x.1 + x.2)) hi l

/-- The first n lines of spans. -/
def takeSpans : Nat → List (Nat × Nat) → List (Nat × Nat)
  | _, [] => []
  | n, x :: l => if n = 0 then [] else (x.1, min n x.2) :: takeSpans (n - x.2) l

/-- Lines in the zone of a use that one descriptor covers as a whole: they need not lie together. -/
def allocateLines (s : State) (d t grp : Nat) (owner : List Nat) (n : Nat) : State :=
  let z := zone s d t grp
  (takeSpans n (gapsFrom z.1 z.2 (spanSort (spansAt s d t (fun _ => true))))).foldl
    (fun a x => addAlloc a d ⟨t, grp, owner, x.1, x.2⟩) s

/-- Gives back the allocations of an owner on the dies that a condition names. -/
def release (s : State) (owner : List Nat) (p : Nat → Bool) : State :=
  { s with dies := (enumFrom 0 s.dies).map (fun x =>
      if p x.1 then { x.2 with allocs := x.2.allocs.filter (fun a => a.owner != owner) } else x.2) }

/-! ## Places -/

/-- Spans of an owner at a target, in the order in which they were allocated. -/
def spansOf (s : State) (d t : Nat) (owner : List Nat) : List (Nat × Nat) := spansAt s d t (fun a => a.owner == owner)

/-- Line i of spans, round again past their end. -/
def spanLine : List (Nat × Nat) → Nat → Nat
  | [], _ => 0
  | x :: l, i => if i < x.2 then x.1 + i else if l = [] then x.1 + i % max 1 x.2 else spanLine l (i - x.2)

/-- What remains of a zone above every allocation: best-effort frames take it (R132). -/
def zoneTail (s : State) (d t grp : Nat) : Nat × Nat :=
  let z := zone s d t grp
  let b := ((spansAt s d t (fun _ => true)).map (fun x => x.1 + x.2)).foldl max z.1
  let b5 := ceilDiv b 5 * 5
  (b5, z.2 - b5)

/-- Owners of allocations: a context's working space, point store or checker store, merge area, hash partition and its words;
a package's weights, and its copy. -/
def ownWork (x : Nat) : List Nat := [1, x]
def ownStore (x : Nat) : List Nat := [2, x]
def ownMerge (x : Nat) : List Nat := [3, x]
def ownHash (x : Nat) : List Nat := [4, x]
def ownWeights (h : Nat) : List Nat := [5, h]
def ownCopy (h : Nat) : List Nat := [6, h]

end Sys2Proof.Machine
end

