-- ==== Sys2Proof/Machine/Status.lean ====
section
/-!
DEFINITION. What the registers report that is computed from the state: stores and regions in use, stop members and
forced stop, firewall descriptors, lifecycle, aging projections.
Conventions: log entry 36 (DEDUCED), log entry 54 (DESIGN CHOICE), log entry 73 (DESIGN CHOICE).
-/
namespace Sys2Proof.Machine

def mib (bytes : Nat) : Nat := ceilDiv bytes 1048576

/-! ## Point, checker and hash stores (R180, R192, R400) -/

/-- The context's stores are allocated: from FRAME_OPEN until it is IDLE again. -/
def storeHeld (c : Ctx) : Bool := c.stores

/-- Point-store bytes of a context on each assigned die. -/
def ptStoreOf (c : Ctx) : Nat := 2 * ceilDiv c.pointCap (maskCount c.dieMask) * 32

def ptStoreUsed (s : State) (d : Nat) : Nat :=
  ((s.ctxs.filter (fun c => storeHeld c && bitOf c.dieMask d)).map ptStoreOf).sum

def chkStoreUsed (s : State) : Nat := ((s.ctxs.filter storeHeld).map (fun c => 2 * c.pointCap * 32)).sum

/-- Bytes of the package area (R107), with checker region of `ckMib` MiB. -/
def hubBytes (s : State) : Nat := (((dieOf s 0).mmc).map (fun c => if c.cap = 0 then 0 else 2 ^ c.cap * 1073741824)).sum

def pkgUsed (s : State) : Nat := (s.pkgs.map (·.bytes)).sum

def pkgArea (s : State) (ckMib : Nat) : Nat := hubBytes s - ckMib * 1048576 - 134217728

/-- A frame whose work goes on. -/
def frameLive (f : Frame) : Bool := f.phase = .pending || f.phase = .accepted

def frameOn (s : State) (d : Nat) (f : Frame) : Bool :=
  match ctxOf s f.ctx with
  | some c => bitOf c.dieMask d
  | none => false

/-- Points of a frame that die position e deskews (R179). -/
def dskShare (n k e : Nat) : Nat := (n + k - 1 - e) / k

/-- Position of a die among the assigned dies. -/
def diePos (mask d : Nat) : Nat := ((maskDies mask).takeWhile (· != d)).length

/-- Deskew of a frame is in progress on a die. -/
def dskActive (s : State) (d : Nat) (f : Frame) : Bool :=
  frameLive f && frameOn s d f &&
    (match ctxOf s f.ctx with
     | some c => decide (mapGet 0 f.dskDone d < dskShare f.pts.length (maskCount c.dieMask) (diePos c.dieMask d))
     | none => false)

def hashUsed (s : State) (d : Nat) : Nat :=
  ((s.frames.filter frameLive).map (fun f => (f.cells.filter (fun c => c.die == d)).length)).sum

/-- Merge-area entries in use on a die: the elements of partitions waiting to be merged (R270). A row's running merged value takes
none: the spec does not place it (log entry 73, DESIGN CHOICE). -/
def mergeUsed (s : State) (d : Nat) : Nat :=
  (s.frames.map (fun f => ((f.run.parts.filter (fun p => p.die == d)).map (fun p => p.vals.length)).sum)).sum

/-! ## Map-table region (R367, R368, R394) -/

/-- Bytes of a row by its class. -/
def rowBytes (w cls : Nat) : Nat :=
  if cls = 0 then 2 * w else if cls = 1 then w else if cls = 2 then 17 * ceilDiv w 32 else 0

/-- Home die of a row (R368). -/
def homeDie (shards mask r : Nat) : Nat := (maskDies mask).getD (r % (max 1 shards)) 0

/-- Bytes of row r in the region of a die. -/
def rowInRegion (w shards mask : Nat) (small : Bool) (d r cls : Nat) : Nat :=
  if small then (if bitOf mask d then rowBytes w cls else 0)
  else if cls = 0 then 0
  else if homeDie shards mask r = d then rowBytes w cls else 0

/-- Bytes of row r in the hot cache of a die. -/
def rowInHot (w mask : Nat) (small : Bool) (d cls : Nat) : Nat :=
  if !small && cls = 0 && bitOf mask d then 2 * w else 0

/-- Rows of `a` that differ from the row of the same number in `b`. -/
def changedRows (a b : List MapRow) : List (Nat × MapRow) :=
  ((enumFrom 0 a).zip (b.map some ++ List.replicate (a.length - b.length) none)).filterMap
    (fun p => if p.2 = some p.1.2 then none else some p.1)

/-- Every row copy a table holds: its rows, and those that an older epoch, a flip or a replacement adds. -/
def rowCopies (t : MapTable) : List (Nat × MapRow) :=
  enumFrom 0 t.rows ++
    (match t.oldRows with | some o => changedRows o.2 t.rows | none => []) ++
    (match t.flip with | some f => changedRows f.rows t.rows | none => [])

def tableRegion (t : MapTable) (d : Nat) : Nat :=
  ((rowCopies t).map (fun r => rowInRegion t.width t.shards t.dies t.small d r.1 r.2.cls)).sum +
    (match t.load with
     | some l => ((enumFrom 0 l.placed).map (fun r => rowInRegion l.width l.shards l.dies l.small d r.1 r.2.cls)).sum
     | none => 0)

def tableHot (t : MapTable) (d : Nat) : Nat :=
  ((rowCopies t).map (fun r => rowInHot t.width t.dies t.small d r.2.cls)).sum +
    (match t.load with
     | some l => ((enumFrom 0 l.placed).map (fun r => rowInHot l.width l.dies l.small d r.2.cls)).sum
     | none => 0)

def regionUsed (s : State) (d : Nat) : Nat := (s.tables.map (fun t => tableRegion t d)).sum

def hotUsed (s : State) (d : Nat) : Nat := (s.tables.map (fun t => tableHot t d)).sum

def tableOf (s : State) (t : Nat) : Option MapTable := s.tables.find? (fun x => x.id == t)

/-- Combining-buffer bytes of gradients on a die: FP32 elements at the row's home die, or the lowest die of a small
table (R386). -/
def gradBytes (s : State) (d : Nat) (g : Grad) : Nat :=
  match tableOf s g.table with
  | some t =>
    let home := if t.small then (maskDies t.dies).headD 0 else homeDie t.shards t.dies g.row
    if home = d then 4 * g.vals.length else 0
  | none => 0

def combineUsed (s : State) (d : Nat) : Nat :=
  (s.frames.map (fun f => (f.grads.map (gradBytes s d)).sum)).sum +
    (s.tables.map (fun t => (t.upd.map (fun u => (u.grads.map (gradBytes s d)).sum)).sum)).sum

/-! ## Stop outputs (R418, R420, R422) -/

/-- Forced-stop sources other than not SERVING, as bits 3 to 1 of VRD_FORCE_SRC. -/
def forceSrc (s : State) : Nat :=
  8 * b2n (s.sec.debug != 0) + 4 * b2n s.bmp.forced + 2 * b2n (s.zck.outA.dead || s.zck.outB.dead)

/-- A forced stop is active (R422). -/
def forcedStop (s : State) : Bool := forceSrc s != 0

/-- A stop member (R418). -/
def stopMember (s : State) (c : Ctx) : Bool := c.guaranteed && cfgFld s rVrdCtxCfg c.id 21 21 == 1

def stopMembers (s : State) : List Ctx := s.ctxs.filter (stopMember s)

/-- A member is clear now, by the verdict it sent last (R418). -/
def memberClear (s : State) (c : Ctx) : Bool :=
  (c.st == 2 || c.st == 3 || c.st == 4) &&
    (match c.sentAt with
     | some t => decide (s.raw ≤ t + (c.period + c.deadline) * 1000)
     | none => false) &&
    c.sentClear && !forcedStop s

/-! ## Firewall descriptors (R448, R450) -/

/-- Domains of the contexts assigned to a die (of all contexts at the hub) that satisfy a condition, as a mask. -/
def domMask (s : State) (d : Nat) (p : Ctx → Bool) : Nat :=
  maskOf 16 (fun m => s.ctxs.any (fun c => c.domain == m && (d == 0 || bitOf c.dieMask d) && p c))

def usesTableOn (s : State) (d : Nat) (upd : Bool) (c : Ctx) : Bool :=
  let p := declOf s c.pkg
  p.ops.any (fun o => (opCode o == (if upd then cMapUpdate else cMapLookup)) &&
    (lookupTables (lookupOf p o)).any (fun t =>
      match tableOf s t.1 with
      | some x => bitOf x.dies d
      | none => false))

def tablesHeld (s : State) (d : Nat) : Bool := s.tables.any (fun t => t.st != 0 && bitOf t.dies d)

/-- Lines of the hub's aperture from the first to the last result window of a context (R87). -/
def windowSpan (s : State) : List (Nat × Nat) :=
  match s.ctxs.filter (fun c => c.chan == 0 && c.pages != 0) with
  | [] => []
  | c :: l =>
    let lo := l.foldl (fun a x => min a x.firstPage) c.firstPage
    let hi := l.foldl (fun a x => max a (x.firstPage + x.pages)) (c.firstPage + c.pages)
    [(pageOff lo / 64, (hi - lo) * 64)]

/-- A part of a zone that a use of the hub takes, whose size is not the spec's (log entry 54, DESIGN CHOICE). -/
def zonePart (z : Nat × Nat) (n : Nat) : List (Nat × Nat) := if z.1 < z.2 then [(z.1, n % (z.2 - z.1) + 1)] else []

/-- What a best-effort frame of a domain takes while it runs on a die (R132). -/
def tailSpan (s : State) (d t grp : Nat) : List (Nat × Nat) :=
  match (dieOf s d).beRun with
  | some k =>
    if (ctxOf s k.1).any (fun c => domGrp c.domain == grp) && t != 9 && t != 8 && (zoneTail s d t grp).2 != 0 then
      [zoneTail s d t grp]
    else []
  | none => []

/-- Extents of a use at a target of a die, in the target's lines (R447, R450): domain 1 its checker SRAM, checker stores and
result windows at the hub; domain 2 at the hub's firmware memory and main memory; a context's domain its working space, merge
area, hash partition and point stores on the context's dies. -/
def useSpans (s : State) (d t grp : Nat) : List (Nat × Nat) :=
  if d = 0 then
    (if grp = 1 then
      (if t = 0 then windowSpan s
       else if t = 2 then [(0, lineCount s 0 2)]
       else if t = 9 then extents s 0 9 1 else [])
     else if grp = 4 ∧ (t = 1 ∨ t = 9) then zonePart (zone s 0 t 4) (Config.extentLines t)
     else [])
  else if grp < 12 then []
  else if t ≤ 4 then
    (spanJoin (spanSort (tailSpan s d 0 grp ++ extents s d 0 grp))).map (fun x => (x.1 / 5, x.2 / 5))
  else spanJoin (spanSort (tailSpan s d t grp ++ extents s d t grp))

/-- First descriptor of the use of descriptor k. -/
def fwGrp (k : Nat) : Nat := if k ≤ 3 then 1 else if k ≤ 7 then 4 else if k ≤ 11 then k else k - k % 4

/-- Lines that descriptor k other than the first covers: first line and number, none while it is disabled (R450). -/
def fwSpan (s : State) (d t k : Nat) : Option (Nat × Nat) :=
  let whole := fun (z : Nat × Nat) => if z.1 < z.2 then some (z.1, z.2 - z.1) else none
  if k = 8 then (if d ≠ 0 ∧ t ≤ 4 ∧ residentPkgs s d ≠ [] then whole (0, ceilDiv (poolLines s) 5) else none)
  else if k = 9 then
    (if d ≠ 0 ∧ tablesHeld s d = true then
      (if t = 8 then whole (0, lineCount s d 8) else if t = 9 then whole (zone s d 9 9) else none)
     else none)
  else if k = 10 then (if d ≠ 0 ∧ t = 9 ∧ tablesHeld s d = true then whole (zone s d 9 10) else none)
  else if k = 11 then (if d = 0 ∧ t = 9 ∧ s.pkgs ≠ [] then whole (zone s 0 9 11) else none)
  else (useSpans s d t (fwGrp k))[k - fwGrp k]?

/-- A descriptor's enable, read mask and write mask; a disabled one reads 0 (R450). -/
def fwPerm (s : State) (d t k : Nat) : Bool × Nat × Nat :=
  if k = 0 then (true, 1, 1)
  else if (fwSpan s d t k).isNone then (false, 0, 0)
  else if k ≤ 3 then (true, 2, 2)
  else if k ≤ 7 then (true, 4, 4)
  else if k = 8 then (true, 1 + domMask s d (fun c => (residentPkgs s d).contains c.pkg), 1)
  else if k = 9 then (true, 1 + domMask s 0 (usesTableOn s d false), 1)
  else if k = 10 then (true, 1 + domMask s 0 (usesTableOn s d false), 1 + domMask s 0 (usesTableOn s d true))
  else if k = 11 then (true, 1, 1)
  else (true, 2 + 2 ^ ((k - 12) / 4 + 3), 2 ^ ((k - 12) / 4 + 3))

/-- First and last line a descriptor covers; a disabled one reads 0. -/
def fwRange (s : State) (d t k : Nat) : Nat × Nat :=
  if k = 0 then (0, lineCount s d t - 1)
  else match fwSpan s d t k with
    | some x => (x.1, x.1 + x.2 - 1)
    | none => (0, 0)

/-! ## Aging projection (R484) -/

/-- The latest five years of a die. -/
def projYears (a : Aging) : List YearRec := a.years.drop (a.years.length - 5)

/-- The projected index y years beyond the latest record: a least-squares line through the medians, exact, rounded
down and clamped. -/
def projIndex (a : Aging) (y : Nat) : Nat :=
  let l := projYears a
  let n : Int := l.length
  let sx : Int := (l.map (fun r => (r.year : Int))).sum
  let sy : Int := (l.map (fun r => (r.median : Int))).sum
  let sxx : Int := (l.map (fun r => (r.year : Int) * r.year)).sum
  let sxy : Int := (l.map (fun r => (r.year : Int) * r.median)).sum
  let den := n * sxx - sx * sx
  let last : Int := ((l.getLast?.map (·.year)).getD 0 : Nat)
  let x := last + y
  let v := (sy * den + (n * sxy - sx * sy) * (n * x - sx)) / (n * den)
  (max 0 (min 10000 v)).toNat

end Sys2Proof.Machine
end

