-- ==== Sys2Proof/Machine/RegRead.lean ====
section
/-!
DEFINITION. Reading a register (R89, R94): its index range, where it is (R90), and its active value, the fields the
device sets included.
Conventions: log entry 42 (DEDUCED).
-/
namespace Sys2Proof.Machine

/-! ## Index ranges (R94) -/

def ixDie (s : State) (d : Nat) : Bool := isDie s d

def ixHubDie (s : State) (d : Nat) : Bool := d ≤ nDies s

/-- Links of a die (R558). -/
def linkExists (s : State) (d l : Nat) : Bool :=
  if d = 0 then l < nDies s else isDie s d && (l < (if s.variant = 2 then 1 else 3))

/-- SRAM targets of R445. -/
def sramTarget (hub : Bool) (t : Nat) : Bool := if hub then t ≤ 4 else t ≤ 8 || t = 10

def chanOfDie (s : State) (d c : Nat) : Bool := if d = 0 then c < 2 else isDie s d && c < 4

def regsByDie : List Nat :=
  [rDcuCapacity, rDcuPenState, rDcuPaceStatus, rDcuLeaveBudget, rDcuLeaveStatus, rDcuTherm, rDcuStStatus, rAdmStatus,
   rDskCfg, rDskStatus, rVhuStatus, rCsuStatus, rLftStatus, rMtuStatus]

/-- Registers of context × 8 + n. -/
def regsByCtx : List Nat :=
  [rDcuArithCnt, rDcuSparseCnt, rDcuOpCnt, rDskCtxCnt, rVhuCtxCnt, rCsuCtxCnt, rRbbCtxCnt, rMtuCtxCnt, rBsuCtxCnt,
   rSelCtxCnt, rZckCtxCnt, rVrdCtxCnt]

/-- An index lies within its register's range (R94). -/
def indexOk (s : State) (reg i : Nat) : Bool :=
  if regsByDie.contains reg then ixDie s i
  else if regsByCtx.contains reg then i < 32768
  else if reg = rDcuStallCnt then i / 8 < 40 * nDies s
  else if reg = rDcuSramCnt then ixDie s (i / 128) && sramTarget false (i / 8 % 16)
  else if reg = rDcuStCnt ∨ reg = rLftCnt then ixDie s (i / 8)
  else if reg = rHptCfg ∨ reg = rMbxCfg then i < 2 && chanExists s i
  else if reg = rAdmPaceUsed ∨ reg = rLflAging then ixHubDie s i
  else if reg = rPdeLaneCfg ∨ reg = rPdeIp4 ∨ reg = rPdeLaneStatus ∨ reg = rVrdDest ∨ reg = rVrdDestIp then i < 16
  else if reg = rPdeLaneCnt then i < 128
  else if reg = rPdeSensorCnt then i < 2048
  else if reg = rDskPoseStatus ∨ reg = rMtuTableStatus ∨ reg = rMtuTableClass then i < 256
  else if reg = rRbbLast ∨ reg = rVrdZoneState then true
  else if reg = rPdkArbOrder then ixDie s (i / 5)
  else if reg = rPdkClusterCnt then ixDie s (i / 40)
  else if reg = rMtuCtxCfg ∨ reg = rMtuSrState ∨ reg = rVrdCtxCfg ∨ reg = rVrdAgeLog then i < 4096
  else if reg = rMmcChStatus then chanOfDie s (i / 4) (i % 4)
  else if reg = rMmcChCnt then chanOfDie s (i / 32) (i / 8 % 4)
  else if reg = rLnkReplayCnt then linkExists s (i / 8) (i % 8)
  else if reg = rMgpSramCnt then i / 8 < 5
  else if reg = rSecFwRange ∨ reg = rSecFwPerm then targetExists s (i / 1024) (i / 64 % 16)
  else if reg = rSecFwStatus then targetExists s (i / 16) (i % 16)
  else if reg = rSecDeviceId then i < 2
  else if reg = rSecTrngCnt then i < 8
  else if reg = rLflProjection then ixHubDie s (i / 8) && 1 ≤ i % 8 && i % 8 ≤ 5
  else i = 0

/-! ## Where a register is (R90) -/

/-- On the hub, on one compute die, or on every compute die. -/
inductive RegPlace where
  | hub
  | die (d : Nat)
  | all
  deriving DecidableEq, Repr

def hubBlocks : List Nat := [0x02, 0x03, 0x04, 0x05, 0x06, 0x10, 0x11, 0x14, 0x16, 0x17]

/-- The compute die that an index names; 0 where it names none. -/
def indexDie (reg i : Nat) : Nat :=
  if regsByDie.contains reg then i
  else if reg = rDcuStallCnt then i / 8 / 40 + 1
  else if reg = rDcuSramCnt then i / 128
  else if reg = rDcuStCnt ∨ reg = rLftCnt ∨ reg = rLnkReplayCnt then i / 8
  else if reg = rPdkArbOrder then i / 5
  else if reg = rPdkClusterCnt then i / 40
  else if reg = rMmcChStatus then i / 4
  else if reg = rMmcChCnt then i / 32
  else if reg = rSecFwRange ∨ reg = rSecFwPerm then i / 1024
  else if reg = rSecFwStatus then i / 16
  else if reg = rDcuStCfg then i
  else 0

/-- The indices under which the copies of a register are kept: DCU_ST_CFG is a register of the DCU block of every compute
die, so each die keeps a copy under its number (R90, R94). -/
def copies (s : State) (reg i : Nat) : List Nat := if reg = rDcuStCfg then computeDies s else [i]

/-- The copy that stands for the register in a read. -/
def copyIdx (reg i : Nat) : Nat := if reg = rDcuStCfg then 1 else i

def regPlace (reg i : Nat) : RegPlace :=
  if hubBlocks.contains (reg / 256) || reg = rDskPoseStatus || reg = rDskCtxCnt then .hub
  else
    let d := indexDie reg i
    if d ≠ 0 then .die d else if reg / 256 = 0x15 then .hub else .all

/-- The block's die for its staged set: the die an index names, 0 otherwise (R94, R96). -/
def blockDie (reg i : Nat) : Nat :=
  match regPlace reg i with
  | .die d => d
  | _ => 0

/-! ## Values the device sets -/

def satN (n v : Nat) : Nat := min v n

def capacityVal (s : State) (d : Nat) : Nat :=
  pensUp s d * 2 ^ 24 + 10 * pensUp s d * 2 ^ 16 + stallsAvail s d * 2 ^ 8 + (dieOf s d).selftest.pen % 4

/-- State code of a view (R30); the data-path view of a FAULTED unit reads FENCED. -/
def viewCode (v : View) : Nat :=
  match v with
  | .off => 0
  | .ready => 1
  | .test => 2
  | .fenced => 3
  | .faulted => 4

def penStateVal (s : State) (d : Nat) : Nat :=
  ((enumFrom 0 (dieOf s d).pens).map (fun p =>
    (if pensLive s then viewCode p.2.mgmt * 16 + min 3 (viewCode p.2.data) else 0) * 2 ^ (8 * p.1))).sum

/-- DCU_PACE_LEVEL; 0, its reset value, until start-up has ended. -/
def paceLevelCode (s : State) : Nat :=
  if partOn s = false then 0 else if s.pwr.paceTo.isSome then 3 else s.pwr.level

def paceStatusVal (s : State) (d : Nat) : Nat :=
  paceMeas s d * 2 ^ 48 + agedFloor s d * 2 ^ 32 + paceWorst s d * 2 ^ 24 + paceLevelCode s * 2 ^ 16 +
    satN 0xFFFF (dieOf s d).belowCnt

def leaveStatusVal (s : State) (d : Nat) : Nat :=
  let l := leaveLevel s
  (if partOn s then baseLeave s d l else 0) * 2 ^ 44 + leaveRes s d l * 2 ^ 24 + unresLeave s d l * 2 ^ 4 + b2n (dieOf s d).therm.alarmed

def thermVal (s : State) (d : Nat) : Nat := (dieOf s d).therm.now * 256 + (dieOf s d).therm.peak

def stStatusVal (s : State) (d : Nat) : Nat :=
  let t := (dieOf s d).selftest
  t.done * 2 ^ 60 + t.slices * 2 ^ 54 + b2n t.degraded * 2 ^ 53 +
    satN 0xFFFF ((s.raw - t.rotStart) / 1000000) * 2 ^ 16 + satN 0xFFFF t.rotLast

def admStatusVal (s : State) (d : Nat) : Nat :=
  shareRes s d * 2 ^ 48 + 32 * stallsAvail s d * 2 ^ 32 + stageRes s d * 2 ^ 23 + hashRes s d

def laneOf (s : State) (l : Nat) : Lane := s.lanes.getD l Lane.reset

def laneStatusVal (s : State) (l : Nat) : Nat :=
  b2n (laneOf s l).up * 2 ^ 31 + b2n (laneOf s l).remoteFault * 2 ^ 30

/-- TMU_PTP_STATE: 0 while the source is the host. -/
def ptpState (s : State) : Nat := if cfgFld s rTmuCfg 0 31 31 = 1 then s.tmu.servo else 0

/-- An integer saturated to w bits, two's complement. -/
def satSigned (w : Nat) (i : Int) : Nat :=
  unsigned w (max (-(2 ^ (w - 1) : Int)) (min ((2 : Int) ^ (w - 1) - 1) i))

def rateStatusVal (s : State) : Nat :=
  unsigned 32 s.tmu.rate * 2 ^ 32 + ptpState s * 2 ^ 28 + satSigned 28 s.tmu.est

def poseTab (s : State) (n : Nat) : PoseTab := (mapFind s.poses n).getD ⟨0, []⟩

def poseStatusVal (s : State) (n : Nat) : Nat :=
  let t := poseTab s n
  t.mode * 2 ^ 62 + t.samples.length * 2 ^ 57 +
    (if t.mode = 2 then unsigned 32 ((t.samples.getLast?.map (·.time)).getD 0) else 0)

def vhuStatusVal (s : State) (d : Nat) : Nat := hashUsed s d * 2 ^ 32 + beHeld s d

def csuStatusVal (s : State) (d : Nat) : Nat :=
  (s.frames.filter (fun f => frameLive f && f.csuStarted && !f.ordered && frameOn s d f)).length * 2 ^ 48 +
    (dieOf s d).csuOwned

def lftStatusVal (s : State) (d : Nat) : Nat := mergeUsed s d * 2 ^ 47 + (dieOf s d).mergePeak * 2 ^ 30

/-- Key of a paddock bank's arbiter. -/
def bankKey (d cluster bank : Nat) : Nat := (d * 5 + cluster) * 64 + bank

/-- Fields of 4 bits as a list and back (R253). -/
def rankList (v : Nat) : List Nat := (List.range 13).map (fun r => bitsOf v (4 * r + 3) (4 * r))

def rankVal (l : List Nat) : Nat := ((enumFrom 0 l).map (fun p => p.2 * 2 ^ (4 * p.1))).sum

/-- The rank order in force at bank port 0 (R253). -/
def arbOrderVal (s : State) (i : Nat) : Nat :=
  match mapFind s.arbs (i * 64) with
  | some a => rankVal a.order
  | none => cfgGet s rPdkArbOrder i

def tableStatusVal (s : State) (n : Nat) : Nat :=
  match tableOf s n with
  | some t => t.st * 2 ^ 61 + t.width * 2 ^ 52 + t.shards * 2 ^ 49 + t.dies * 2 ^ 41 + b2n t.small * 2 ^ 40 +
      t.epoch % 65536 * 2 ^ 24 + t.rows.length
  | none => 0

def tableClassVal (s : State) (n : Nat) : Nat :=
  match tableOf s n with
  | some t =>
    let c := fun k => (t.rows.filter (fun r => r.cls == k)).length
    c 0 * 2 ^ 46 + c 1 * 2 ^ 23 + c 3
  | none => 0

def mtuStatusVal (s : State) (d : Nat) : Nat :=
  mib (regionUsed s d) * 2 ^ 52 + mib (combineUsed s d) * 2 ^ 44 + ceilDiv (hotUsed s d) 1024 * 2 ^ 32

/-- Backlogs of the checker (R404). -/
def gBacklog (s : State) : Nat := s.zck.gAdm - s.zck.gTaken
def bBacklog (s : State) : Nat := s.zck.bAdm - s.zck.bTaken

/-- Verdict-unit heartbeats arrive at the checker (R420). -/
def vrdAlive (s : State) : Bool := s.zck.outB.heard && within 1000000 s.zck.outB.hb s.raw

def zckStatusVal (s : State) : Nat :=
  satN 0xFFFFFF (gBacklog s) * 2 ^ 40 + satN 0xFFFFFF (bBacklog s) * 2 ^ 16 + mib (chkStoreUsed s) * 2 ^ 4 +
    b2n (vrdAlive s)

/-- VRD_STOP_STATUS; the forced-stop sources read 0 until start-up ends (R431). -/
def stopStatusVal (s : State) : Nat :=
  b2n s.zck.outA.toggled * 2 ^ 31 + b2n s.zck.outB.toggled * 2 ^ 30 + (if partOn s then forceSrc s + b2n (!serving s) else 0) * 2 ^ 26 +
    (stopMembers s).length * 2 ^ 13 + ((stopMembers s).filter (fun c => !memberClear s c)).length

def zoneStateVal (s : State) (i : Nat) : Nat :=
  match (ctxOf s (i / 64)).bind (fun c => c.zst[i % 64]?) with
  | some z => z.hist * 2 ^ 16 + b2n z.latched * 128 + b2n z.combined * 64 + b2n z.checker * 32 + b2n z.ml * 16
  | none => 0

def ageLogVal (s : State) (x : Nat) : Nat := ((ctxOf s x).map (·.ageLog)).getD 0

def mmcOf (s : State) (d c : Nat) : MemChan := (dieOf s d).mmc.getD c MemChan.reset

def mmcStatusVal (s : State) (d c : Nat) : Nat :=
  let m := mmcOf s d c
  m.cap * 2 ^ 62 + b2n m.trained * 2 ^ 61 + b2n m.failed * 2 ^ 60 + m.patrol / 256

def pwrStatusVal (s : State) : Nat :=
  s.pwr.st * 2 ^ 29 + b2n s.pwr.changing * 2 ^ 28 + s.pwr.target * 2 ^ 25 + maskOf 8 (dieOff s) * 2 ^ 8

def bootStatusVal (s : State) : Nat :=
  s.boot.step * 2 ^ 28 + s.boot.fault * 2 ^ 24 + s.boot.slot * 2 ^ 23 + b2n s.boot.fellBack * 2 ^ 22 +
    s.boot.cause * 2 ^ 8 + s.boot.diesUp

def fwRangeVal (s : State) (i : Nat) : Nat :=
  let r := fwRange s (i / 1024) (i / 64 % 16) (i % 64)
  r.2 % 2 ^ 32 * 2 ^ 32 + r.1 % 2 ^ 32

def fwPermVal (s : State) (i : Nat) : Nat :=
  let p := fwPerm s (i / 1024) (i / 64 % 16) (i % 64)
  p.2.1 * 2 ^ 48 + p.2.2 * 2 ^ 32 + b2n p.1 * 2 ^ 31

def fwStatusVal (s : State) (i : Nat) : Nat :=
  match mapFind s.fwStat i with
  | some r => r.domain * 2 ^ 60 + b2n r.write * 2 ^ 59 + r.line % 2 ^ 29 * 2 ^ 30 + satN 0x3FFFFFFF r.count
  | none => 0

/-- Seconds left of the unlock, a part of a second counted as one. -/
def unlockLeft (s : State) : Nat :=
  match s.sec.until_ with
  | some t => ceilDiv (t - s.raw) 1000000000
  | none => 0

def secStateVal (s : State) : Nat :=
  lifecycle s.nv * 2 ^ 62 + s.sec.debug * 2 ^ 60 + s.nv.ownerGen * 2 ^ 54 + s.nv.svn * 2 ^ 47 +
    maskOf 4 (fun k => s.nv.revoked.contains k) * 2 ^ 43 + b2n s.sec.chal.isSome * 2 ^ 42 +
    b2n s.sec.keyReady * 2 ^ 41 + s.sec.trng * 2 ^ 39 + unlockLeft s * 2 ^ 22

/-- The device public key (R500), none before its derivation. -/
def devKey (s : State) : Option (List Byte) :=
  if s.sec.keyReady then s.nv.seed.map deviceKey else none

/-- The device identifier (R490); zeros without a key. -/
def deviceId (s : State) : List Byte :=
  match devKey s with
  | some k => shake256 k 16
  | none => leBytes 16 0

def lflStatusVal (s : State) : Nat :=
  (s.life.next - 1) * 2 ^ 32 + ((s.life.recs.head?.map (·.seq)).getD 0)

/-- LFL_AGING: 0 until start-up loads the log (R483, R487). -/
def lflAgingVal (s : State) (d : Nat) : Nat :=
  let a := (dieOf s d).aging
  if !partOn s then 0
  else agingIndex a * 2 ^ 48 + agingFactor a * 2 ^ 32 + min 16 a.days.length * 2 ^ 24 + satN 255 a.years.length * 2 ^ 16

def projVal (s : State) (i : Nat) : Nat :=
  let a := (dieOf s (i / 8)).aging
  if a.years.length < 2 then 0xFFFFFFFF
  else projIndex a (i % 8) * 2 ^ 16 + factorOf (projIndex a (i % 8))

/-- The registers whose value, or the RO part of it, is counted. -/
def isCounter (reg : Nat) : Bool :=
  regsByCtx.contains reg ||
    [rDcuStallCnt, rDcuSramCnt, rDcuStCnt, rPdeLaneCnt, rPdeSensorCnt, rRbbLast, rPdkClusterCnt, rLftCnt, rMmcChCnt,
     rLnkReplayCnt, rMgpSramCnt, rSecTrngCnt].contains reg

/-- The part of a register's value that the device sets. -/
def roValue (s : State) (reg i : Nat) : Nat :=
  if isCounter reg then cntGet s reg i
  else if reg = rDcuCapacity then capacityVal s i
  else if reg = rDcuPenState then penStateVal s i
  else if reg = rDcuPaceStatus then paceStatusVal s i
  else if reg = rDcuLeaveStatus then leaveStatusVal s i
  else if reg = rDcuTherm then thermVal s i
  else if reg = rDcuStStatus then stStatusVal s i
  else if reg = rAdmStatus then admStatusVal s i
  else if reg = rAdmPaceUsed then (dieOf s i).paceUsed * 2 ^ 16
  else if reg = rAdmChkStatus then sat32 (capSum s)
  else if reg = rPdeLaneStatus then laneStatusVal s i
  else if reg = rTmuNow then now s
  else if reg = rTmuOffset then unsigned 64 s.tmu.offset
  else if reg = rTmuRateStatus then rateStatusVal s
  else if reg = rDskStatus then
    mib (ptStoreUsed s i) * 2 ^ 16 + (s.frames.filter (dskActive s i)).length
  else if reg = rDskPoseStatus then poseStatusVal s i
  else if reg = rVhuStatus then vhuStatusVal s i
  else if reg = rCsuStatus then csuStatusVal s i
  else if reg = rLftStatus then lftStatusVal s i
  else if reg = rMtuTableStatus then tableStatusVal s i
  else if reg = rMtuTableClass then tableClassVal s i
  else if reg = rMtuStatus then mtuStatusVal s i
  else if reg = rZckStatus then zckStatusVal s
  else if reg = rVrdStopStatus then stopStatusVal s
  else if reg = rVrdZoneState then zoneStateVal s i
  else if reg = rVrdAgeLog then ageLogVal s i
  else if reg = rMmcChStatus then mmcStatusVal s (i / 4) (i % 4)
  else if reg = rMgpPaceStatus then paceStatusVal s 0
  else if reg = rMgpTherm then thermVal s 0
  else if reg = rMgpPwrStatus then pwrStatusVal s
  else if reg = rMgpBootStatus then bootStatusVal s
  else if reg = rSecFwRange then fwRangeVal s i
  else if reg = rSecFwPerm then fwPermVal s i
  else if reg = rSecFwStatus then fwStatusVal s i
  else if reg = rSecState then secStateVal s
  else if reg = rSecDeviceId then u64 (deviceId s) (8 * i)
  else if reg = rLflStatus then lflStatusVal s
  else if reg = rLflCalendar then b2n s.backup.calValid * 2 ^ 63 + s.backup.cal
  else if reg = rLflAging then lflAgingVal s i
  else if reg = rLflProjection then projVal s i
  else 0

/-- The active value of a register (R89). -/
def regValue (s : State) (reg i : Nat) : Nat :=
  if reg = rPdkArbOrder then arbOrderVal s i
  else
    match regOf reg with
    | none => 0
    | some r => if r.ro = 0 then cfgGet s reg (copyIdx reg i)
        else if r.flds = [] then roValue s reg i
        else roValue s reg i + cfgGet s reg i

/-- A read of a register: DCU_CAP_TEST_PEN is undefined, a free value, while no pen is up (R29). -/
def regRead (s : State) (reg i : Nat) : Nat × State :=
  if reg = rDcuCapacity ∧ pensUp s i = 0 then
    let r := freeNat s
    (regValue s reg i / 4 * 4 + r.1 % 4, r.2)
  else (regValue s reg i, s)

end Sys2Proof.Machine
end

