-- ==== Sys2Proof/Machine/LifeLog.lean ====
section
/-!
DEFINITION. The life log (R478 to R481) and aging (R482 to R484).
Conventions: log entry 27 (DEDUCED), log entry 57 (DESIGN CHOICE), log entry 79 (DESIGN CHOICE), log entry 80
(DEDUCED).
-/
namespace Sys2Proof.Machine

/-! ## The journal (R478, R480) -/

/-- Records a sector holds, and records the region holds. -/
def sectorRecs : Nat := 1024
def regionRecs : Nat := 65536

/-- First and last sequence of the complete and intact checkpoints held, oldest first (R479). -/
def checkpoints (recs : List LifeRec) : List (Nat × Nat) :=
  ((recs.filter (fun r => r.typ == 1 && !r.bad)).map (fun r => (r.seq, r.seq + r.fields.headD 0 - 1))).filter
    (fun c => (recs.filter (fun r => c.1 ≤ r.seq && r.seq ≤ c.2 && r.typ ≤ 6 && !r.bad)).length == c.2 + 1 - c.1)

/-- The next record opens a sector that still holds older records. -/
def opensSector (l : Life) : Bool := (l.next - 1) % sectorRecs == 0 && decide (regionRecs < l.next)

/-- A record's sequence lies in the sector that the next record opens. -/
def inNextSector (l : Life) (seq : Nat) : Bool := decide (seq + regionRecs < l.next + sectorRecs)

/-- The next sector holds a record of one of the two latest complete checkpoints (R480). -/
def sectorKept (l : Life) : Bool :=
  let c := checkpoints l.recs
  opensSector l && (c.drop (c.length - 2)).any (fun x => inNextSector l x.1)

/-- Writes a record, or raises LFL_WRITE_FAIL if its sector may not be erased or the flash fails (R480). -/
def lifeWrite (s : State) (typ die : Nat) (fields : List Nat) (ok : Bool) : State × List Ev :=
  let l := s.life
  if ok = false ∨ sectorKept l = true then (s, [{ code := 0x1681, die := die % 255, loc := 0 }])
  else
    let r : LifeRec := { typ := typ, die := die, calBad := !s.backup.calValid, seq := l.next,
                         cal := if s.backup.calValid then s.backup.cal else 0, fields := fields, bad := false }
    let held := if opensSector l then l.recs.filter (fun r => !inNextSector l r.seq) else l.recs
    ({ s with life := { l with recs := held ++ [r], next := l.next + 1 } }, [])

/-- Writes records in order. -/
def lifeWriteAll (s : State) (ok : Bool) (l : List (Nat × Nat × List Nat)) : State × List Ev :=
  l.foldl (fun a r => let w := lifeWrite a.1 r.1 r.2.1 r.2.2 ok; (w.1, a.2 ++ w.2)) (s, [])

/-- Writes an event record, of types 7 to 10, at most 16 in a second of operation; the excess is counted (R479). The flash
is in the condition that the latest outcome has shown (R480; log entry 79, DESIGN CHOICE). -/
def lifeEvent (s : State) (typ die : Nat) (fields : List Nat) : State × List Ev :=
  let sec := s.life.opNs / 1000000000
  let cnt := if s.life.sec = sec then s.life.secCnt else 0
  if 16 ≤ cnt then ({ s with life := { s.life with dropped := s.life.dropped + 1 } }, [])
  else lifeWrite { s with life := { s.life with sec := sec, secCnt := cnt + 1 } } typ die fields (!s.life.flashBad)

def modTot (s : State) (d : Nat) (f : DieTot → DieTot) : State :=
  { s with life := { s.life with tot := updAt s.life.tot d f } }

/-! ## Checkpoints (R479) -/

def emptyTot : DieTot := ⟨0, 0, 0, 0, 0, 0, 0⟩
def totOf (s : State) (d : Nat) : DieTot := s.life.tot.getD d emptyTot

/-- Dies of the package, the hub first. -/
def allDies (s : State) : List Nat := 0 :: computeDies s

/-- Energy of one watt-hour in mW ns. -/
def whUnit : Nat := 3600000000000000

/-- Type 2: the totals of a die. -/
def totFields (t : DieTot) : List Nat :=
  [t.powered / 1000000000, t.energy / whUnit, t.cycles, t.peak, t.late, t.overs]

/-- Key of a bank in the life log. -/
def bankLogKey (d target bank : Nat) : Nat := (d * 16 + target) * 65536 + bank

/-- What a device reset and the first provisioning leave of the log's counts: the records in the flash, and how the flash stands
(R479, R518; log entries 27 and 79). -/
def lifeKept (l : Life) : Life := { Life.reset with recs := l.recs, next := l.next, flashBad := l.flashBad }

/-- The counts since the device was first provisioned: none in BLANK (R479). -/
def counted (s : State) : Life := if lifecycle s.nv = 0 then Life.reset else s.life

/-- The records of a checkpoint after its header: type, die and payload values. -/
def checkpointBody (s : State) : List (Nat × Nat × List Nat) :=
  let l := counted s
  (allDies s).map (fun d => (2, d, totFields (l.tot.getD d emptyTot))) ++
    l.banks.map (fun b => (3, b.1 / 65536 / 16, [b.1 / 65536 % 16, b.1 % 65536] ++ b.2)) ++
    l.chans.map (fun c => (4, c.1 / 4, [c.1 % 4] ++ c.2)) ++
    (allDies s).flatMap (fun d => (dieOf s d).aging.years.map (fun y => (5, d, [y.year, y.least, y.median, y.days]))) ++
    (allDies s).map (fun d =>
      let a := (dieOf s d).aging
      (6, d, a.days ++ [agingIndex a, agingFactor a]))

/-- Writes a checkpoint. -/
def writeCheckpoint (s : State) (ok : Bool) : State × List Ev :=
  let body := checkpointBody s
  let l := counted s
  let head := (1, 255, [body.length + 1, l.opNs / 1000000000, l.powerOns, l.dropped])
  let w := lifeWriteAll s ok (head :: body)
  ({ w.1 with life := { w.1.life with lastCkpt := s.life.opNs } }, w.2)

/-- The flash shows whether it programs and erases. -/
def noteFlash (s : State) (ok : Bool) : State := { s with life := { s.life with flashBad := !ok } }

/-- LIFELOG_CHECKPOINT: every LFL_CKPT_MIN minutes of operation (R479). -/
def execLifelogCheckpoint (flashOk : Bool) (s : State) : Host.Outcome State Fault Refusal :=
  .next (if partOn s && decide (s.life.lastCkpt + cfgFld s rLflCfg 0 15 0 * 60000000000 ≤ s.life.opNs) then
      let w := writeCheckpoint (noteFlash s flashOk) flashOk
      raise w.1 w.2
    else s)

/-! ## LIFELOG_READ (R481) -/

/-- The 64 bytes of a record (R478). A record whose CRC fails is copied with type 0xFF; its other bytes are free. -/
def lifeBytes (s : State) (r : LifeRec) : List Byte × State :=
  if r.bad then
    let f := freeBytes s 63
    (leBytes 1 0xFF ++ f.1, f.2)
  else
    let b := leBytes 1 r.typ ++ leBytes 1 r.die ++ leBytes 2 (b2n r.calBad) ++ leBytes 4 r.seq ++ leBytes 6 r.cal ++
      padTo 46 (Config.lifePayload r.typ r.fields)
    (b ++ leBytes 4 (crc32 b), s)

def lifeBytesAll (s : State) (l : List LifeRec) : List Byte × State :=
  l.foldl (fun a r => let b := lifeBytes a.2 r; (a.1 ++ b.1, b.2)) ([], s)

/-- Type of a record as it is read. -/
def readType (r : LifeRec) : Nat := if r.bad then 0xFF else r.typ

/-- Body bytes 16 to 27 of a log read: copied, the sequence after the last copied, the oldest held. With no record
copied the spec states no sequence: a free value. -/
def logReadBody (s : State) (last : Option Nat) (n oldest : Nat) : List Byte × State :=
  match last with
  | some q => (leBytes 4 n ++ leBytes 4 (q + 1) ++ leBytes 4 oldest, s)
  | none =>
    let f := freeBytes s 4
    (leBytes 4 n ++ f.1 ++ leBytes 4 oldest, f.2)

def lifelogReadCmd (c : Cmd) (s : State) : State × CmdRes :=
  let first := u32 c.bytes 16
  let page := u16 c.bytes 20
  let count := byteAt c.bytes 22
  let filter := byteAt c.bytes 23
  let ch := c.slot / 8192
  if count = 0 ∨ 32 < count then fail s 0x1601
  else if pagesOk s ch page count = false then fail s pageReservedErr
  else if s.life.next - 1 < first then fail s 0x1601
  else
    let sel := (s.life.recs.filter (fun r => first ≤ r.seq && (filter == 0 || readType r == filter))).take (64 * count)
    let b := lifeBytesAll s sel
    let s1 := apertureWrite b.2 ch (pageOff page) b.1
    let body := logReadBody s1 (sel.getLast?.map (·.seq)) sel.length ((s.life.recs.head?.map (·.seq)).getD 0)
    (body.2, .done 0 body.1)

/-- LIFELOG_READ. -/
def execLifelogRead (slot : Nat) (s : State) : Host.Outcome State Fault Refusal :=
  .next (withCmd 0x0053 slot s lifelogReadCmd)

/-! ## EVENT_LOG_READ (R535, R536) -/

/-- The 32 bytes of an event-log record (R535). -/
def logBytes (r : LogRec) : List Byte :=
  leBytes 2 r.code ++ leBytes 2 r.whr ++ leBytes 4 r.seq ++ leBytes 8 r.time ++ padTo 16 r.detail

def eventLogReadCmd (c : Cmd) (s : State) : State × CmdRes :=
  let first := u32 c.bytes 16
  let page := u16 c.bytes 20
  let count := byteAt c.bytes 22
  let ch := c.slot / 8192
  if count = 0 ∨ 32 < count then fail s 0x1414
  else if pagesOk s ch page count = false then fail s pageReservedErr
  else if s.log.next - 1 < first then fail s 0x1414
  else
    let sel := (s.log.recs.filter (fun r => first ≤ r.seq)).take (128 * count)
    let s1 := apertureWrite s ch (pageOff page) (sel.flatMap logBytes)
    let body := logReadBody s1 (sel.getLast?.map (·.seq)) sel.length ((s.log.recs.head?.map (·.seq)).getD 0)
    (body.2, .done 0 body.1)

/-- EVENT_LOG_READ. -/
def execEventLogRead (slot : Nat) (s : State) : Host.Outcome State Fault Refusal :=
  .next (withCmd 0x0061 slot s eventLogReadCmd)

/-! ## Aging (R482 to R484) -/

/-- Operating time in READY or SERVING that a daily index takes, and a year of operation, in ns. -/
def dayNs : Nat := 86400000000000
def yearNs : Nat := 8760 * 3600000000000

/-- A die's aging with one more daily index. -/
def addDay (a : Aging) (idx : Nat) : Aging :=
  let l := a.days ++ [idx]
  { a with days := l.drop (l.length - 16), unreadable := a.unreadable && decide (l.length < 16) }

/-- AGING_DAILY_INDEX: `newPace` is the pace of the die when new. -/
def execAgingDailyIndex (die newPace : Nat) (s : State) : Host.Outcome State Fault Refusal :=
  .next (if decide (die ≤ nDies s) && newPace != 0 && decide (3 ≤ s.pwr.st) && partOn s &&
      decide (((totOf s die).days + 1) * dayNs ≤ s.life.readyNs) then
      let idx := min 10000 (10000 * paceMeas s die / newPace)
      let s1 := modTot (modDie s die (fun x => { x with aging := addDay x.aging idx })) die
        (fun t => { t with days := t.days + 1 })
      let s2 := { s1 with life := { s1.life with
        yearDays := mapPut s1.life.yearDays die (mapGet [] s1.life.yearDays die ++ [idx]) } }
      if agingFactor (dieOf s2 die).aging < agingFactor (dieOf s die).aging then
        raise s2 ({ code := 0x1682, die := die, loc := 0 } :: capacityEvents s2 die)
      else s2
    else s)

/-- The year record of a die; without a day measured its least and median index are free values. -/
def closeYear (ok : Bool) (a : State × List Ev) (d : Nat) : State × List Ev :=
  let s := a.1
  let l := mapGet [] s.life.yearDays d
  let f := freeNat s
  let g := freeNat f.2
  let s1 := if l = [] then g.2 else s
  let least := if l = [] then f.1 % 10001 else (natSort l).headD 0
  let med := if l = [] then g.1 % 10001 else lowerMedian l
  let y : YearRec := ⟨s.life.years + 1, least, med, l.length⟩
  let w := lifeWrite s1 5 d [y.year, y.least, y.median, y.days] ok
  let s2 := if w.2 = [] then modDie w.1 d (fun x => { x with aging := { x.aging with years := x.aging.years ++ [y] } })
    else w.1
  (s2, a.2 ++ w.2)

/-- AGING_YEAR: after each 8,760 hours of operation (R484). -/
def execAgingYear (flashOk : Bool) (s : State) : Host.Outcome State Fault Refusal :=
  .next (if partOn s && decide ((s.life.years + 1) * yearNs ≤ s.life.opNs) then
      let r := (allDies s).foldl (closeYear flashOk) (noteFlash s flashOk, [])
      raise { r.1 with life := { r.1.life with years := s.life.years + 1, yearDays := [] } } r.2
    else s)

/-! ## The log at start-up (R479, R482, R483) -/

/-- Records of a type and die of a checkpoint. -/
def ckptRecs (recs : List LifeRec) (c : Nat × Nat) (typ : Nat) : List LifeRec :=
  recs.filter (fun r => c.1 ≤ r.seq && r.seq ≤ c.2 && r.typ == typ)

def ckptFields (recs : List LifeRec) (c : Nat × Nat) (typ d : Nat) : List Nat :=
  (((ckptRecs recs c typ).find? (fun r => r.die == d)).map (·.fields)).getD []

/-- A die's totals as a checkpoint holds them. -/
def totFrom (f : List Nat) (days : Nat) : DieTot :=
  ⟨f.getD 0 0 * 1000000000, f.getD 1 0 * whUnit, f.getD 2 0, f.getD 3 0, f.getD 4 0, f.getD 5 0, days⟩

/-- A die's aging as a checkpoint and the year records hold it. A stored factor of 9,000 that is not the one of the stored
median, with fewer than 16 indices, is that of a log that was unreadable before (R483; log entry 80, DEDUCED). -/
def agingFrom (recs : List LifeRec) (c : Nat × Nat) (d : Nat) : Aging :=
  let f := ckptFields recs c 6 d
  let ys := (recs.filter (fun r => r.typ == 5 && r.die == d && !r.bad && decide (c.1 ≤ r.seq))).map
    (fun r => (⟨r.fields.getD 0 0, r.fields.getD 1 0, r.fields.getD 2 0, r.fields.getD 3 0⟩ : YearRec))
  let idx := f.getD (f.length - 2) 0
  ⟨f.take (f.length - 2), ys.eraseDups, decide (f.length < 18) && f.getLast? == some 9000 && factorOf idx != 9000⟩

/-- Loads the totals and the aging from the latest complete checkpoint; with records but none complete, every die's
log is unreadable. The second result says so. -/
def loadLife (s : State) : State × Bool :=
  let recs := s.life.recs
  match (checkpoints recs).getLast? with
  | some c =>
    let h := ckptFields recs c 1 255
    let tot := (List.range 8).map (fun d => totFrom (ckptFields recs c 2 d) 0)
    let banks := (ckptRecs recs c 3).map (fun r => (bankLogKey r.die (r.fields.getD 0 0) (r.fields.getD 1 0), r.fields.drop 2))
    let chans := (ckptRecs recs c 4).map (fun r => (r.die * 4 + r.fields.getD 0 0, r.fields.drop 1))
    let ns := h.getD 1 0 * 1000000000
    let ages := (List.range 8).map (agingFrom recs c)
    let years := (ages.flatMap (fun a => a.years.map (·.year))).foldl max 0
    let life := { s.life with opNs := ns, lastCkpt := ns, years := years, powerOns := h.getD 2 0, dropped := h.getD 3 0, tot := tot,
                              banks := banks, chans := chans }
    let s1 := { s with life := life }
    ((List.range 8).foldl (fun a d => modDie a d (fun x => { x with aging := ages.getD d ⟨[], [], false⟩ })) s1, false)
  | none =>
    let lost := decide (s.life.next ≠ 1)
    ((List.range 8).foldl (fun a d => modDie a d (fun x => { x with aging := ⟨[], [], lost⟩ }))
      { s with life := lifeKept s.life }, lost)

end Sys2Proof.Machine
end

