-- ==== Sys2Proof/Machine/Fences.lean ====
section
/-!
DEFINITION. Fences of pens, stalls and dies with everything they entail: the hand-over of tiles (R251), the self-test
role (R527), lost tables and reservations (R130, R393), the recomputation (R128).
Conventions: log entry 29 (DEDUCED), log entry 32 (DEDUCED).
-/
namespace Sys2Proof.Machine

/-! ## Hand-over of unstarted tiles (R251) -/

/-- Die of a global stall index, and the stall's number on its die (R21). -/
def stallDie (i : Nat) : Nat := i / 40 + 1
def stallLocal (i : Nat) : Nat := i % 40

/-- Global index of a stall of a die. -/
def stallIdx (d i : Nat) : Nat := (d - 1) * 40 + i

/-- A stall, by its global index, takes new tiles. -/
def takesTiles (s : State) (g : Nat) : Bool := stallReady s (stallDie g) (stallLocal g)

/-- Stalls of a die that serve a run and take tiles; every stall of the die that does, if none serves the run. -/
def runStalls (s : State) (r : Run) (d : Nat) : List Nat :=
  let l := ((List.range 40).map (stallIdx d)).filter (takesTiles s)
  let srv := l.filter (fun g => r.stalls.contains g)
  if srv = [] then l else srv

/-- The stall that gets a tile of stall `g`: of the same cluster, else of the lowest-numbered cluster (R251). -/
def heir (l : List Nat) (g : Nat) : Option Nat :=
  match l.find? (fun h => h / 8 == g / 8) with
  | some h => some h
  | none => l.head?

/-- Hands a run's unstarted tiles on a die from stalls that take none to others (R251). -/
def handOverRun (s : State) (d : Nat) (r : Run) : Run :=
  let l := runStalls s r d
  let tiles := r.tiles.map (fun t =>
    if t.die == d && !t.done && !takesTiles s t.stall then
      match heir l t.stall with
      | some h => { t with stall := h }
      | none => t
    else t)
  { r with tiles := tiles, stalls := (r.stalls ++ tiles.map (·.stall)).eraseDups }

def handOver (s : State) (d : Nat) : State :=
  { s with frames := s.frames.map (fun f => { f with run := handOverRun s d f.run }) }

/-! ## The self-test role and rotation (R527, R531) -/

def modSelf (s : State) (d : Nat) (f : SelfTest → SelfTest) : State :=
  modDie s d (fun x => { x with selftest := f x.selftest })

/-- Unfenced pens of a die as a mask. -/
def upMask (s : State) (d : Nat) : Nat := maskOf 4 (penUp s d)

/-- The next unfenced pen after `p`, wrapping, `p` itself last. -/
def nextPen (s : State) (d p : Nat) : Option Nat :=
  ([p + 1, p + 2, p + 3, p].map (· % 4)).find? (penUp s d)

def setPen (s : State) (d p : Nat) (f : UnitSt → UnitSt) : State :=
  modDie s d (fun x => { x with pens := updAt x.pens p f })

/-- Both views of a unit. -/
def UnitSt.both (u : UnitSt) (v : View) : UnitSt := { u with mgmt := v, data := v }

/-- Both views become `b` where the management view is `a`. -/
def UnitSt.swap (a b : View) (u : UnitSt) : UnitSt := if u.mgmt = a then u.both b else u

/-- The role moves to the next unfenced pen, and the partial test is discarded (R527). -/
def moveRole (s : State) (d : Nat) : State :=
  let p := (dieOf s d).selftest.pen
  match nextPen s d p with
  | none => modSelf s d (fun t => { t with slices := 0, running := none, discard := false })
  | some q =>
    let s1 := setPen s d p (UnitSt.swap .test .ready)
    let s2 := setPen s1 d q (UnitSt.swap .ready .test)
    handOver (modSelf s2 d (fun t => { t with pen := q, slices := 0, running := none, discard := false,
                                              deferredMark := false })) d

/-- The role moves; if stalls fenced one by one come to count, or cease to, the capacity is recomputed (R28, R128). -/
def moveRoleEv (s : State) (d : Nat) : State × List Ev :=
  let t := moveRole s d
  (t, if stallsAvail t d = stallsAvail s d then [] else capacityEvents t d)

/-- Ends the rotation once every pen unfenced throughout it has been tested; a DEGRADED die is restored (R527, R531). A die
with no unfenced pen runs no test. -/
def rotationCheck (s : State) (d : Nat) : State × List Ev :=
  let t := (dieOf s d).selftest
  if upMask s d ≠ 0 ∧ t.through &&& t.done = t.through then
    let s1 := cntAdd s rDcuStCnt (d * 8 + 2) 1
    (modSelf s1 d (fun t => { t with done := 0, through := upMask s d, rotStart := s.raw, overdueRaised := false,
                                     degraded := false, rotLast := (s.raw - t.rotStart) / 1000000 }),
      if t.degraded then [{ code := 0x0163, die := d, loc := 0 }] else [])
  else (s, [])

/-- A pen leaves service: it no longer counts for the rotation, and the role leaves it, at the end of a slice in
progress (R527). -/
def penLeaves (s : State) (d p : Nat) : State × List Ev :=
  let t := (dieOf s d).selftest
  let s1 := modSelf s d (fun t => { t with through := t.through &&& (15 ^^^ 2 ^ p) })
  let s2 := if t.pen = p then
      (if t.running.isSome then modSelf s1 d (fun t => { t with discard := true }) else moveRole s1 d)
    else s1
  rotationCheck s2 d

/-! ## Pens and stalls -/

/-- The fence cuts requesters' ports at the die's paddock banks: their requests are dropped and their grants end (R24,
R244). -/
def cutPorts (s : State) (d : Nat) (out : Nat → Bool) : State :=
  { s with arbs := s.arbs.map (fun a => if a.1 / 320 = d then
      (a.1, { a.2 with waiting := a.2.waiting.filter (fun w => !out w.req),
                       owner := if a.2.owner.any out then none else a.2.owner })
    else a) }

/-- A FENCE_CLEAR in progress on the unit that a new fault fences fails (R534): a pen, or its die as a whole. -/
def markClear (s : State) (d : Nat) (pen : Option Nat) : State :=
  match s.pwr.clear with
  | some c => if c.2.1 = d ∧ (pen = none ∨ (c.2.2.1 = 0 ∧ pen = some c.2.2.2.1)) then
      modSelf s d (fun t => { t with clearFault := true }) else s
  | none => s

/-- Fences a pen after a fault found under event `code`: the pen is FAULTED, its stalls are cut off, and what changes
with the capacity follows (R23, R41, R251, R128). -/
def fencePen (s : State) (d p code : Nat) : State × List Ev :=
  let was := stallsAvail s d
  let up := penUp s d p
  let s1 := cutPorts (setPen (markClear s d (some p)) d p (fun u => { u with mgmt := .faulted, data := .fenced })) d
    (fun r => decide (r < 8) && penOf r == p)
  let l := penLeaves s1 d p
  let s2 := handOver l.1 d
  let w := lifeEvent s2 7 d [p, code, 4]
  (w.1, l.2 ++ w.2 ++ (if up || stallsAvail w.1 d != was then capacityEvents w.1 d else []))

/-- A stall of a die still drains a tile that it has completed: its output is used although its pen's gates close (R38,
R251), but not once it is faulted itself, or its pen or its die has no power. -/
def finishes (s : State) (d i : Nat) : Bool :=
  (match (dieOf s d).stalls[i]? with
   | some t => t.drain != 0 && t.view.mgmt != .faulted
   | none => false) &&
    !dieOff s d &&
    (match (dieOf s d).pens[penOf i]? with
     | some u => u.data != .off && !(dieOf s d).cutPens.contains (penOf i)
     | none => false)

/-- The ports of a stall of a die are cut (R24); one that finishes a tile still drains it (log entry 29, DEDUCED: R38 and
R251 let a stall finish what it has started). -/
def portCut (s : State) (d i : Nat) : Bool := gatesClosed s d (penOf i) && !finishes s d i

/-- What a stall loses with its power: everything it holds but its views (R42, R230, R468). -/
def stallPowerLost (t : StallSt) : StallSt := { StallSt.reset with view := t.view }

/-- A stall fenced one by one (R40), with its views as the audit leaves them: its unstarted tiles go to others, and the
capacity is recomputed. -/
def fenceStall (s : State) (d i : Nat) (u : UnitSt) : State × List Ev :=
  let was := stallsAvail s d
  let s1 := modDie s d (fun x => { x with stalls := updAt x.stalls i (fun t => { t with view := { u with mgmt := .fenced } }) })
  let s2 := handOver s1 d
  (s2, if stallsAvail s2 d = was then [] else capacityEvents s2 d)

/-! ## Whole dies (R532, R130, R393) -/

/-- A fence that FENCE_CLEAR cannot clear. -/
def forGood (c : FenceCause) : Bool := c == .isolated || c == .channel

/-- The large tables that lose a die become LOST; a small table loses that die's copy. -/
def loseTables (s : State) (d : Nat) : State × List Ev :=
  let hit := fun (t : MapTable) => (t.st == 2 || t.st == 3) && bitOf t.dies d
  ({ s with tables := s.tables.map (fun t =>
      if hit t then (if t.small then { t with lostCopies := t.lostCopies ||| 2 ^ d } else { t with st := 4 }) else t) },
    (s.tables.filter (fun t => hit t && !t.small)).map
      (fun t => { code := 0x0D82, die := d, loc := t.id, limited := true }))

/-- Die of an arbiter's key (R241): bank ports, memory channels, links and halyard nodes in this order. -/
def arbDie (key : Nat) : Nat :=
  if key < 4096 then key / 320 else if key < 8192 then (key - 4096) / 4 else if key < 12288 then (key - 8192) / 8
  else (key - 12288) / 64

/-- A die's fence cuts every requester's port at its arbiters (R244). -/
def cutDie (s : State) (d : Nat) : State :=
  { s with arbs := s.arbs.map (fun a => if arbDie a.1 = d then (a.1, { a.2 with waiting := [], owner := none }) else a) }

/-- Fences a compute die as a whole. -/
def fenceDie (s : State) (d : Nat) (c : FenceCause) : State × List Ev :=
  if (dieOf s d).fences.contains c || !isDie s d then (markClear s d none, [])
  else
    let was := dieFenced s d
    let s1 := modSelf (cutDie (modDie (markClear s d none) d (fun x => { x with fences := x.fences ++ [c] })) d) d
      (fun t => { t with degraded := false, discard := t.running.isSome })
    let lost := if forGood c then (guarOn s d).map (fun x => ({ code := 0x0481, die := d, loc := x.id } : Ev)) else []
    if was then (s1, lost)
    else
      let t := loseTables s1 d
      (t.1, lost ++ t.2 ++ capacityEvents t.1 d)

/-- A step that may add events. -/
def andThen (a : State × List Ev) (f : State → State × List Ev) : State × List Ev :=
  let b := f a.1
  (b.1, a.2 ++ b.2)

end Sys2Proof.Machine
end

