-- ==== Sys2Proof/Machine/SelfTest.lean ====
section
/-!
DEFINITION. Self-test in service (R527 to R531): safety windows, slices, the rotation's age, and the line test of the
paddocks.
Conventions: log entry 34 (DEDUCED), log entry 56 (DEDUCED).
-/
namespace Sys2Proof.Machine

/-! ## Raw instants of corrected times (R165, R528) -/

/-- The least raw value in [lo, lo + 2^n) whose corrected time has reached `c`; the last one if none has. -/
def rawSearch (s : State) (c : Int) : Nat → Nat → Nat
  | 0, lo => lo
  | n + 1, lo => if c ≤ corrAt s (lo + 2 ^ n - 1) then rawSearch s c n lo else rawSearch s c n (lo + 2 ^ n)

/-- Raw instant, now or later, at which a corrected time is reached. -/
def rawOf (s : State) (c : Nat) : Nat := rawSearch s c 64 s.raw

/-! ## Safety windows (R528) -/

/-- The open interval (a, a + 400 us) shares an instant with the closed interval [lo, hi]; no `hi` means no end yet. -/
def meets (a lo : Nat) (hi : Option Nat) : Bool :=
  decide (lo < a + 400000) && (match hi with | some h => decide (a < h) | none => true)

/-- DCU_ST_GUARD_US of a die's own copy, in ns. -/
def guardNs (s : State) (d : Nat) : Nat := cfgFld s rDcuStCfg d 19 12 * 1000

/-- Windows of the stop-output boundaries. -/
def boundaryMeets (s : State) (a : Nat) : Bool :=
  !(stopMembers s).isEmpty &&
    [a / 500000, a / 500000 + 1].any (fun k =>
      meets a (k * 500000 - 10000) (some (k * 500000 + 10000)))

/-- The window that ends at a raw deadline. -/
def deadlineMeets (s : State) (d a t : Nat) : Bool := meets a (t - guardNs s d) (some t)

/-- Deadlines of the closes that R117 schedules, as far as a slice can meet them. -/
def scheduledMeets (s : State) (d a : Nat) (c : Ctx) (t : Train) : Bool :=
  (List.range (if t.stop then 1 else 3)).any (fun k =>
    deadlineMeets s d a (rawOf s (t.first + (t.n + k) * c.period * 1000) + c.deadline * 1000))

/-- The windows of a guaranteed context's train. -/
def trainMeets (s : State) (d a : Nat) (c : Ctx) : Bool :=
  match c.train with
  | none => false
  | some t =>
    if c.hostPaced then meets a (rawOf s (t.prev + (c.period + c.deadline) * 1000) - guardNs s d) none
    else scheduledMeets s d a c t

/-- A closed frame that is not sealed. -/
def closedFrame (f : Frame) : Bool := f.phase != .opened && f.phase != .sealed

/-- A slice that starts at `a` on a die meets a safety window known now (R528, R529). -/
def sliceBlocked (s : State) (d a : Nat) : Bool :=
  boundaryMeets s a ||
    (guarOn s d).any (fun c =>
      trainMeets s d a c || s.frames.any (fun f => f.ctx == c.id && closedFrame f && deadlineMeets s d a f.deadline))

/-- Raw start of the slice in progress on a die, of the rotation or of a FENCE_CLEAR's test. -/
def sliceAt (t : SelfTest) : Option Nat := if t.running.isSome then t.running else t.clearRun

/-- Marks the slices in progress that a window known only now meets (R529): at every close, opening of a train, change of the
configuration and step of time. -/
def noteWindows (s : State) : State :=
  (computeDies s).foldl (fun a d =>
    match sliceAt (dieOf a d).selftest with
    | some t => if sliceBlocked a d t then modSelf a d (fun x => { x with met := true }) else a
    | none => a) s

/-- The stalls of the role's pen have finished their started tiles: its slice may start (R527). -/
def penReady (s : State) (d : Nat) : Bool :=
  (enumFrom 0 (dieOf s d).stalls).all (fun t => penOf t.1 != (dieOf s d).selftest.pen || t.2.drain == 0)

/-! ## Slices (R527, R529) -/

/-- A fence clear's pen test runs on the die; the rotation is paused (R534). -/
def clearRuns (s : State) (d : Nat) : Bool :=
  match s.pwr.clear with
  | some c => c.2.1 == d
  | none => false

/-- The die runs its rotation. -/
def selfTestRuns (s : State) (d : Nat) : Bool :=
  isDie s d && partOn s && decide (3 ≤ s.pwr.st) && penUp s d (dieOf s d).selftest.pen && !clearRuns s d

/-- The die runs the pen test of a FENCE_CLEAR, with slices of it left (R534). -/
def clearTests (s : State) (d : Nat) : Bool :=
  isDie s d && partOn s && decide (3 ≤ s.pwr.st) && decide ((dieOf s d).selftest.clearSlices < 10) &&
    (match s.pwr.clear with
     | some c => c.2.1 == d && c.2.2.1 == 0
     | none => false)

/-- SELFTEST_SLICE_START: a slice of the rotation or of a FENCE_CLEAR's pen test starts, or is deferred for a window and counted
once (R529). A slice in progress when the clear begins ends first. -/
def execSelftestSliceStart (die : Nat) (s : State) : Host.Outcome State Fault Refusal :=
  .next (
    let t := (dieOf s die).selftest
    if (!selfTestRuns s die && !clearTests s die) || t.running.isSome || t.clearRun.isSome ||
        (!clearTests s die && !penReady s die) then s
    else if sliceBlocked s die s.raw then
      (if t.deferredMark then s
       else cntAdd (modSelf s die (fun t => { t with deferredMark := true })) rDcuStCnt (die * 8 + 1) 1)
    else if clearTests s die then modSelf s die (fun t => { t with clearRun := some s.raw, deferredMark := false, met := false })
    else modSelf s die (fun t => { t with running := some s.raw, deferredMark := false, met := false }))

/-- The test of the role's pen ends with a failed slice: the pen is FAULTED and fenced (R524, R532). -/
def sliceFails (s : State) (d : Nat) : State × List Ev :=
  let p := (dieOf s d).selftest.pen
  let f := fencePen (cntAdd s rDcuStCnt (d * 8 + 4) 1) d p 0x0160
  (f.1, { code := 0x0160, die := d, loc := p } :: f.2)

/-- A slice passes; the tenth completes the pen's test, and the role moves (R527). -/
def slicePasses (s : State) (d : Nat) : State × List Ev :=
  let t := (dieOf s d).selftest
  if t.slices + 1 < 10 then (modSelf s d (fun t => { t with slices := t.slices + 1 }), [])
  else
    let s1 := modSelf s d (fun x => { x with slices := 10, done := x.done ||| 2 ^ t.pen })
    let r := rotationCheck s1 d
    let m := moveRoleEv r.1 d
    (m.1, r.2 ++ m.2)

/-- The counters of a slice that ends: a window that is known now and was not when it started is a later one (R529). -/
def countSlice (s : State) (d t0 : Nat) : State :=
  cntAdd (cntAdd s rDcuStCnt (d * 8) 1) rDcuStCnt (d * 8 + 7) (b2n ((dieOf s d).selftest.met || sliceBlocked s d t0))

/-- SELFTEST_SLICE_END: 400 us after the slice's start. -/
def execSelftestSliceEnd (die : Nat) (pass : Bool) (s : State) : Host.Outcome State Fault Refusal :=
  .next (
    match (dieOf s die).selftest.running, (dieOf s die).selftest.clearRun with
    | none, none => s
    | none, some t0 =>
      if t0 + 400000 ≤ s.raw then
        modSelf (countSlice s die t0) die (fun t => { t with
          clearRun := none, met := false, clearSlices := t.clearSlices + 1, clearFailed := t.clearFailed || !pass })
      else s
    | some t0, _ =>
      if t0 + 400000 ≤ s.raw then
        let t := (dieOf s die).selftest
        let s2 := countSlice s die t0
        let s3 := modSelf s2 die (fun t => { t with running := none, met := false })
        let r := if t.discard then moveRoleEv s3 die else if pass then slicePasses s3 die else sliceFails s3 die
        raise r.1 r.2
      else s)

/-! ## The rotation's age (R531) -/

/-- ROTATION_AGE_EXPIRY: a rotation passes one, two or four times DCU_ST_INTERVAL_MS. -/
def execRotationAgeExpiry (die : Nat) (s : State) : Host.Outcome State Fault Refusal :=
  .next (
    let t := (dieOf s die).selftest
    let lim := cfgFld s rDcuStCfg die 31 20 * 1000000
    let age := s.raw - t.rotStart
    if isDie s die = false ∨ partOn s = false ∨ s.pwr.st < 3 ∨ pensUp s die = 0 ∨ age ≤ lim then s
    else
      let overs := !t.overdueRaised
      let s1 := if overs then cntAdd (modSelf s die (fun t => { t with overdueRaised := true })) rDcuStCnt (die * 8 + 3) 1
        else s
      let e1 : List Ev := if overs then [{ code := 0x0161, die := die, loc := 0 }] else []
      let deg := decide (2 * lim ≤ age) && !t.degraded
      let s2 := if deg then modSelf s1 die (fun t => { t with degraded := true }) else s1
      let e2 : List Ev := if deg then [{ code := 0x0162, die := die, loc := 0 }] else []
      let r := if 4 * lim ≤ age then fenceDie s2 die .starved else (s2, [])
      let e3 : List Ev := if 4 * lim ≤ age then [{ code := 0x0164, die := die, loc := 0 }] else []
      raise r.1 (e1 ++ e2 ++ e3 ++ r.2))

/-! ## The paddocks' memory self-test (R530, R252) -/

/-- A die-level unit is faulted: its management view is FAULTED, its data-path view FENCED (R30, R41). -/
def faultUnit (s : State) (d blk inst : Nat) : State :=
  let key := blk * 128 + inst
  let u : UnitSt := { unitOf s d blk inst with mgmt := .faulted, data := .fenced }
  modDie s d (fun x => { x with units := mapSet readyUnit x.units key u })

/-- A failing paddock bank: its controller is faulted and its die fenced (R252). -/
def bankFails (s : State) (d cluster bank : Nat) (c : FenceCause) : State × List Ev :=
  let f := fenceDie (faultUnit s d 0x0B cluster) d c
  (f.1, { code := 0x0B82, die := d, loc := cluster * 1024 + bank } :: f.2)

/-- The die's units are powered and answer. -/
def dieOn (s : State) (d : Nat) : Bool := partOn s && (dieOf s d).powered && (d == 0 || (isDie s d && !dieOff s d))

/-- The next line of a paddock bank's pass, and the raw start of the pass (R530). -/
def passAt (s : State) (d cluster bank : Nat) : Nat × Nat :=
  mapGet (0, s.raw) (dieOf s d).linePass (cluster * 64 + bank)

/-- No requester waits at a bank port or owns it. -/
def bankIdle (s : State) (d cluster bank : Nat) : Bool :=
  match mapFind s.arbs (bankKey d cluster bank) with
  | some x => x.waiting.isEmpty && x.owner.isNone
  | none => true

/-- PADDOCK_LINE_TEST: the next line of a bank's pass tested through its shadow in a slot in which no requester waits; the bank's
last line completes the pass, which is counted if it took more than 60 s. -/
def execPaddockLineTest (die cluster bank line : Nat) (pass passOver60s : Bool) (s : State) :
    Host.Outcome State Fault Refusal :=
  .next (
    let k := passAt s die cluster bank
    let slow := decide (60000000000 < s.raw - k.2)
    if dieOn s die && decide (3 ≤ s.pwr.st) && isDie s die && decide (cluster < 5) && decide (bank < 64) && line == k.1 &&
        bankIdle s die cluster bank then
      if pass then
        let next := if line = 2047 then (0, s.raw) else (line + 1, k.2)
        let s1 := modDie s die (fun x => { x with linePass := mapPut x.linePass (cluster * 64 + bank) next })
        (if line = 2047 then
          (if passOver60s = slow then cntAdd (cntAdd s1 rDcuStCnt (die * 8 + 5) 1) rDcuStCnt (die * 8 + 6) (b2n slow) else s)
         else s1)
      else
        let r := bankFails s die cluster bank .bank
        raise r.1 r.2
    else s)

end Sys2Proof.Machine
end

