-- ==== Sys2Proof/Machine/ConfigCmds.lean ====
section
/-!
DEFINITION. Configuration: CFG_READ and CFG_WRITE with the ordered tests of R559, staged sets and pair checks (R94 to
R97), and transactions (R98 to R102).
Conventions: log entry 10 (DESIGN CHOICE), log entry 18 (DEDUCED), log entry 26 (DEDUCED), log entry 42 (DEDUCED),
log entry 64 (DESIGN CHOICE), log entry 83 (DEDUCED), log entry 86 (DESIGN CHOICE).
-/
namespace Sys2Proof.Machine

/-! ## Masks -/

/-- `v` with the bits of `mask` taken from `new`. -/
def mergeBits (v new mask : Nat) : Nat := v &&& ((2 ^ 64 - 1) ^^^ mask) ||| new &&& mask

def noReg : RegSpec := ⟨0, 0, 0, 0, 0, 0, []⟩
def regSpec (reg : Nat) : RegSpec := (regOf reg).getD noReg

/-- Bits of a register that enter its staged set. -/
def stgMask (reg : Nat) : Nat := (regSpec reg).staged ||| (regSpec reg).locked

/-- Bits of a register that can be written. -/
def wrMask (reg : Nat) : Nat := (regSpec reg).live ||| stgMask reg

/-- A mask covers a bit of a field. -/
def coversFld (mask : Nat) (f : FldSpec) : Bool := bitsOf mask f.hi f.lo != 0

/-! ## Views of a register -/

/-- The value in force: of PDK_ARB_ORDER the rank order as it stands after the rotations, which the register reads (R90,
R253). -/
def inForce (s : State) (reg i : Nat) : Nat := if reg = rPdkArbOrder then arbOrderVal s i else cfgGet s reg i

/-- The staged view: the staged value, or the active one. -/
def stagedGet (s : State) (reg i : Nat) : Nat :=
  match mapFind s.cfg.staged (cfgKey reg i) with
  | some v => mergeBits v (inForce s reg i) ((regSpec reg).live)
  | none => inForce s reg i

/-- The buffered writes over a view. -/
def overlayGet (s : State) (buf : List BufEntry) (reg i : Nat) : Nat :=
  match buf.find? (fun e => e.key == cfgKey reg i) with
  | some e => mergeBits (stagedGet s reg i) e.value e.mask
  | none => stagedGet s reg i

/-! ## Running blocks (R95, R135) -/

/-- A unit is neither fenced nor gated off. -/
def unitRuns (u : UnitSt) : Bool := u.mgmt != .off && u.mgmt != .fenced && u.mgmt != .faulted

/-- The units of a block on a die (R43): one paddock controller per cluster, one memory controller per channel, one port
per link, otherwise one. -/
def blockUnits (blk : Nat) : List Nat :=
  if blk = 0x0B then List.range 5 else if blk = 0x12 then List.range 4 else if blk = 0x13 then List.range 7 else [0]

/-- A block runs on a die: neither die nor block is fenced or gated off (R95). -/
def blockOn (s : State) (blk die : Nat) : Bool :=
  s.pwr.st == 4 && !dieFenced s die && !dieOff s die && (blockUnits blk).any (fun i => unitRuns (unitOf s die blk i))

/-- The block runs: on the hub, on the die named, or, for a register on the compute dies, on any of them. -/
def blockRuns (s : State) (blk die : Nat) : Bool :=
  if die ≠ 0 ∨ hubBlocks.contains blk ∨ blk = 0x15 then blockOn s blk die
  else (computeDies s).any (blockOn s blk)

/-- A LOCKED field of the register is busy. -/
def lockedBusy (s : State) (reg i : Nat) : Bool :=
  blockRuns s (reg / 256) (blockDie reg i) || (reg == rAdmCfg && s.ctxs.any (·.guaranteed))

/-! ## Pair checks (R96, R103, R173, R394, R431, R485) -/

/-- Index values that hold a value other than reset in a register. -/
def listedIdx (s : State) (buf : List BufEntry) (reg : Nat) : List Nat :=
  (((s.cfg.active.map (·.1)) ++ (s.cfg.staged.map (·.1)) ++ (buf.map (·.key))).filter
    (fun k => k / 65536 == reg)).map (· % 65536)

def laneCfgOk (v : Nat) : Bool :=
  (bitsOf v 13 12 != 2 || bitsOf v 14 14 == 1) &&
    (bitsOf v 15 15 == 0 || (bitsOf v 63 16 != 0 && bitsOf v 56 56 == 0))

def thermOk (v : Nat) : Bool := decide (bitsOf v 23 16 + 50 ≤ bitsOf v 31 24)

def mbxOk (v : Nat) : Bool := 1 ≤ bitsOf v 31 16 && bitsOf v 31 16 + bitsOf v 15 0 ≤ 8192

def mtuOk (v : Nat) : Bool :=
  bitsOf v 51 44 * 4 ≤ bitsOf v 63 52 && bitsOf v 7 0 < bitsOf v 15 8 && 1 ≤ bitsOf v 7 0

def destOk (get : Nat → Nat → Nat) (en k : Nat) : Bool :=
  en == 0 || bitsOf (get rVrdDest k) 63 62 == 1 || bitsOf (get rVrdDest k) 63 62 == 2

/-- Every pair check of a block instance, on a view of its registers. -/
def pairsOk (s : State) (buf : List BufEntry) (blk die : Nat) : Bool :=
  let get := overlayGet s buf
  if blk = 0x03 then mbxOk (get rMbxCfg 0) && mbxOk (get rMbxCfg 1)
  else if blk = 0x05 then (List.range 16).all (fun l => laneCfgOk (get rPdeLaneCfg l))
  else if blk = 0x0D then mtuOk (get rMtuCfg 0)
  else if blk = 0x11 then (listedIdx s buf rVrdCtxCfg).all (fun x =>
    destOk get (bitsOf (get rVrdCtxCfg x) 31 31) (bitsOf (get rVrdCtxCfg x) 30 27) &&
      destOk get (bitsOf (get rVrdCtxCfg x) 26 26) (bitsOf (get rVrdCtxCfg x) 25 22))
  else if blk = 0x01 ∧ die ≠ 0 then thermOk (get rDcuTherm die)
  else if blk = 0x14 then thermOk (get rMgpTherm 0)
  else true

/-! ## What a change of an active value does at once -/

/-- An up lane goes down: PDE_LANE_DOWN (R176). PDE_LANE_REMOTE_FAULT stays as it was last received: R172 does not say what a lane
that is down or disabled shows there (log entry 86, DESIGN CHOICE). -/
def laneDown (s : State) (l : Nat) : State × List Ev :=
  let was := (laneOf s l).up
  ({ s with lanes := updAt s.lanes l (fun x => { x with up := false, locked := false }) },
    if was then [{ code := 0x0580, die := 0, loc := l }] else [])

/-- The order of the bank arbiters of a cluster (R246, R247). -/
def applyArbOrder (s : State) (i v : Nat) : State × List Ev :=
  let s1 := { s with arbs := s.arbs.map (fun a => if a.1 / 64 == i then (a.1, { a.2 with order := rankList v }) else a) }
  let s2 := cntAdd s1 rPdkClusterCnt (i * 8 + 6) 1
  (s2, if (guarOn s (i / 5)).isEmpty then [] else [{ code := 0x0B81, die := i / 5, loc := i % 5 * 1024 }])

/-- The PTP lane has the address that its transport needs: with UDP over IPv4 the servo stays UNLOCKED without one (R169). -/
def ptpAddressed (s : State) : Bool := cfgFld s rTmuCfg 0 19 18 != 0 || cfgGet s rPdeIp4 (cfgFld s rTmuCfg 0 23 20) != 0

/-- Effects of a register's new active value beyond the value itself. -/
def cfgEffect (s : State) (reg i old new : Nat) : State × List Ev :=
  if reg = rHptHintCfg then (hintUpdate s, [])
  else if reg = rDcuStCfg ∨ reg = rVrdCtxCfg then (noteWindows s, [])
  else if reg = rPdeLaneCfg ∧ bitsOf old 15 12 ≠ bitsOf new 15 12 then laneDown s i
  else if reg = rPdkArbOrder then applyArbOrder s i new
  else if reg = rTmuCfg ∧ bitOf old 31 = false ∧ bitOf new 31 = true then
    ({ s with tmu := { s.tmu with servo := 1, good := 0, lastSync := s.raw, foreign := [], master := none, gm := none, pendSync := none,
                                  delayReq := none, stepHeld := false } }, [])
  else if (reg = rPdeIp4 ∨ reg = rTmuCfg) ∧ ptpAddressed s = false then
    ({ s with tmu := { s.tmu with servo := 1, good := 0 } }, [])
  else (s, [])

/-- Sets an active value and what follows from it. -/
def cfgSet (s : State) (reg i v : Nat) : State × List Ev :=
  let old := cfgGet s reg i
  cfgEffect (cfgPut s reg i v) reg i old v

/-! ## Applying a block's staged set (R96) -/

/-- Staged keys of a block instance. -/
def instKeys (s : State) (blk die : Nat) : List Nat :=
  ((s.cfg.staged.map (·.1)).filter (fun k => k / 65536 / 256 == blk && blockDie (k / 65536) (k % 65536) == die))

/-- Makes the staged view of one key active. -/
def applyKey (a : State × List Ev) (k : Nat) : State × List Ev :=
  let s := a.1
  let v := stagedGet s (k / 65536) (k % 65536)
  let s1 := { s with cfg := { s.cfg with staged := mapDel s.cfg.staged k } }
  let r := cfgSet s1 (k / 65536) (k % 65536) v
  (r.1, a.2 ++ r.2)

/-- Makes the staged set of a block instance active, without its checks. -/
def applyInst (s : State) (blk die : Nat) : State × List Ev := (instKeys s blk die).foldl applyKey (s, [])

/-- A CFG_WRITE's body: the active value and whether the write is in force (R90). -/
def cfgBody (s : State) (reg i inForce : Nat) : List Byte × State :=
  let r := regRead s reg i
  (leBytes 8 r.1 ++ leBytes 1 inForce ++ leBytes 7 0, r.2)

/-- Completes one waiting write: in force, or held by the block of one of its dies. -/
def finishWait (ok : Bool) (s : State) (w : StagedWait) : State :=
  let good := ok && !w.held
  let b := cfgBody s w.reg w.idx (b2n good)
  completeSlot b.2 w.slot (if good then 0 else 0x0314) b.1

/-- CFG_PAIR_MISMATCH for a write (R93). -/
def pairEvent (die reg i : Nat) : Ev :=
  { code := 0x0383, die := die, loc := 0, detail := leBytes 2 reg ++ leBytes 2 i }

/-- The write after which every later staged set failed the checks; the last one if it passed them itself. -/
def culprit (mine : List StagedWait) : Option StagedWait :=
  match (mine.reverse.takeWhile (fun w => !w.fits)).getLast? with
  | some w => some w
  | none => mine.getLast?

/-- The writes of `mine` that wait for no other block, completed. -/
def finishWaits (ok : Bool) (mine : List StagedWait) (s : State) : State :=
  (mine.filter (fun w => !s.cfg.waits.any (fun x => x.slot == w.slot))).foldl (finishWait ok) s

/-- A block instance comes to its unit boundary with waiting writes: it applies its staged set as a whole, or keeps
the active set if a pair check fails (R96). The spec speaks of one write: where several wait, the model names the one
after which the staged set went on failing, and completes all of them with CFG_HELD_PAIR (log entry 64, DESIGN CHOICE). -/
def boundaryApply (s : State) (blk die : Nat) : State :=
  let mine := s.cfg.waits.filter (fun w => w.blk == blk && w.die == die)
  let rest := s.cfg.waits.filter (fun w => !(w.blk == blk && w.die == die))
  match culprit mine with
  | none => s
  | some cause =>
    if pairsOk s [] blk die then
      let r := applyInst { s with cfg := { s.cfg with waits := rest } } blk die
      finishWaits true mine (raise r.1 r.2)
    else
      let held := rest.map (fun w => if mine.any (fun x => x.slot == w.slot) then { w with held := true } else w)
      finishWaits false mine (raise { s with cfg := { s.cfg with waits := held } } [pairEvent die cause.reg cause.idx])

/-! ## The tests of R559 -/

/-- Test 3 for a write (R463, R90). -/
def writeBlocked (s : State) (reg i : Nat) : Bool :=
  match regPlace reg i with
  | .hub => false
  | .die d => s.pwr.st == 1 || dieOff s d
  | .all => s.pwr.st == 1

/-- Test 3 for a read: a register with an RO field on a die without power (R463). -/
def readBlocked (s : State) (reg i : Nat) : Bool :=
  match regPlace reg i with
  | .die d => (s.pwr.st == 1 || dieOff s d) && (regSpec reg).ro != 0
  | _ => false

/-- Bits of a register that the transaction of an applying commit writes. -/
def commitBits (s : State) (key : Nat) : Nat :=
  (s.txn.commits.flatMap (·.own)).foldl (fun m e => if e.key == key then m ||| e.mask else m) 0

/-- A write covers a field that an applying commit writes (R101). -/
def txnConflict (s : State) (reg i mask : Nat) : Bool :=
  (regSpec reg).flds.any (fun f => coversFld mask f && coversFld (commitBits s (cfgKey reg (copyIdx reg i))) f)

/-- Blocks of the lock of R499. -/
def lockBlocks : List Nat := [0x04, 0x05, 0x06, 0x07, 0x0D, 0x10, 0x11, 0x15]

/-- Test 5: SEC_CFG_LOCK is written by a bundle only; while it is 1, the listed blocks are locked (R499). -/
def cfgLocked (s : State) (reg mask : Nat) : Bool :=
  (reg == rSecCfg && bitOf mask 31) ||
    (cfgFld s rSecCfg 0 31 31 == 1 && lockBlocks.contains (reg / 256) && mask &&& wrMask reg != 0)

/-- Maximum sustained package power, mW (R1). -/
def packagePower (s : State) : Nat := if s.variant = 2 then 72000 else if s.variant = 4 then 160000 else 340000

/-- R474: a budget below what is drawn or reserved, or a package total above the limit. -/
def budgetOk (s : State) (d v : Nat) : Bool :=
  let l := leaveLevel s
  let others := (((computeDies s).filter (· != d)).map (leaveBudget s)).sum
  baseLeave s d l + leaveRes s d l ≤ v && 28000 + others + v ≤ packagePower s

/-- A permutation of 0 to 12 in the 13 rank fields (R253). -/
def isPermutation13 (l : List Nat) : Bool := (List.range 13).all (fun r => l.contains r)

/-- Rules that a field's chapter adds to its range, for the fields that a write covers. -/
def extraOk (s : State) (reg i mask v : Nat) : Bool :=
  if reg = rDcuLeaveBudget then budgetOk s i (bitsOf v 19 0)
  else if reg = rMmcCfg then bitsOf v 15 0 == 0 || 60 ≤ bitsOf v 15 0
  else if reg = rBmpCfg then bitsOf v 6 0 != 0x7E
  else if reg = rPdkArbOrder then isPermutation13 (rankList v)
  else if reg = rDskCfg ∧ bitsOf mask 11 0 ≠ 0 then ptStoreUsed s i ≤ bitsOf v 11 0 * 1048576
  else if reg = rZckCfg ∧ bitsOf mask 31 20 ≠ 0 then
    chkStoreUsed s ≤ bitsOf v 31 20 * 1048576 && pkgUsed s ≤ pkgArea s (bitsOf v 31 20)
  else if reg = rMtuCfg then
    (computeDies s).all (fun d => (bitsOf mask 63 52 == 0 || regionUsed s d ≤ bitsOf v 63 52 * 1048576) &&
      (bitsOf mask 51 44 == 0 || combineUsed s d ≤ bitsOf v 51 44 * 1048576))
  else if reg = rVrdCtxCfg ∧ bitOf mask 21 = true ∧ bitOf v 21 = true then
    (match ctxOf s i with | some c => c.guaranteed | none => false)
  else true

/-- Test 7: every written field in range, and the rules of its chapter. -/
def rangeOk (s : State) (reg i mask v : Nat) : Bool :=
  (regSpec reg).flds.all (fun f => !coversFld mask f || (f.min ≤ bitsOf v f.hi f.lo && bitsOf v f.hi f.lo ≤ f.max)) &&
    (mask &&& wrMask reg == 0 || extraOk s reg i mask v)

/-- The tests of R559 up to test 7, for a write by mailbox outside a transaction (mode 0), buffered (mode 1) or a
bundle's record (mode 2); `base` is the value the write merges into. -/
def cfgTests (s : State) (mode reg i value mask base : Nat) : Nat :=
  if (regOf reg).isNone then 0x0310
  else if indexOk s reg i = false then 0x0311
  else if writeBlocked s reg i then 0x1406
  else if mode = 1 ∧ s.txn.st = 2 then 0x0319
  else if mode = 0 ∧ txnConflict s reg i mask then 0x0318
  else if mode ≠ 2 ∧ cfgLocked s reg mask then 0x150E
  else if mask &&& (regSpec reg).ro ≠ 0 then 0x0312
  else if rangeOk s reg i mask (mergeBits base value mask) = false then 0x0311
  else 0

/-! ## CFG_WRITE -/

/-- The body of a refused write: the active value, where register and index name one. -/
def refusedBody (s : State) (reg i : Nat) : List Byte × State :=
  if (regOf reg).isSome && indexOk s reg i then cfgBody s reg i 0 else ([], s)

/-- Completes a refused write. -/
def refuseWrite (s : State) (reg i st : Nat) : State × CmdRes :=
  let b := refusedBody s reg i
  (b.2, .done st b.1)

/-- Buffers a write in the transaction (R99). -/
def bufferWrite (buf : List BufEntry) (key value wr : Nat) : Option (List BufEntry) :=
  if wr = 0 then some buf
  else if buf.any (fun e => e.key == key) then
    some (buf.map (fun e => if e.key == key then ⟨key, mergeBits e.value value wr, e.mask ||| wr⟩ else e))
  else if 256 ≤ buf.length then none
  else some (buf ++ [⟨key, value &&& wr, wr⟩])

/-- A write with IN_TXN (R99). -/
def writeInTxn (s : State) (reg i value mask : Nat) : State × CmdRes :=
  let k := copyIdx reg i
  let st := cfgTests s 1 reg i value mask (overlayGet s s.txn.buf reg k)
  if st ≠ 0 then refuseWrite s reg i st
  else match bufferWrite s.txn.buf (cfgKey reg k) value (mask &&& wrMask reg) with
    | none => refuseWrite s reg i 0x0316
    | some b =>
      let s1 := { s with txn := { s.txn with buf := b } }
      let r := cfgBody s1 reg i 0
      (r.2, .done 0 r.1)

/-- The LIVE part of a write takes effect at once (R95). -/
def writeLive (s : State) (reg i value mask : Nat) : State :=
  let lv := mask &&& (regSpec reg).live
  if lv = 0 then s
  else
    let r := cfgSet s reg i (mergeBits (inForce s reg i) value lv)
    raise r.1 r.2

/-- Blocks whose staged fields apply at the next update of their thermal sensors (R485). -/
def thermBlock (blk : Nat) : Bool := blk == 0x01 || blk == 0x14

/-- A block applies at once (R95): the MBX block, whose units are too short to see, and every block that does not run. A
thermal field waits for the next sensor update, on a die that has power (R463, R485). -/
def appliesNow (s : State) (blk die : Nat) : Bool :=
  if thermBlock blk then decide (s.pwr.st < 2) || !(dieOf s die).powered || dieOff s die else blk == 0x03 || !blockRuns s blk die

/-- A write enters the staged set under one of its copies' indices. -/
def stageAt (reg value sm : Nat) (s : State) (j : Nat) : State :=
  { s with cfg := { s.cfg with staged := mapPut s.cfg.staged (cfgKey reg j) (mergeBits (stagedGet s reg j) value sm) } }

/-- A block that applies now: its staged set becomes active, or a failing pair check holds the write (R96). The flag
collects whether the write is held; the events are of one instant (R537). -/
def applyNow (reg i : Nat) (a : State × List Ev × Bool) (b : Nat × Nat) : State × List Ev × Bool :=
  if pairsOk a.1 [] b.1 b.2 then
    let r := applyInst a.1 b.1 b.2
    (r.1, a.2.1 ++ r.2, a.2.2)
  else (a.1, a.2.1 ++ [pairEvent b.2 reg i], true)

/-- The staged part of a write: it enters the staged set of its block on each of its dies, which the block applies now or
at its unit boundary. -/
def writeStaged (s : State) (slot reg i value mask : Nat) : State × CmdRes :=
  let sm := mask &&& stgMask reg
  let s1 := (copies s reg i).foldl (stageAt reg value sm) s
  let insts := (copies s reg i).map (fun j => (reg / 256, blockDie reg j))
  let a := (insts.filter (fun b => appliesNow s b.1 b.2)).foldl (applyNow reg i) (s1, [], false)
  let r := (raise a.1 a.2.1, a.2.2)
  let later := (insts.filter (fun b => !appliesNow s b.1 b.2)).map
    (fun b => (⟨b.1, b.2, slot, reg, i, pairsOk r.1 [] b.1 b.2, r.2⟩ : StagedWait))
  if later = [] then
    let b := cfgBody r.1 reg i (b2n (!r.2))
    (b.2, .done (if r.2 then 0x0314 else 0) b.1)
  else ({ r.1 with cfg := { r.1.cfg with waits := r.1.cfg.waits ++ later } }, .stay)

/-- A write outside a transaction (R95 to R97). -/
def writeNow (s : State) (slot reg i value mask : Nat) : State × CmdRes :=
  let st := cfgTests s 0 reg i value mask (stagedGet s reg (copyIdx reg i))
  if st ≠ 0 then refuseWrite s reg i st
  else if mask &&& (regSpec reg).locked ≠ 0 ∧ lockedBusy s reg i = true then refuseWrite s reg i 0x0313
  else
    let s1 := writeLive s reg i value mask
    if mask &&& stgMask reg = 0 then
      let b := cfgBody s1 reg i 1
      (b.2, .done 0 b.1)
    else writeStaged s1 slot reg i value mask

/-- CFG_WRITE of a copied slot (R90, R559). -/
def cfgWriteCmd (c : Cmd) (s : State) : State × CmdRes :=
  let reg := u16 c.bytes 16
  let i := u16 c.bytes 18
  let value := u64 c.bytes 24
  let mask := u64 c.bytes 32
  if bitOf c.flags 0 then
    (if s.txn.id = 0 ∨ s.txn.id ≠ c.txn then refuseWrite s reg i 0x0309 else writeInTxn s reg i value mask)
  else writeNow s c.slot reg i value mask

/-- CFG_WRITE. -/
def execCfgWrite (slot : Nat) (s : State) : Host.Outcome State Fault Refusal :=
  .next (withCmd 0x0011 slot s cfgWriteCmd)

/-- The slot's command writes a given register. -/
def writesReg (s : State) (slot reg : Nat) : Bool :=
  match cmdOf s slot with
  | some c => u16 c.bytes 16 == reg
  | none => false

/-- PDK_ARB_ORDER_WRITE: the CFG_WRITE of register 0x0B00 (R246, R247). -/
def execPdkArbOrderWrite (slot : Nat) (s : State) : Host.Outcome State Fault Refusal :=
  .next (if writesReg s slot rPdkArbOrder then withCmd 0x0011 slot s cfgWriteCmd else s)

/-- LEAVE_BUDGET_WRITE: the CFG_WRITE of register 0x0108 (R474). -/
def execLeaveBudgetWrite (slot : Nat) (s : State) : Host.Outcome State Fault Refusal :=
  .next (if writesReg s slot rDcuLeaveBudget then withCmd 0x0011 slot s cfgWriteCmd else s)

/-! ## CFG_READ -/

/-- CFG_READ (R89, R559). -/
def cfgReadCmd (c : Cmd) (s : State) : State × CmdRes :=
  let reg := u16 c.bytes 16
  let i := u16 c.bytes 18
  if (regOf reg).isNone then fail s 0x0310
  else if indexOk s reg i = false then fail s 0x0311
  else if readBlocked s reg i then fail s 0x1406
  else
    let r := regRead s reg i
    (r.2, .done 0 (leBytes 8 r.1 ++ leBytes 8 0))

def execCfgRead (slot : Nat) (s : State) : Host.Outcome State Fault Refusal :=
  .next (withCmd 0x0010 slot s cfgReadCmd)

/-! ## Transactions (R98 to R102) -/

def closeTxn (s : State) : State :=
  { s with txn := { s.txn with st := 0, id := 0, buf := [], commits := [] } }

/-- Opens a transaction under the next identifier (R98). -/
def openTxn (s : State) : State :=
  { s with txn := { s.txn with st := 1, id := s.txn.nextId, nextId := s.txn.nextId % 0xFFFFFFFF + 1, buf := [],
                               lastUse := s.raw } }

/-- TXN_BEGIN. -/
def txnBeginCmd (_c : Cmd) (s : State) : State × CmdRes :=
  if s.txn.st ≠ 0 then fail s 0x0315
  else
    let s1 := openTxn s
    (s1, .done 0 (leBytes 4 s1.txn.id))

def execTxnBegin (slot : Nat) (s : State) : Host.Outcome State Fault Refusal :=
  .next (withCmd 0x0012 slot s txnBeginCmd)

/-- The command carries the open transaction. -/
def carriesTxn (c : Cmd) (s : State) : Bool := bitOf c.flags 0 && s.txn.id != 0 && s.txn.id == c.txn

/-- TXN_ABORT (R101). One submitted with IN_TXN 0, which no check of R76 refuses, completes with TXN_NOT_OPEN: the catalogue says
IN_TXN 1 and no more (log entry 26, DESIGN CHOICE). -/
def txnAbortCmd (c : Cmd) (s : State) : State × CmdRes :=
  if carriesTxn c s = false then fail s 0x0309
  else if s.txn.st = 2 then fail s 0x0319
  else (closeTxn s, .done 0 [])

def execTxnAbort (slot : Nat) (s : State) : Host.Outcome State Fault Refusal :=
  .next (withCmd 0x0014 slot s txnAbortCmd)

/-- Block instance of a key. -/
def instOf (k : Nat) : Nat × Nat := (k / 65536 / 256, blockDie (k / 65536) (k % 65536))

/-- The buffered writes, each to every copy of its register. -/
def spread (s : State) (buf : List BufEntry) : List BufEntry :=
  buf.flatMap (fun e => (copies s (e.key / 65536) (e.key % 65536)).map (fun j => ⟨cfgKey (e.key / 65536) j, e.value, e.mask⟩))

/-- Block instances that buffered writes affect. -/
def affected (buf : List BufEntry) : List (Nat × Nat) := (buf.map (fun e => instOf e.key)).eraseDups

/-- The first reason of R100 to refuse a commit, 0 if none. -/
def commitCheck (s : State) (buf : List BufEntry) : Nat :=
  if buf.any (fun e => e.mask &&& (regSpec (e.key / 65536)).locked != 0 &&
      lockedBusy s (e.key / 65536) (e.key % 65536)) then 0x0313
  else if (affected buf).all (fun b => pairsOk s buf b.1 b.2) then 0 else 0x0317

/-- The set a commit applies: for each affected block, the staged set overlaid with the buffered writes (R100). -/
def commitSet (s : State) (buf : List BufEntry) : List BufEntry :=
  let stg := (s.cfg.staged.filter (fun e => (affected buf).contains (instOf e.1) &&
    !(buf.any (fun b => b.key == e.1)))).map (fun e => (⟨e.1, e.2, stgMask (e.1 / 65536)⟩ : BufEntry))
  let own := buf.map (fun e =>
    (⟨e.key, overlayGet s buf (e.key / 65536) (e.key % 65536), e.mask ||| stgMask (e.key / 65536)⟩ : BufEntry))
  own ++ stg

/-- One entry of a commit becomes active and leaves the staged set where nothing else is staged. -/
def commitEntry (a : State × List Ev) (e : BufEntry) : State × List Ev :=
  let s := a.1
  let reg := e.key / 65536
  let i := e.key % 65536
  let later := mergeBits (stagedGet s reg i) e.value (commitBits s e.key)
  let r := cfgSet s reg i (mergeBits (inForce s reg i) e.value e.mask)
  let keep := (mapFind s.cfg.staged e.key).isSome && later != cfgGet r.1 reg i
  let stg := if keep then mapPut r.1.cfg.staged e.key later else mapDel r.1.cfg.staged e.key
  ({ r.1 with cfg := { r.1.cfg with staged := stg } }, a.2 ++ r.2)

/-- A block instance applies its part of a commit, with the events of that; waiting writes that came into force with it
complete. -/
def commitInst (buf : List BufEntry) (a : State × List Ev) (b : Nat × Nat) : State × List Ev :=
  let r := (buf.filter (fun e => instOf e.key == b)).foldl commitEntry a
  let here := fun (w : StagedWait) => w.blk == b.1 && w.die == b.2 &&
    (mapFind r.1.cfg.staged (cfgKey w.reg (if w.reg = rDcuStCfg then w.die else w.idx))).isNone
  let fin := r.1.cfg.waits.filter here
  (finishWaits true fin { r.1 with cfg := { r.1.cfg with waits := r.1.cfg.waits.filter (fun w => !here w) } }, r.2)

/-- Completes a commit whose last block has applied: OK, and the transaction closes (R100, R498). -/
def finishCommit (s : State) (k : Commit) : State :=
  completeSlot (closeTxn s) k.slot 0 (if k.bundle then leBytes 2 0xFFFF else [])

/-- Starts a commit of writes spread to their copies: blocks at a boundary apply now, the others at their next unit
boundary. -/
def startCommit (s : State) (slot : Nat) (bundle : Bool) (buf : List BufEntry) : State × Commit :=
  let set_ := commitSet s buf
  let insts := affected buf
  let now_ := insts.filter (fun b => appliesNow s b.1 b.2)
  let k : Commit := ⟨slot, buf, set_, insts.filter (fun b => !now_.contains b), bundle⟩
  let s1 := { s with txn := { s.txn with st := 2, commits := [k] } }
  let a := now_.foldl (commitInst set_) (s1, [])
  (raise a.1 a.2, k)

/-- TXN_COMMIT (R100). One submitted with IN_TXN 0 completes with TXN_NOT_OPEN, as TXN_ABORT does (log entry 26, DESIGN CHOICE). -/
def txnCommitCmd (c : Cmd) (s : State) : State × CmdRes :=
  if carriesTxn c s = false then fail s 0x0309
  else if s.txn.st = 2 then fail s 0x0319
  else
    let buf := spread s s.txn.buf
    let st := commitCheck s buf
    if st ≠ 0 then fail s st
    else
      let r := startCommit s c.slot false buf
      if r.2.todo = [] then (closeTxn r.1, .done 0 []) else (r.1, .stay)

def execTxnCommit (slot : Nat) (s : State) : Host.Outcome State Fault Refusal :=
  .next (withCmd 0x0013 slot s txnCommitCmd)

/-- The set that a block applies for a commit at its boundary: its staged set as it stands overlaid with the commit's writes; the
one that the commit was checked with, where a write staged since fails a pair check with it (R96, R100; log entry 26,
DEDUCED). -/
def boundarySet (s : State) (k : Commit) (blk die : Nat) : List BufEntry :=
  if pairsOk s k.own blk die then commitSet s k.own else k.buf

/-- A block instance with part of an applying commit applies it (R100). -/
def commitApply (s : State) (blk die : Nat) : State :=
  match s.txn.commits.find? (fun k => k.todo.contains (blk, die)) with
  | none => s
  | some k =>
    let r := commitInst (boundarySet s k blk die) (s, []) (blk, die)
    let s1 := raise r.1 r.2
    let k1 := { k with todo := k.todo.filter (· != (blk, die)) }
    if k1.todo = [] then finishCommit s1 k1
    else { s1 with txn := { s1.txn with commits := [k1] } }

/-- A block comes to its unit boundary: its part of a commit and the writes that wait apply (R95, R100). -/
def blockBoundary (s : State) (blk die : Nat) : State := boundaryApply (commitApply s blk die) blk die

/-- CONFIG_STAGED_APPLY: a block comes to its unit boundary with writes waiting (R95, R96); the boundary of a block of
thermal fields is the update of its sensors (R485). -/
def execConfigStagedApply (blk die : Nat) (s : State) : Host.Outcome State Fault Refusal :=
  .next (if thermBlock blk then s else blockBoundary s blk die)

/-- TXN_COMMIT_APPLY: a block instance comes to its unit boundary with part of an applying commit (R100, R485). -/
def execTxnCommitApply (blk die : Nat) (s : State) : Host.Outcome State Fault Refusal :=
  .next (if thermBlock blk || !s.txn.commits.any (fun k => k.todo.contains (blk, die)) then s else blockBoundary s blk die)

/-- TXN_IDLE_EXPIRY: no command carried the identifier for MBX_TXN_IDLE_MS (R102). -/
def execTxnIdleExpiry (s : State) : Host.Outcome State Fault Refusal :=
  .next (
    let ms := cfgFld s rMbxTxnCfg 0 15 0
    if s.txn.st = 1 ∧ ms ≠ 0 ∧ s.txn.lastUse + ms * 1000000 ≤ s.raw then
      raise (closeTxn s) [{ code := 0x0384, die := 0, loc := 0, detail := leBytes 4 s.txn.id }]
    else s)

end Sys2Proof.Machine
end

