-- ==== Sys2Proof/Machine/Fabric.lean ====
section
/-!
DEFINITION. Links and flits (R15 to R18), the halyard (R25 to R27), pace monitors (R32 to R35) and the audit of the
management and data-path views (R38 to R43).
Conventions: log entry 28 (DEDUCED), log entry 29 (DEDUCED), log entry 60 (DESIGN CHOICE), log entry 61 (DESIGN
CHOICE).
-/
namespace Sys2Proof.Machine

/-! ## Links (R12, R558) -/

/-- Ring neighbours of a compute die, ascending (R12). -/
def ringNeighbours (s : State) (d : Nat) : List Nat :=
  let n := nDies s
  if n < 3 then [] else natSort [if d = 1 then n else d - 1, if d = n then 1 else d + 1]

/-- The far end of a link: die and link number there (R558). -/
def linkPeer (s : State) (d l : Nat) : Nat × Nat :=
  if d = 0 then (l + 1, 0)
  else if l = 0 then (0, d - 1)
  else
    let p := (ringNeighbours s d).getD (l - 1) 0
    (p, 1 + ((ringNeighbours s p).takeWhile (· != d)).length)

def linkOf (s : State) (d l : Nat) : LinkSt := (dieOf s d).links.getD l LinkSt.reset

def modLink (s : State) (d l : Nat) (f : LinkSt → LinkSt) : State :=
  modDie s d (fun x => { x with links := updAt x.links l f })

/-- The link is down in either direction, as it is declared (R17). -/
def linkDown (s : State) (d l : Nat) : Bool :=
  (linkOf s d l).down || (linkOf s (linkPeer s d l).1 (linkPeer s d l).2).down

/-- A compute die loses the hub link or the halyard: DIE_ISOLATED (R18, R27). -/
def isolate (s : State) (d : Nat) : State × List Ev :=
  if (dieOf s d).fences.contains .isolated then (s, [])
  else
    let f := fenceDie s d .isolated
    (f.1, { code := 0x0112, die := d, loc := 0 } :: f.2)

/-! ## Routes of the data network (R13, R17, R18) -/

/-- The die is cut from the data network (R18, R27). -/
def cutOff (s : State) (d : Nat) : Bool := (dieOf s d).fences.contains .isolated

/-- Number of the ring link of a die to a ring neighbour (R558). -/
def ringLink (s : State) (d e : Nat) : Nat := 1 + ((ringNeighbours s d).takeWhile (· != e)).length

def areNeighbours (s : State) (d e : Nat) : Bool := (ringNeighbours s d).contains e

/-- Links that traffic from a die to another takes, as the die that sends and its link: the hub link, the ring link of
neighbours, and otherwise both hub links. With the ring link down, neighbours use the hub. -/
def dataRoute (s : State) (src dst : Nat) : List (Nat × Nat) :=
  if src = dst then []
  else if src = 0 then [(0, dst - 1)]
  else if dst = 0 then [(src, 0)]
  else if areNeighbours s src dst && !linkDown s src (ringLink s src dst) then [(src, ringLink s src dst)]
  else [(src, 0), (0, dst - 1)]

/-- A link carries traffic: it is up, and its ports accept work at both ends (R17, R40). -/
def linkServes (s : State) (d l : Nat) : Bool :=
  !linkDown s d l && unitServes s d 0x13 l && unitServes s (linkPeer s d l).1 0x13 (linkPeer s d l).2

/-- Data traffic passes from a die to another. -/
def routeOpen (s : State) (src dst : Nat) : Bool :=
  !cutOff s src && !cutOff s dst && (dataRoute s src dst).all (fun h => linkServes s h.1 h.2)

/-- Ring neighbours of a die whose link is down: from its next tile boundary on, a sender reaches them through the hub
(R17). -/
def hubWays (s : State) (d : Nat) : List Nat :=
  (computeDies s).filter (fun e => areNeighbours s d e && linkDown s d (ringLink s d e))

/-! ## Flits (R15, R16) -/

/-! Multi-byte fields of a flit are read low byte first, and its CRC stands low byte first (log entry 60, DESIGN
CHOICE: R15 gives the bits of each two bytes and not which byte is the lower). -/

/-- Fields of a flit's first two bytes: sequence, type, domain. -/
def flitSeq (b : List Byte) : Nat := byteAt b 0
def flitType (b : List Byte) : Nat := byteAt b 1 % 16
def flitDomain (b : List Byte) : Nat := byteAt b 1 / 16

/-- Destination and source: die and port. -/
def flitDst (b : List Byte) : Nat × Nat := (u16 b 2 / 8192, u16 b 2 % 8192)
def flitSrc (b : List Byte) : Nat × Nat := (u16 b 4 / 8192, u16 b 4 % 8192)

def flitPayload (b : List Byte) : List Byte := slice b 6 64

/-- Bytes 0 to 69 of a flit whose sequence is still to be set. -/
def flitBody (domain typ : Nat) (dst src : Nat × Nat) (payload : List Byte) : List Byte :=
  [0, BitVec.ofNat 8 (domain % 16 * 16 + typ % 16)] ++ leBytes 2 (dst.1 * 8192 + dst.2) ++
    leBytes 2 (src.1 * 8192 + src.2) ++ padTo 64 payload

/-- A flit as it is sent: its sequence and CRC-16 set. -/
def flitSeal (seq : Nat) (body : List Byte) : List Byte :=
  let b := leBytes 1 seq ++ (body.take 70).drop 1
  b ++ leBytes 2 (crc16 b)

/-- The flit passes its CRC-16 and is the next expected (R15, R16). -/
def flitGood (k : LinkSt) (b : List Byte) : Bool :=
  crc16 (b.take 70) == u16 b 70 && flitSeq b == k.expect

/-- Flits that an end has sent from the next expected one of its receiver on (R16). -/
def notAccepted (s : State) (d l : Nat) : Nat :=
  let k := linkOf s d l
  let p := linkPeer s d l
  min k.held.length ((k.next + 256 - (linkOf s p.1 p.2).expect) % 256)

/-- A flit waits at a die's link to be sent. -/
def flitQueue (s : State) (d l : Nat) (body : List Byte) : State :=
  modLink s d l (fun k => { k with queue := k.queue ++ [body.take 70] })

/-- What a link's sender puts on the link: the flit, whether it is sent again, and the sender after it. It sends again what a
replay request named, from its copy; else a flit that waits; else a unit's own traffic, of which the operand gives the fields;
none with 128 unacknowledged (R16). -/
def linkSends (k : LinkSt) (b : List Byte) : Option (List Byte × Bool × LinkSt) :=
  if k.again ≠ 0 then some (k.held.getD (k.held.length - k.again) [], true, { k with again := k.again - 1 })
  else if 128 ≤ k.held.length then none
  else
    let x := flitSeal k.next (k.queue.headD b)
    some (x, false, { k with queue := k.queue.drop 1, held := k.held ++ [x], next := (k.next + 1) % 256 })

/-- A flit delivered at its port: a read request is answered from the port; what the port holds is not the spec's, and
the data is free (log entry 61). -/
def flitDeliver (s : State) (d : Nat) (b : List Byte) : State :=
  let s1 := modDie s d (fun x => { x with ports := mapPut x.ports (flitDst b).2 b })
  if flitType b = 1 then
    let r := freeBytes s1 64
    match dataRoute r.2 d (flitSrc b).1 with
    | h :: _ => flitQueue r.2 h.1 h.2 (flitBody (flitDomain b) 2 (flitSrc b) (flitDst b) r.1)
    | [] => r.2
  else s1

/-- An accepted flit of a write, a read request or a read response: delivered at this die, or sent on by the hub over the
destination's hub link; a compute die sends none on (R13). -/
def flitRoute (s : State) (d : Nat) (b : List Byte) : State :=
  let e := (flitDst b).1
  if e = d then flitDeliver s d b
  else if d = 0 && isDie s e && !cutOff s e then flitQueue s 0 (e - 1) b
  else s

/-- An accepted flit, by its type (R15, R16). A credit return acknowledges what this end has sent and its peer accepted; a
replay request has this end send again from the peer's next expected flit on; a reserved type does nothing. -/
def flitAccept (s : State) (d l : Nat) (b : List Byte) : State :=
  let s1 := modLink s d l (fun k => { k with expect := (k.expect + 1) % 256, replays := 0, last := b })
  if flitType b = 3 then
    modLink s1 d l (fun k => { k with held := keepLast (notAccepted s1 d l) k.held, again := min k.again (notAccepted s1 d l) })
  else if flitType b = 4 then modLink s1 d l (fun k => { k with again := notAccepted s1 d l })
  else if flitType b < 3 then flitRoute s1 d b
  else s1

/-- Both ends of a link are down; what waited there for a ring neighbour goes through the hub (R17). What was sent and is not
acknowledged, and what waits at a hub link, is lost: R17 does not say (log entry 28, DESIGN CHOICE). -/
def linkGoesDown (s : State) (d l : Nat) : State :=
  let p := linkPeer s d l
  let move := fun (a : State) (e m : Nat) =>
    if e = 0 ∨ m = 0 then a
    else (linkOf a e m).queue.foldl (fun t b => flitQueue t e 0 b) a
  let stop := fun (a : State) (e m : Nat) => modLink a e m (fun k => { k with down := true, held := [], again := 0, queue := [] })
  stop (stop (move (move s d l) p.1 p.2) d l) p.1 p.2

/-- A discarded flit: a replay is requested and counted. A flit sent again that fails is a replay without acceptance; at the eighth
the link is declared down (R16 to R18). -/
def flitReject (s : State) (d l : Nat) (again : Bool) : State × List Ev :=
  let k := linkOf s d l
  let n := k.replays + b2n again
  if n < 8 then
    let s1 := modLink s d l (fun k => { k with
      replays := n, queue := flitBody 0 4 ((linkPeer s d l).1, 0) (d, 0) [] :: k.queue })
    (cntAdd s1 rLnkReplayCnt (d * 8 + l) 1, [])
  else
    let s2 := linkGoesDown s d l
    let r := if d = 0 then isolate s2 (l + 1) else if l = 0 then isolate s2 d else (s2, [])
    (r.1, { code := 0x0110, die := d, loc := l } :: r.2)

/-- The link takes a flit at a die: it exists, carries traffic, and neither end is cut off (R17, R18). -/
def flitTaken (s : State) (d l : Nat) : Bool :=
  linkExists s d l && partOn s && linkServes s d l && !cutOff s d && !cutOff s (linkPeer s d l).1

/-- FLIT_RECEIVED: `flit` is what arrives of the flit that the sender puts on the link. An arrival that is another flit than the
one sent and yet passes R16's checks is not an event of the link (log entry 28). The sender waits for credit once 128 flits are
outstanding. -/
def execFlitReceived (die link : Nat) (flit : List Byte) (s : State) : Host.Outcome State Fault Refusal :=
  .next (if flitTaken s die link && flit.length == 72 then
      let p := linkPeer s die link
      match linkSends (linkOf s p.1 p.2) flit with
      | none => s
      | some (sent, again, k) =>
        let s1 := modLink s p.1 p.2 (fun _ => k)
        if flitGood (linkOf s die link) flit then (if flit = sent then flitAccept s1 die link flit else s)
        else
          let r := flitReject s1 die link (again && flitSeq sent == (linkOf s die link).expect)
          raise r.1 r.2
    else s)

/-! ## The halyard (R25 to R27) -/

def hopOf (s : State) (h : Nat) : HopSt := s.hops.getD h ⟨0, false⟩

/-- Hops on the way up the ring from `src` to `dst`, and on the way down. -/
def hopsUp (s : State) (src dst : Nat) : List Nat :=
  let n := nDies s + 1
  (List.range ((dst + n - src) % n)).map (fun i => (src + i) % n)

def hopsDown (s : State) (src dst : Nat) : List Nat := (hopsUp s dst src).reverse

/-- A way without a broken hop; on the LN880-2 both hops are the one hub link (R26). -/
def wayOpen (s : State) (way : List Nat) : Bool :=
  way.all (fun h => !(hopOf s h).broken) && (nDies s != 1 || s.hops.all (fun h => !h.broken))

/-- The way a message takes: up the ring, or down it past a break. -/
def route (s : State) (src dst : Nat) : Option (List Nat) :=
  if wayOpen s (hopsUp s src dst) then some (hopsUp s src dst)
  else if wayOpen s (hopsDown s src dst) then some (hopsDown s src dst) else none

/-- A node is reached from the hub in some direction. -/
def reached (s : State) (d : Nat) : Bool := (route s 0 d).isSome

def modHop (s : State) (h : Nat) (f : HopSt → HopSt) : State := { s with hops := updAt s.hops h f }

/-- A hop fails: the eighth failure in a row is a break, and dies out of reach are isolated (R26, R27). -/
def hopFails (s : State) (h : Nat) : State × List Ev :=
  let s1 := modHop s h (fun x => { x with fails := x.fails + 1 })
  if (hopOf s1 h).fails < 8 then (s1, [])
  else
    let s2 := modHop s1 h (fun x => { x with broken := true })
    ((computeDies s2).filter (fun d => !reached s2 d)).foldl (fun a d => andThen a (fun t => isolate t d))
      (s2, [{ code := 0x0111, die := h, loc := 0 }])

/-- Die of a node, and whether the part has it: a die controller, its 4 pen wardens, their 10 stall control ports each
(R25). -/
def nodeDie : HalNode → Nat
  | .die d => d
  | .warden d _ => d
  | .port d _ => d

def nodeExists (s : State) : HalNode → Bool
  | .die d => d ≤ nDies s
  | .warden d p => isDie s d && p < 4
  | .port d i => isDie s d && i < 40

/-- Key of a node's last message. -/
def nodeKey : HalNode → Nat
  | .die d => d * 64
  | .warden d p => d * 64 + 1 + p
  | .port d i => d * 64 + 5 + i

/-- The way within a compute die, from its controller: the warden of the pen, then the port (R25). A pen without power
takes no message. -/
def treeOpen (s : State) : HalNode → Bool
  | .die _ => true
  | .warden _ _ => true
  | .port d i => (((dieOf s d).pens[penOf i]?).map (penPowered (dieOf s d) (penOf i))).getD false

/-- A message over the hops left; it stops at the first hop that fails. -/
def travel (fails : List Nat) (dst : Nat) (msg : List Byte) : List Nat → State → State × List Ev
  | [], s => ({ s with halyard := mapPut s.halyard dst msg }, [])
  | h :: t, s =>
    if fails.contains h then hopFails s h
    else travel fails dst msg t (modHop s h (fun x => { x with fails := 0 }))

/-- HALYARD_MESSAGE: over the ring from die to die, then down the tree of the destination's die. -/
def execHalyardMessage (src dst : HalNode) (msg : List Byte) (fails : List Nat) (s : State) :
    Host.Outcome State Fault Refusal :=
  .next (if partOn s && nodeExists s src && nodeExists s dst && treeOpen s src && treeOpen s dst && src != dst &&
      msg.length == 16 then
      match route s (nodeDie src) (nodeDie dst) with
      | none => s
      | some way =>
        let r := travel fails (nodeKey dst) msg way s
        raise r.1 r.2
    else s)

/-! ## Pace windows (R32 to R35) -/

/-- The windows of a die with one more, the last ten kept. -/
def addWindow (s : State) (d : Nat) (counts : List Nat) : State :=
  let w : PaceWin := ⟨(enumFrom 0 counts).filter (fun c => monCounts s d c.1)⟩
  modDie s d (fun x =>
    let l := x.paceWins ++ [w]
    { x with paceWins := l.drop (l.length - 10) })

/-- PACE_WINDOW: a 10 us window ends. -/
def execPaceWindow (die : Nat) (counts : List Nat) (s : State) : Host.Outcome State Fault Refusal :=
  .next (if dieOn s die && decide (2 ≤ s.pwr.st) && (die == 0 || pensLive s) then
      let s1 := addWindow s die counts
      if paceMeas s1 die < agedFloor s1 die then
        let run := (dieOf s1 die).lowRun + 1
        let s2 := modDie s1 die (fun x => { x with lowRun := run, belowCnt := min 0xFFFF (x.belowCnt + 1) })
        if 10 ≤ run ∧ (run - 10) % 1000 = 0 then raise s2 [{ code := 0x0101, die := die, loc := 0 }] else s2
      else modDie s1 die (fun x => { x with lowRun := 0 })
    else s)

/-! ## The audit (R38 to R43) -/

/-- State of a view code (R30); the data path has no code above 3. -/
def viewOf (n : Nat) : Option View :=
  if n = 0 then some .off else if n = 1 then some .ready else if n = 2 then some .test
  else if n = 3 then some .fenced else none

/-- The two views agree: a FAULTED unit reads FENCED (R30). -/
def viewsAgree (u : UnitSt) : Bool := u.mgmt == u.data || (u.mgmt == .faulted && u.data == .fenced)

/-- One unit at an audit: its new state and 0 nothing, 1 MGMT_DATA_SKEW, 2 MGMT_DATA_FAULT (R39 to R41). -/
def auditUnit (u : UnitSt) : UnitSt × Nat :=
  if u.unack then (u, 0)
  else if viewsAgree u then ({ u with mism := 0 }, 0)
  else if u.mism = 0 then ({ u with mgmt := .fenced, mism := 1 }, 1)
  else if u.mism = 1 then ({ u with mism := 2 }, 0)
  else if u.mism = 2 then ({ u with mgmt := .faulted, mism := 3 }, 2)
  else (u, 0)

/-- Blocks with die-level units and their instances: on a compute die, and on the hub (R24, R38). -/
def unitInstances (s : State) (d blk : Nat) : Nat :=
  if d = 0 then
    (if [0x02, 0x03, 0x04, 0x05, 0x06, 0x10, 0x11, 0x14, 0x15, 0x16, 0x17].contains blk then 1
     else if blk = 0x12 then 2 else if blk = 0x13 then nDies s else 0)
  else if [0x07, 0x08, 0x09, 0x0A, 0x0C, 0x0D, 0x0E, 0x0F].contains blk then 1
  else if blk = 0x0B then 5 else if blk = 0x12 then 4 else if blk = 0x13 then (if nDies s = 1 then 1 else 3) else 0

def setUnit (s : State) (d key : Nat) (u : UnitSt) : State :=
  modDie s d (fun x => { x with units := mapSet readyUnit x.units key u })

/-- A stage unit takes work on a die: the die and the unit are in service (R38, R40). -/
def stageReady (s : State) (d blk : Nat) : Bool :=
  !dieFenced s d && !dieOff s d && (unitOf s d blk 0).mgmt == .ready

def setStall (s : State) (d i : Nat) (f : UnitSt → UnitSt) : State :=
  modDie s d (fun x => { x with stalls := updAt x.stalls i (fun t => { t with view := f t.view }) })

/-- A reported data-path view, for a unit of the die. -/
def observe (d : Nat) (s : State) (o : UnitObs) : State :=
  match viewOf o.view with
  | none => s
  | some v =>
    if o.code < 512 then
      (if d ≠ 0 ∧ stallDie o.code = d then setStall s d (stallLocal o.code) (fun u => { u with data := v }) else s)
    else if o.code / 2048 = 1 then
      (if d ≠ 0 ∧ o.code % 32 / 4 + 1 = d then setPen s d (o.code % 4) (fun u => { u with data := v }) else s)
    else if 4096 ≤ o.code ∧ o.code < 8192 ∧ o.code % 128 < unitInstances s d (o.code / 128 % 32) then
      setUnit s d (o.code % 4096) { mapGet readyUnit (dieOf s d).units (o.code % 4096) with data := v }
    else s

/-- A stall's views as an audit finds them: both OFF while its pen has no power (R30, R468); a command to the pen that
is still unacknowledged is one to its stalls. -/
def auditedStall (x : Die) (p : Nat) (pen : UnitSt) (u : UnitSt) : UnitSt × Nat :=
  if u.unack || pen.unack then (u, 0)
  else if !penPowered x p pen then ({ u with mism := 0 }, 0)
  else auditUnit u

/-- Audits a stall. -/
def auditStall (d : Nat) (a : State × List Ev) (i : Nat) : State × List Ev :=
  andThen a (fun s =>
    match (dieOf s d).stalls[i]?, (dieOf s d).pens[penOf i]? with
    | some t, some p =>
      let r := auditedStall (dieOf s d) (penOf i) p t.view
      if r.2 = 1 then
        let f := fenceStall s d i r.1
        (f.1, { code := 0x0120, die := d, loc := stallIdx d i } :: f.2)
      else
        let s1 := setStall s d i (fun _ => r.1)
        if r.2 = 2 then
          let f := fencePen s1 d (penOf i) 0x0121
          (f.1, { code := 0x0121, die := d, loc := stallIdx d i } :: f.2)
        else (s1, [])
    | _, _ => (s, []))

/-- A pen whose warden's views first differ is FENCED: capacity follows (R40, R128). -/
def penSkew (s : State) (d p : Nat) : State × List Ev :=
  let l := penLeaves s d p
  let s1 := handOver l.1 d
  let w := lifeEvent s1 7 d [p, 0x0120, 3]
  (w.1, l.2 ++ w.2 ++ capacityEvents w.1 d)

/-- The die controller gates the power of a pen whose warden is at fault (R41): its stalls lose what they hold. -/
def cutPen (s : State) (d p : Nat) : State :=
  modDie s d (fun x => { x with
    cutPens := if x.cutPens.contains p then x.cutPens else x.cutPens ++ [p],
    stalls := (enumFrom 0 x.stalls).map (fun t => if penOf t.1 = p then stallPowerLost t.2 else t.2) })

def auditPen (d : Nat) (a : State × List Ev) (p : Nat) : State × List Ev :=
  andThen a (fun s =>
    match (dieOf s d).pens[p]? with
    | none => (s, [])
    | some u =>
      let r := auditUnit u
      let s1 := setPen s d p (fun _ => r.1)
      let code := 2048 + (d - 1) * 4 + p
      if r.2 = 1 then
        let f := penSkew s1 d p
        (f.1, { code := 0x0120, die := d, loc := code } :: f.2)
      else if r.2 = 2 then
        let f := fencePen (cutPen s1 d p) d p 0x0121
        (f.1, { code := 0x0121, die := d, loc := code } :: f.2)
      else (s1, []))

def auditDieUnit (d : Nat) (a : State × List Ev) (key : Nat) : State × List Ev :=
  andThen a (fun s =>
    let r := auditUnit (mapGet readyUnit (dieOf s d).units key)
    let s1 := setUnit s d key r.1
    if r.2 = 1 then (s1, [{ code := 0x0120, die := d, loc := 4096 + key }])
    else if r.2 = 2 then
      let f := fenceDie s1 d .unitFault
      (f.1, { code := 0x0121, die := d, loc := 4096 + key } :: f.2)
    else (s1, []))

/-- AUDIT: every unit of a die, its stalls, its pen wardens and its die-level units. -/
def execAudit (die : Nat) (obs : List UnitObs) (s : State) : Host.Outcome State Fault Refusal :=
  .next (if dieOn s die && decide (((dieOf s die).audits + 1) * 1000000 ≤ s.raw + 10000) then
      let s1 := modDie (obs.foldl (observe die) s) die (fun x => { x with audits := x.audits + 1 })
      let a1 := if die = 0 then (s1, []) else (List.range 40).foldl (auditStall die) (s1, [])
      let a2 := if die = 0 then a1 else (List.range 4).foldl (auditPen die) a1
      let a3 := ((dieOf a2.1 die).units.map (·.1)).foldl (auditDieUnit die) a2
      raise a3.1 a3.2
    else s)

end Sys2Proof.Machine
end

