-- ==== Sys2Proof/Machine/Leave.lean ====
section
/-!
DEFINITION. Leave (R232, R233, R471 to R474), thermal limits (R475) and the resets a trip or a supply cause (R476, R518).
Conventions: log entry 31 (DEDUCED), log entry 43 (DEDUCED), log entry 56 (DEDUCED), log entry 83 (DEDUCED).
-/
namespace Sys2Proof.Machine

/-! ## Requests -/

/-- Block of a stage operator (R94). -/
def opBlock (o : OpDecl) : Nat :=
  let c := opCode o
  if c = cDeskew then 0x07 else if c = cVoxelise then 0x08 else if c = cCurve then 0x09 else if c = cRulebook then 0x0A
  else if c = cMapLookup ∨ c = cMapUpdate then 0x0D else if c = cScatter then 0x0E else 0x0F

/-- The package of a frame's context. -/
def pkgOfFrame (s : State) (f : Frame) : PkgDecl :=
  match ctxOf s f.ctx with
  | some c => declOf s c.pkg
  | none => declOf s 0

/-- The operator a frame runs. -/
def runOp (s : State) (f : Frame) : OpDecl := opAt (pkgOfFrame s f) f.run.op

/-- The operator that the units before the order work on for a frame: deskew, then voxelise, then curve order. -/
def earlyOp (f : Frame) : Nat :=
  if f.voxDone then 2 else if (f.dskDone.map (·.2)).sum < f.pts.length then 0 else 1

/-- Position of the operator a requester runs for a frame: deskew, voxelise and curve order are the first three of
every package; a memory port streams for the one of them in progress until the frame is ordered; every other requester serves
the frame's present run. -/
def leaveOp (f : Frame) (who : Nat) : Nat :=
  if who = 512 + 0x07 then 0 else if who = 512 + 0x08 then 1 else if who = 512 + 0x09 then 2
  else if 768 ≤ who ∧ f.ordered = false then earlyOp f else f.run.op

/-- The operator a requester runs for a frame. -/
def opFor (s : State) (f : Frame) (who : Nat) : OpDecl := opAt (pkgOfFrame s f) (leaveOp f who)

/-- The requester serves the frame on the die: a stall that serves its run, the unit of a stage operator, or a memory port, 768
+ its channel, that streams at full rate for the run or for a unit before the order (R472). -/
def servesRun (s : State) (f : Frame) (d who : Nat) : Bool :=
  let o := opFor s f who
  if who < 512 then
    f.run.dies.contains d && isStallOp o && stallDie who == d && f.run.stalls.contains who
  else if 768 ≤ who then decide (who < 772) && (if f.ordered then f.run.dies.contains d else frameOn s d f)
  else !isStallOp o && who == 512 + opBlock o && (if leaveOp f who < 3 then frameOn s d f else f.run.dies.contains d)

/-- An item of a requester for what it runs for the frame. -/
def isItem (f : Frame) (who : Nat) (g : LeaveItem) : Bool :=
  g.who == who && g.ctx == f.ctx && g.num == f.num && g.op == leaveOp f who

/-- Leave a context holds on a die, at the present level. -/
def heldLeave (s : State) (d x : Nat) : Nat :=
  (((dieOf s d).grants.filter (fun g => g.ctx == x)).map (fun g => leaveAt g.fig (leaveLevel s))).sum

/-- A request lies within its context's reservation (R473). -/
def withinReserve (s : State) (d x fig : Nat) : Bool :=
  match ctxOf s x with
  | some c => c.guaranteed && decide (heldLeave s d x + leaveAt fig (leaveLevel s) ≤ ctxLeaveAt s c (leaveLevel s))
  | none => false

def guarCtx (s : State) (x : Nat) : Bool :=
  match ctxOf s x with
  | some c => c.guaranteed
  | none => false

/-- Inserts a request in order of arrival, ties by stall index and then stage units (R473). -/
def leaveInsert (g : LeaveItem) : List LeaveItem → List LeaveItem
  | [] => [g]
  | x :: l => if x.at_ < g.at_ || (x.at_ == g.at_ && x.who ≤ g.who) then x :: leaveInsert g l else g :: x :: l

/-- A guaranteed request beyond its reservation: counted and raised (R473, R479, R489). -/
def overReserve (s : State) (d x : Nat) : State × List Ev :=
  (modTot s d (fun t => { t with overs := t.overs + 1 }), [{ code := 0x0150, die := d, loc := x, limited := true }])

/-- A stall or stage unit asks its die's leave manager (R232, R472). -/
def askLeave (s : State) (ctx num die who : Nat) : State × List Ev :=
  match frameOf s ctx num with
  | none => (s, [])
  | some f =>
    let dv := dieOf s die
    if servesRun s f die who && (opFor s f who).cost.leaveReq && !(dv.grants.any (isItem f who)) &&
        !(dv.requests.any (isItem f who)) then
      let fig := (opFor s f who).cost.leaveMw
      let res := withinReserve s die ctx fig
      let g : LeaveItem := ⟨who, ctx, num, leaveOp f who, fig, res, s.raw⟩
      let s1 := modDie s die (fun x => { x with requests := leaveInsert g x.requests })
      let s2 := if who < 512 then cntAdd s1 rDcuStallCnt (who * 8 + 5) 1 else s1
      if guarCtx s ctx && !res then overReserve s2 die ctx else (s2, [])
    else (s, [])

/-- LEAVE_REQUEST: a stall or stage unit asks before a tile group or run. -/
def execLeaveRequest (ctx num die who : Nat) (s : State) : Host.Outcome State Fault Refusal :=
  .next (raise (askLeave s ctx num die who).1 (askLeave s ctx num die who).2)

/-! ## Grants (R473) -/

/-- Moves a request to the grants; a grant later than 1.5 us is counted (R254, R479). -/
def grantItem (s : State) (d : Nat) (g : LeaveItem) : State :=
  let s1 := modDie s d (fun x => { x with requests := x.requests.filter (· != g), grants := x.grants ++ [g] })
  if g.at_ + 1500 < s.raw then
    let s2 := modTot s1 d (fun t => { t with late := t.late + 1 })
    if g.who < 512 then cntAdd s2 rDcuStallCnt (g.who * 8 + 6) 1 else s2
  else s1

/-- An unreserved request fits the budget. -/
def unresFits (s : State) (d : Nat) (g : LeaveItem) : Bool :=
  let l := leaveLevel s
  decide (baseLeave s d l + leaveRes s d l + unresLeave s d l + leaveAt g.fig l ≤ leaveBudget s d)

/-- Grants the head of the unreserved requests if it fits; one that does not holds the later ones (R473). -/
def grantUnreserved (s : State) (d : Nat) : State :=
  match (dieOf s d).requests.find? (fun g => !g.reserved) with
  | some g => if unresFits s d g then grantItem s d g else s
  | none => s

/-- LEAVE_GRANT: the next request that may be granted. While the die's thermal alarm holds, none is (R475). -/
def execLeaveGrant (die : Nat) (s : State) : Host.Outcome State Fault Refusal :=
  .next (if isDie s die = false ∨ (dieOf s die).therm.alarmed = true then s
    else match (dieOf s die).requests.find? (·.reserved) with
      | some g =>
        if withinReserve s die g.ctx g.fig then grantItem s die g
        else
          let s1 := modDie s die (fun x =>
            { x with requests := x.requests.map (fun r => if r = g then { r with reserved := false } else r) })
          let o := overReserve s1 die g.ctx
          raise o.1 o.2
      | none => grantUnreserved s die)

/-- A requester holds its leave for the frame's run. -/
def holdsLeave (s : State) (f : Frame) (d who : Nat) : Bool :=
  !(opFor s f who).cost.leaveReq || (dieOf s d).grants.any (isItem f who)

/-- A requester returns its leave for the frame's run. -/
def returnLeave (s : State) (f : Frame) (d who : Nat) : State :=
  modDie s d (fun x => { x with grants := x.grants.filter (fun g => !isItem f who g),
                                requests := x.requests.filter (fun g => !isItem f who g) })

/-- The memory ports return the leave of a frame's operator with its end. -/
def returnStreams (s : State) (f : Frame) (op : Nat) : State :=
  let mine := fun (g : LeaveItem) => g.ctx == f.ctx && g.num == f.num && decide (768 ≤ g.who) && g.op == op
  { s with dies := s.dies.map (fun x =>
      { x with grants := x.grants.filter (fun g => !mine g), requests := x.requests.filter (fun g => !mine g) }) }

/-- A frame that ends returns all its leave. -/
def dropLeave (s : State) (ctx num : Nat) : State :=
  let mine := fun (g : LeaveItem) => g.ctx == ctx && g.num == num
  { s with dies := s.dies.map (fun x =>
      { x with grants := x.grants.filter (fun g => !mine g), requests := x.requests.filter (fun g => !mine g) }) }

/-! ## Thermal limits (R475, R479) -/

/-- A die's thermal configuration. -/
def thermCfg (s : State) (d : Nat) : Nat := if d = 0 then cfgGet s rMgpTherm 0 else cfgGet s rDcuTherm d

/-- The junction reading as its field reports it. -/
def thermNow (temp : Int) : Nat := min 255 (max 0 temp).toNat

/-- The die's thermal fields apply: waiting writes and its part of a commit (R100, R485). -/
def thermApply (s : State) (die : Nat) : State := blockBoundary s (if die = 0 then 0x14 else 0x01) die

/-- A new reading of a die's junction: peak, cycles and alarm (R475, R479). -/
def thermalReading (s : State) (die : Nat) (temp : Int) : State :=
  let v := thermNow temp
  let t := (dieOf s die).therm
  let cycle := t.cold && decide (85 < temp)
  let alarmC := bitsOf (thermCfg s die) 31 24
  let hyst := bitsOf (thermCfg s die) 23 16
  let up := !t.alarmed && decide (alarmC ≤ v)
  let down := t.alarmed && decide (v + hyst ≤ alarmC)
  let s1 := modDie s die (fun x => { x with therm :=
    { now := v, peak := max v t.peak, alarmed := (t.alarmed || up) && !down,
      cold := (t.cold || decide (temp < 45)) && !cycle } })
  let s2 := modTot s1 die (fun x => { x with cycles := x.cycles + b2n cycle, peak := max v x.peak })
  if up then
    let w := lifeEvent s2 9 die [1, v]
    raise w.1 ({ code := 0x0151, die := die, loc := 0 } :: w.2)
  else if down then
    let w := lifeEvent s2 9 die [2, v]
    raise w.1 ({ code := 0x0152, die := die, loc := 0 } :: w.2)
  else s2

/-- THERMAL_SENSOR_UPDATE of a die with power, one that gating has turned off too: staged thermal fields apply, then the reading
is taken (R475, R552). -/
def execThermalSensorUpdate (die : Nat) (temp : Int) (s : State) : Host.Outcome State Fault Refusal :=
  .next (if partOn s && (dieOf s die).powered && (die == 0 || isDie s die) then thermalReading (thermApply s die) die temp else s)

/-! ## Device resets (R518) -/

/-- A device reset with a cause: everything is lost but the backup domain, the one-time-programmable fields and the
flash; the straps are sampled again at the release, and the control pins take their levels of R550. -/
def deviceReset (s : State) (cause : Nat) (trip : Option Nat) : State :=
  let pins := { s.pins with cmpEn := false, vsel := 1, hint := false, tripN := true }
  let b := { s.backup with cause := cause, trip := match trip with | some d => some d | none => s.backup.trip }
  State.coldReset s.variant pins b (lifeKept s.life) s.nv s.free s.pending

/-- CRITICAL_TRIP: a junction reaches 125 C (R476). A part that is OFF stays so: only the trip's outputs and its latch follow. -/
def execCriticalTrip (die : Nat) (s : State) : Host.Outcome State Fault Refusal :=
  .next (if s.pins.supplied && decide (die ≤ nDies s) then
      let s1 := if s.boot.phase = .off then { s with backup := { s.backup with trip := some die } } else deviceReset s 4 (some die)
      { s1 with pins := { s1.pins with tripN := false, pwrReq := false } }
    else s)

end Sys2Proof.Machine
end

