-- ==== Sys2Proof/Machine/Placement.lean ====
section
/-!
DEFINITION. Data in the paddocks and main memory of a die: the byte layout of rows with their scale and tag arrays (R258,
R278, R320), and the arrays that the device and the package layout place (R213, R231, R234, R267). Where an array stands
is opaque; no result depends on it (R234).
Conventions: log entry 73 (DESIGN CHOICE).
-/
namespace Sys2Proof.Machine

/-- An array that a die holds in its paddocks (R213, R215, R267, R320, R343, R358). -/
inductive PadArray where
  | weights (handle tensor : Nat)
  | tensor (ctx num t part : Nat)
  | map (ctx num m part : Nat)
  | cells (ctx num : Nat)
  | list (ctx num l row : Nat)
  | adapted (ctx t : Nat)
  | halo (ctx num t row : Nat)
  | spill (ctx num tile : Nat)
  | state (ctx : Nat)
  deriving DecidableEq, Repr

/-- What names the array to the placement. -/
def PadArray.code : PadArray → List Nat
  | .weights h t => [0, h, t]
  | .tensor c n t p => [1, c, n, t, p]
  | .map c n m p => [2, c, n, m, p]
  | .halo c n t r => [3, c, n, t, r]
  | .spill c n t => [4, c, n, t]
  | .state c => [5, c]
  | .cells c n => [6, c, n]
  | .list c n l r => [7, c, n, l, r]
  | .adapted c t => [8, c, t]

/-- First byte of a tensor among a package's weights: each begins on a line. -/
def weightLine (p : PkgDecl) (t : Nat) : Nat :=
  ((List.range t).map (fun i => ceilDiv (tensorBytes p i).length 64)).sum

/-- Lines of a package's weights. -/
def weightLines (p : PkgDecl) : Nat := weightLine p p.weights.length

/-- Lines of a die's paddocks in which an array stands: the weight pool's that the package has, or the working space of the
context, which is what remains for a best-effort one (R108, R132, R451). -/
def padSpans (s : State) (d : Nat) (a : PadArray) : List (Nat × Nat) :=
  let own := fun (x : Nat) =>
    let l := spansOf s d 0 (ownWork x)
    if l = [] then [zoneTail s d 0 12] else l
  match a with
  | .weights h _ => spansOf s d 0 (ownWeights h)
  | .tensor x _ _ _ => own x
  | .map x _ _ _ => own x
  | .cells x _ => own x
  | .list x _ _ _ => own x
  | .adapted x _ => own x
  | .halo x _ _ _ => own x
  | .spill x _ _ => own x
  | .state x => own x

/-- Line of the array's first byte in those lines. -/
def padFirst (s : State) (d : Nat) (a : PadArray) : Nat :=
  match a with
  | .weights h t => weightLine (declOf s h) t
  | x => Config.padLine d x.code % max 1 ((padSpans s d x).map (·.2)).sum

/-- Cluster and address of line i of an array. -/
def padPlace (s : State) (d : Nat) (a : PadArray) (i : Nat) : Nat × Nat :=
  let l := spanLine (padSpans s d a) (padFirst s d a + i)
  (l % 5, l / 5 % 131072 * 64)

/-- Bytes in lines of 64, from line i on. -/
def byLines : Nat → Nat → List Byte → List (Nat × List Byte)
  | 0, _, _ => []
  | n + 1, i, b => if b = [] then [] else (i, b.take 64) :: byLines n (i + 1) (b.drop 64)

/-- An array that stands in the paddocks at once. -/
def padStore (s : State) (d : Nat) (a : PadArray) (b : List Byte) : State :=
  modDie s d (fun x => { x with pads := (byLines b.length 0 b).foldl (fun l e =>
    let k := padPlace s d a e.1
    updAt l k.1 (fun m => memWrite m k.2 e.2)) x.pads })

/-- An array that a unit of the die moves to the paddocks: its lines wait for grants at the bank ports (R237, R242). -/
def padMove (s : State) (d req : Nat) (for_ : ReadFor) (a : PadArray) (b : List Byte) : State :=
  modDie s d (fun x => { x with xfers := x.xfers ++ (byLines b.length 0 b).map (fun e =>
    let k := padPlace s d a e.1
    ⟨req, k.1, k.2, e.2, none, for_⟩) })

/-- The first n bytes of an array that a unit reads, and the place that each line goes to: loft entries for the loft
controller, main memory for the memory port. -/
def padBack (s : State) (d req : Nat) (for_ : ReadFor) (a : PadArray) (n : Nat) (to_ : Nat → Nat) : State :=
  modDie s d (fun x => { x with xfers := x.xfers ++ (List.range (ceilDiv n 64)).map (fun i =>
    let k := padPlace s d a i
    ⟨req, k.1, k.2, List.replicate (min 64 (n - 64 * i)) 0, some (to_ i), for_⟩) })

/-- The first n bytes of an array that move to main memory from an address on. -/
def padOut (s : State) (d : Nat) (for_ : ReadFor) (a : PadArray) (n addr : Nat) : State :=
  padBack s d 12 for_ a n (fun i => addr + 64 * i)

/-- No unit of a die has a line to move for some work. -/
def movesDone (s : State) (d : Nat) (p : Xfer → Bool) : Bool := !((dieOf s d).xfers.any p)

/-! ## Rows (R258, R320) -/

/-- Up to 32 elements of w bits as one little-endian integer. -/
def blockBytes (w : Nat) (l : List Nat) : List Byte :=
  leBytes (ceilDiv (w * l.length) 8) ((enumFrom 0 l).map (fun e => e.2 % 2 ^ w * 2 ^ (w * e.1))).sum

/-- A row's elements as they are stored. -/
def rowData (f : Nat) (r : Row) : List Byte :=
  (List.range (ceilDiv r.codes.length 32)).flatMap (fun i => blockBytes (fmtBits f) ((r.codes.drop (32 * i)).take 32))

/-- How arrays come to the paddocks: with the accumulator drains of the stalls, whose accesses have had their grants
(R231; log entry 73), or by a unit of the die. -/
inductive PadWay where
  | direct
  | unit (req : Nat) (for_ : ReadFor)
  deriving DecidableEq, Repr

def padPut (s : State) (d : Nat) (way : PadWay) (a : PadArray) (b : List Byte) : State :=
  match way with
  | .direct => padStore s d a b
  | .unit req for_ => padMove s d req for_ a b

/-- A die's rows of a tensor: the data, the scale array and the tag array, each at its place. -/
def storeRows (s : State) (d : Nat) (way : PadWay) (name : Nat → PadArray) (f : Nat) (rows : List Row) : State :=
  padPut (padPut (padPut s d way (name 0) (rows.flatMap (rowData f)))
    d way (name 1) (rows.flatMap (fun r => r.scales.map (BitVec.ofNat 8))))
    d way (name 2) (rows.map (fun r => BitVec.ofNat 8 r.tag))

/-! ## The save area (R461) -/

/-- Bytes of a channel. -/
def chanBytes (m : MemChan) : Nat := if m.cap = 0 then 0 else 2 ^ m.cap * 1073741824

/-- Bytes of a die's main memory. -/
def memBytes (x : Die) : Nat := (x.mmc.map chanBytes).sum
def dieMemBytes (s : State) (d : Nat) : Nat := memBytes (dieOf s d)

/-- First byte of the save area: the top 64 MiB of the die's memory. -/
def saveBase (x : Die) : Nat := memBytes x - 67108864

/-- A die's paddocks and hot cache go to its save area. -/
def saveDie (x : Die) : Die :=
  let m := (enumFrom 0 x.pads).foldl (fun m p => memMove p.2 0 (2 ^ 23) m (saveBase x + p.1 * 2 ^ 23)) x.mem
  { x with mem := memMove (mapGet [] x.sram 8) 0 3145728 m (saveBase x + 5 * 2 ^ 23) }

/-- They come back from it. -/
def restoreDie (x : Die) : Die :=
  let hot := memMove x.mem (saveBase x + 5 * 2 ^ 23) 3145728 [] 0
  { x with pads := (enumFrom 0 x.pads).map (fun p => memMove x.mem (saveBase x + p.1 * 2 ^ 23) (2 ^ 23) [] 0),
           sram := if hot = [] then x.sram else mapPut x.sram 8 hot }

/-! ## Packages (R107, R234) -/

/-- Line of hub main memory that holds line i of a package's copy, and of a tensor within it; which line of the copy a
tensor begins at is the package layout's (R107, log entry 73). -/
def copyPlace (s : State) (handle i : Nat) : Nat := spanLine (spansOf s 0 9 (ownCopy handle)) i
def tensorLine (s : State) (handle tensor i : Nat) : Nat :=
  let n := ((spansOf s 0 9 (ownCopy handle)).map (·.2)).sum
  copyPlace s handle ((Config.copyLine handle tensor + i) % max 1 n)

/-- A package's weights become resident on a die: they take lines of the weight pool, and the memory port moves them there
from main memory (R108, R242). -/
def placeWeights (handle : Nat) (p : PkgDecl) (s : State) (d : Nat) : State :=
  let s1 := allocateLines s d 0 8 (ownWeights handle) (weightLines p)
  (List.range p.weights.length).foldl (fun a t => padMove a d 12 .other (.weights handle t) (tensorBytes p t)) s1

/-- The weights of the packages resident on a die are put there again. -/
def reloadWeights (way : PadWay) (s : State) (d : Nat) : State :=
  (residentPkgs s d).foldl (fun a h => (List.range (declOf s h).weights.length).foldl (fun b t =>
    padPut b d way (.weights h t) (tensorBytes (declOf s h) t)) a) s

/-- The package's body goes to the package area of hub main memory (R107). -/
def placePackage (s : State) (handle : Nat) (body : List Byte) : State :=
  let s1 := allocateLines s 0 9 11 (ownCopy handle) (ceilDiv body.length 64)
  modDie s1 0 (fun x => { x with mem := (byLines body.length 0 body).foldl (fun m e =>
    memWrite m (64 * copyPlace s1 handle e.1) e.2) x.mem })

/-! ## A context's state (R132, R311) -/

/-- Adaptable tensors of a package, and the bytes of their copies, each from a line on. -/
def adaptables (p : PkgDecl) : List Nat := (List.range p.weights.length).filter (fun t => whAdaptable (wHead p t))
def adaptBytes (p : PkgDecl) (l : List Nat) : Nat := (l.map (fun t => ceilDiv (tensorBytes p t).length 64 * 64)).sum

/-- Bytes of a context's state besides the copies of its adaptable tensors, which its working bytes count too (R114, R311). -/
def plainBytes (p : PkgDecl) : Nat := ceilDiv (p.workBytes - adaptBytes p (adaptables p)) 64 * 64

/-- Place of a copy behind the rest of the state. -/
def adaptOff (p : PkgDecl) (t : Nat) : Nat := plainBytes p + adaptBytes p ((adaptables p).filter (· < t))

def pkgOfCtx (s : State) (x : Nat) : PkgDecl := declOf s (((ctxOf s x).map (·.pkg)).getD 0)

/-- Main-memory address of a context's state on a die: its allocation there, or what remains above every other. -/
def stateAddr (s : State) (d ctx : Nat) : Nat :=
  let l := spansOf s d 9 (ownWork ctx)
  64 * (if l = [] then (zoneTail s d 9 12).1 else spanLine l 0)

/-- The context's state moves from main memory into the paddocks, and back: its working space and the copies of its adaptable
tensors. -/
def stateIn (s : State) (d ctx : Nat) (for_ : ReadFor) : State :=
  let p := pkgOfCtx s ctx
  let a := stateAddr s d ctx
  let m := (dieOf s d).mem
  (adaptables p).foldl (fun b t => padMove b d 12 for_ (.adapted ctx t) (memRead m (a + adaptOff p t) (tensorBytes p t).length))
    (padMove s d 12 for_ (.state ctx) (memRead m a (plainBytes p)))

def stateOut (s : State) (d ctx : Nat) : State :=
  let p := pkgOfCtx s ctx
  let a := stateAddr s d ctx
  (adaptables p).foldl (fun b t => padOut b d .other (.adapted ctx t) (tensorBytes p t).length (a + adaptOff p t))
    (padOut s d .other (.state ctx) (plainBytes p) a)

/-- A context's copy: an adaptable tensor differs from the package's at the listed offsets (R311). -/
def ctxTensor (c : Ctx) (p : PkgDecl) (t : Nat) : List Byte :=
  ((mapFind c.adapted t).getD []).foldl (fun l e => overlay l e.1 [e.2]) (tensorBytes p t)

/-- A context's copies of its package's adaptable tensors stand in the paddocks of a die. -/
def placeAdapted (way : PadWay) (c : Ctx) (p : PkgDecl) (s : State) (d : Nat) : State :=
  (adaptables p).foldl (fun a t => padPut a d way (.adapted c.id t) (ctxTensor c p t)) s

/-- Those of a best-effort context begin in its state in main memory. -/
def stateBegin (c : Ctx) (p : PkgDecl) (s : State) (d : Nat) : State :=
  let a := stateAddr s d c.id
  (adaptables p).foldl (fun b t => modDie b d (fun x => { x with mem := memWrite x.mem (a + adaptOff p t) (tensorBytes p t) })) s

end Sys2Proof.Machine
end

