-- ==== Sys2Proof/Machine/Frames.lean ====
section
/-!
DEFINITION. Frames of a context from opening to acceptance or refusal: the halves of the stores (R180, R181, R400),
closes (R116 to R119), the two passes (R122 to R126), refusals (R127, R131) and the end of a train (R118).
Conventions: log entry 35 (DEDUCED), log entry 44 (DEDUCED), log entry 45 (DEDUCED), log entry 67 (DESIGN CHOICE),
log entry 73 (DESIGN CHOICE).
-/
namespace Sys2Proof.Machine

/-! ## Small accessors -/

def modCtx (s : State) (x : Nat) (f : Ctx → Ctx) : State :=
  { s with ctxs := s.ctxs.map (fun c => if c.id == x then f c else c) }

/-- A frame of a context that is not sealed. -/
def unsealed (x : Nat) (f : Frame) : Bool := f.ctx == x && f.phase != .sealed

def modFrameAt (s : State) (x num : Nat) (g : Frame → Frame) : State :=
  { s with frames := s.frames.map (fun f => if unsealed x f && f.num == num then g f else f) }

/-- The open frame of a context. -/
def openFrame (s : State) (x : Nat) : Option Frame := s.frames.find? (fun f => f.ctx == x && f.phase == .opened)

def blankRun : Run :=
  { op := 0, dies := [], stalls := [], tiles := [], rows := [], parts := [], merges := [], done := [], selParts := [],
    halo := [], preFlags := [] }

/-! ## Sensors that list a context (R146, R160) -/

/-- Contexts a steering entry lists; a disabled entry lists none. -/
def steerLists (e : Steer) : List Nat := if e.kind = 0 then [] else e.ctxs

/-- The sensor's entry lists a context with an open train. -/
def listsOpen (s : State) (e : Steer) : Bool :=
  (steerLists e).any (fun x => match ctxOf s x with | some c => trainOpen c | none => false)

def sensorOf (s : State) (k : Nat) : Sensor := mapGet ⟨none, none, false⟩ s.sensors k

def modSensor (s : State) (k : Nat) (f : Sensor → Sensor) : State :=
  { s with sensors := mapSet ⟨none, none, false⟩ s.sensors k (f (sensorOf s k)) }

/-- Starts or breaks the listing of every sensor, after a change of a train or of an entry. -/
def refreshListed (s : State) : State :=
  s.steer.foldl (fun a e =>
    if listsOpen a e.2 then
      (if (sensorOf a e.1).listed.isSome then a else modSensor a e.1 (fun k => { k with listed := some a.raw }))
    else modSensor a e.1 (fun k => { k with listed := none })) s

/-- The instant a sensor's silence counts from (R160). -/
def silenceFrom (k : Sensor) : Option Nat :=
  match k.listed, k.lastPt with
  | some a, some b => some (max a b)
  | some a, none => some a
  | none, _ => none

/-- A sensor is under the silence of R160. -/
def underSilence (s : State) (k : Nat) : Bool :=
  let ms := cfgFld s rPdeIngestCfg 0 35 20
  match silenceFrom (sensorOf s k) with
  | some t => ms != 0 && decide (t + ms * 1000000 ≤ s.raw)
  | none => false

/-- A sensor of an entry that lists the context is under silence (R403). -/
def silentFor (s : State) (x : Nat) : Bool :=
  s.steer.any (fun e => (steerLists e.2).contains x && underSilence s e.1)

/-! ## Store halves (R180, R181, R400) -/

/-- No frame of the context holds the half of the point store, or of the checker store, that a frame's index names. -/
def halfFree (s : State) (x idx : Nat) (ck : Bool) : Bool :=
  !(s.frames.any (fun g => g.ctx == x && g.idx % 2 == idx % 2 && (if ck then g.ckHalf else g.psHalf)))

/-- A frame at its opening. -/
def newFrame (s : State) (x idx num prevClose sched : Nat) : Frame :=
  { ctx := x, num := num, phase := .opened, idx := idx, prevClose := prevClose, sched := sched, close := 0, closeRaw := 0,
    deadline := 0, cutoff := 0, lead := 0, pts := [], chkUpto := 0, chkPts := [], psHalf := halfFree s x idx false,
    ckHalf := halfFree s x idx true, psHeld := false, ckHeld := false, silent := false, poses := [], poseEvents := [],
    dskDone := [], dpts := [], voxNext := 0, cells := [], truncated := false, voxDone := false, pairs := [],
    pass := 0, refusal := 0, refRaw := 0, cum := [], nCells := 0, retry := 0, retryEnded := false,
    shares := [], csuStarted := false, csuDone := [], ordered := false, order := [], cuts := [], levels := [], books := [],
    tensors := [], maps := [], lists := [], run := blankRun, poisoned := false, chkReady := false, chkBad := false,
    chk := none, mlIn := false, ml := none, grads := [], gradsOff := [], background := false, epochs := [], followed := false,
    stamps := [] }

/-- Opens the next frame of a train. -/
def addFrame (s : State) (c : Ctx) (t : Train) : State :=
  { s with frames := s.frames ++ [newFrame s c.id t.n t.num t.prev (t.first + t.n * c.period * 1000)] }

/-! ## Map tables a frame is bound to (R390, R391) -/

/-- Frames bound to an epoch of a table. -/
def boundTo (s : State) (t e : Nat) : Bool :=
  s.frames.any (fun f => (frameLive f || f.phase = .waiting) && f.epochs.contains (t, e))

/-- Old rows are freed once no frame is bound to their epoch. -/
def settleTables (s : State) : State :=
  { s with tables := s.tables.map (fun t =>
      match t.oldRows with
      | some o => if boundTo s t.id o.1 then t else { t with oldRows := none }
      | none => t) }

/-- Epochs of the tables a package uses. -/
def epochsOf (s : State) (p : PkgDecl) : List (Nat × Nat) :=
  (pkgTables p).filterMap (fun t => (tableOf s t).map (fun x => (t, x.epoch)))

/-! ## Refusal (R127) -/

/-- A frame's work on the ML path is discarded, and its buffers return. -/
def workless (f : Frame) : Frame :=
  { f with psHalf := false, dpts := [], cells := [], levels := [], books := [], order := [], cuts := [], tensors := [],
           maps := [], lists := [], grads := [], epochs := [], run := blankRun, shares := [] }

/-- No die runs the frame as its best-effort frame: the context's state returns to main memory (R132). -/
def endBeRun (s : State) (x num : Nat) : State :=
  (List.range s.dies.length).foldl (fun a d =>
    if (dieOf s d).beRun = some (x, num) then
      modDie (stateOut a d x) d (fun y => { y with beRun := none })
    else a) s

/-- Refuses a closed frame; its checker verdict still follows. -/
def refuseFrame (s : State) (x num st : Nat) : State :=
  let s1 := modFrameAt s x num (fun f => { workless f with phase := .refused, refusal := st })
  let s2 := modCtx s1 x (fun c => { c with refusedCnt := c.refusedCnt + 1 })
  settleTables (endBeRun (dropLeave s2 x num) x num)

/-! ## The passes (R121 to R126) -/

/-- Shares and pace a pass evaluates with (R120, R122). -/
def evalShares (s : State) (c : Ctx) : Shares :=
  ⟨usOf s c.share c.dieMask, ugOf s c.share c.dieMask, paceUsed s c.dieMask⟩

/-- Records the dies' terms of R122 for ADM_PACE_USED. -/
def notePace (s : State) (mask : Nat) : State :=
  (0 :: maskDies mask).foldl (fun a d => modDie a d (fun x => { x with paceUsed := paceTerm s d })) s

def passCounts (s : State) (c : Ctx) (points cells : Nat) (pairs : List Nat) : Counts :=
  ⟨points, cells, pairs, maskCount c.dieMask, c.zones.length, cfgFld s rAdmCfg 0 14 7⟩

/-- Counts of the conservative pass (R124). -/
def consCounts (s : State) (c : Ctx) (f : Frame) : Counts :=
  let n := min f.pts.length c.cellCap
  passCounts s c f.pts.length n (capPairs (declOf s c.pkg) n)

/-- Pairs of a class as the exact pass takes them: measured, or cells × kernel volume (R125). -/
def exactPairs (p : PkgDecl) (f : Frame) : List Nat :=
  (enumFrom 0 (pkgVolumes p)).map (fun v => match mapFind f.pairs v.1 with | some n => n | none => f.nCells * v.2)

/-- Counts of the exact pass (R125). -/
def exactCounts (s : State) (c : Ctx) (f : Frame) : Counts :=
  passCounts s c f.pts.length f.nCells (exactPairs (declOf s c.pkg) f)

/-- The verdict component at a pace, in whole ns, rounded up (R405). -/
def verdictNs (p : Nat) : Nat := (Frac.add (fracNs 6000) (clockless p 4)).ceil

/-- A die cannot serve frames of a context: fenced or off, or without measured pace (R126, R131). -/
def dieLost (s : State) (c : Ctx) : Bool :=
  (maskDies c.dieMask).any (fun d => dieFenced s d || dieOff s d || paceMeas s d == 0) || paceMeas s 0 == 0

/-- The causes of R126 in order, 0 if none. -/
def guarCauses (s : State) (c : Ctx) : Nat :=
  if serving s = false then 0x0423
  else if c.st = 3 then 0x0424
  else if dieLost s c || (usOf s c.share c.dieMask).num == 0 then 0x0425
  else if checkerFits (s.zck.gAdm - s.zck.gTaken) (paceUsed s c.dieMask) c.deadline = false then 0x0422
  else if ringFree s c.chan < 1 then 0x0421
  else 0

/-- Shares and stalls available by die, as R208 records them. -/
def recordShares (s : State) (mask : Nat) : List (Nat × Nat × Nat) :=
  (maskDies mask).map (fun d => (d, shareRes s d, stallsAvail s d))

/-- An accepted guaranteed frame (R124, R125, R282, R405). -/
def acceptFrame (s : State) (c : Ctx) (f : Frame) (pass ref : Nat) (n : Counts) : State :=
  let p := paceUsed s c.dieMask
  let budget := retryCount (retryBudget s) (tileSum (declOf s c.pkg) n (pass == 1))
  let cum := if f.followed then cumTerms (declOf s c.pkg) n (smallTable s) (evalShares s c) (retryBudget s) (pass == 1) else []
  modFrameAt s c.id f.num (fun g =>
    { g with phase := .accepted, pass := pass, refRaw := ref, cum := cum, cutoff := g.deadline - verdictNs p,
             retry := budget, shares := recordShares s c.dieMask })

/-- The outcome of the conservative pass once its pace is taken (R124, R126). -/
def conservativeResult (s : State) (c : Ctx) (f : Frame) (st : Nat) : State :=
  if st ≠ 0 then refuseFrame s c.id f.num st
  else
    let n := consCounts s c f
    let b := bound? (declOf s c.pkg) n (smallTable s) (evalShares s c) (retryBudget s) true
    if exceeds b c.deadline then modFrameAt s c.id f.num (fun g => { g with phase := .pending })
    else acceptFrame s c f 1 f.closeRaw n

/-- The conservative pass of a closed frame (R124, R126): the pace of R122 is taken unless a cause that comes before any
evaluation refuses the frame. Its end is the ADM block's unit boundary (R135). -/
def conservativePass (s : State) (c : Ctx) (f : Frame) : State :=
  let st := guarCauses s c
  let s1 := if st = 0 ∨ st = 0x0422 ∨ st = 0x0421 then notePace s c.dieMask else s
  blockBoundary (conservativeResult s1 c f st) 0x04 0

/-- Free hash entries of a die for best effort (R131). -/
def beFree (s : State) (d : Nat) : Nat := 196608 - hashRes s d - beHeld s d

/-- A table the package uses is LOST. -/
def lostTable (s : State) (p : PkgDecl) : Bool :=
  (pkgTables p).any (fun t => match tableOf s t with | some x => x.st == 4 | none => false)

/-- The causes of R131 in order, 0 if none. -/
def beCauses (s : State) (c : Ctx) : Nat :=
  let r := hashShare c.cellCap (maskCount c.dieMask)
  if serving s = false then 0x0423
  else if c.st = 3 then 0x0424
  else if dieLost s c then 0x0425
  else if (maskDies c.dieMask).any (fun d => decide (beFree s d < r)) || lostTable s (declOf s c.pkg) then 0x0427
  else if ringFree s c.chan < 1 then 0x0421
  else 0

/-- A best-effort frame is judged at its close: accepted ones wait for their dies (R131, R132). -/
def judgeBestEffort (s : State) (c : Ctx) (f : Frame) : State :=
  let st := beCauses s c
  if st ≠ 0 then refuseFrame s c.id f.num st
  else
    let p := declOf s c.pkg
    modFrameAt s c.id f.num (fun g =>
      { g with phase := .waiting, retry := retryCount (retryBudget s) (tileSum p (capCounts s p c) true),
               refRaw := f.closeRaw, shares := recordShares s c.dieMask })

/-! ## Closes (R117 to R119, R384, R390, R403, R413) -/

/-- A newer close refuses the context's pending or waiting frame (R126, R132). -/
def supersede (s : State) (x : Nat) : State :=
  ((s.frames.filter (fun f => f.ctx == x && (f.phase == .pending || f.phase == .waiting))).map (·.num)).foldl
    (fun a n => refuseFrame a x n 0x0426) s

/-- The monitor follows a frame that closes now (R413). -/
def followsClose (s : State) (c : Ctx) (f : Frame) : Bool :=
  decide (f.idx < cfgFld s rVrdCfg 0 27 16) || decide (0 < c.follow) || c.st == 4 ||
    (maskDies c.dieMask).any (fun d => (dieOf s d).selftest.degraded) || cfgFld s rVrdCfg 0 15 15 == 1

/-- What is fixed at a frame's close. -/
def closedAs (s : State) (c : Ctx) (f : Frame) (bg : Bool) : Frame :=
  { f with close := now s, closeRaw := s.raw, deadline := s.raw + c.deadline * 1000,
           lead := cfgFld s rPdeIngestCfg 0 47 36 * 1000, poses := s.poses,
           silent := silentFor s c.id, epochs := epochsOf s (declOf s c.pkg), background := bg,
           followed := followsClose s c f, stamps := [(1, tailPos, s.raw)] }

/-- Fixes the open frame at its close and counts the marks that a close uses up. -/
def fixClose (s : State) (c : Ctx) (f : Frame) : State :=
  let left := cfgFld s rMtuCtxCfg c.id 31 16
  let bg := left != 0
  let s1 := modFrameAt s c.id f.num (fun _ => closedAs s c f bg)
  let s2 := if bg then cfgPut s1 rMtuCtxCfg c.id (cfgGet s1 rMtuCtxCfg c.id - 65536) else s1
  modCtx s2 c.id (fun k => { k with follow := k.follow - 1 })

/-- Judges a frame just closed. -/
def judge (s : State) (c : Ctx) (num : Nat) : State :=
  match frameOf s c.id num with
  | some f => if c.guaranteed then conservativePass s c f else judgeBestEffort s c f
  | none => s

/-- Closes the open frame `f` of context `c`, opens the next one unless the train stops, and judges the closed one. -/
def closeFrame (s : State) (c : Ctx) (t : Train) (f : Frame) : State :=
  let s1 := fixClose (supersede s c.id) c f
  let t1 : Train := { t with n := t.n + 1, num := (t.num + 1) % 2 ^ 32, prev := now s }
  let s2 := if t.stop then refreshListed (modCtx s1 c.id (fun k => { k with train := none }))
    else addFrame (modCtx s1 c.id (fun k => { k with train := some t1 })) c t1
  noteWindows (judge s2 c f.num)

/-! ## Periodic closes (R117, R156, R167) -/

/-- The scheduled close of a periodic context, if its train is open. -/
def nextClose (s : State) (c : Ctx) : Option Nat :=
  if c.hostPaced then none
  else match c.train, openFrame s c.id with
    | some _, some f => some f.sched
    | _, _ => none

/-- No other close is due before `x`: closes that a step passes occur in close-time order. -/
def firstDue (s : State) (x : Nat) : Bool :=
  s.ctxs.all (fun c => match nextClose s c with | some y => decide (x ≤ y) | none => true)

/-- A periodic context's close, if it is due and no other one is due before it. -/
def periodicClose (s : State) (ctx : Nat) : State :=
  match ctxOf s ctx with
  | none => s
  | some c =>
    match nextClose s c, c.train, openFrame s ctx with
    | some x, some t, some f => if x ≤ now s ∧ firstDue s x then closeFrame s c t f else s
    | _, _, _ => s

/-- The context whose close is due first, ties in ascending order of creation. -/
def dueCtx (s : State) : Option Ctx :=
  s.ctxs.find? (fun c => match nextClose s c with | some x => decide (x ≤ now s) && firstDue s x | none => false)

/-- Closes that are due, in close-time order, at most `n`. -/
def closesDue : Nat → State → State
  | 0, s => s
  | n + 1, s =>
    match dueCtx s with
    | some c => closesDue n (periodicClose s c.id)
    | none => s

/-- Number of closes that can be due. -/
def dueCount (s : State) : Nat :=
  (s.ctxs.map (fun c => match nextClose s c with | some x => (now s - x) / (c.period * 1000) + 1 | none => 0)).sum

/-- Every scheduled close that corrected time has reached occurs, in close-time order (R156, R167). -/
def runCloses (s : State) : State := closesDue (dueCount s) s

/-! ## The end of a train (R118, R180) -/

/-- A context whose train has stopped and whose last pennant is written becomes IDLE, and its stores are released. -/
def settleCtx (s : State) (x : Nat) : State :=
  match ctxOf s x with
  | none => s
  | some c =>
    if c.train.isNone && c.st != 1 && !(s.frames.any (unsealed x)) then
      let s1 := { s with frames := s.frames.filter (fun f => f.ctx != x) }
      release (modCtx s1 x (fun k => { k with st := 1, pausedDegraded := false, stores := false })) (ownStore x) (fun _ => true)
    else s

end Sys2Proof.Machine
end

