-- ==== Sys2Proof/Machine/Zones.lean ====
section
/-!
DEFINITION. Zone records (R397, R398) and the measure of a point against a zone that both paths use (R399).
-/
namespace Sys2Proof.Machine

def zProtective (z : List Byte) : Bool := byteAt z 0 == 0
def zCount (z : List Byte) : Nat := byteAt z 1
def zMin (z : List Byte) : Nat := u16 z 2
def zLo (z : List Byte) : Int := i32 z 4
def zHi (z : List Byte) : Int := i32 z 8
def zX (z : List Byte) (i : Nat) : Int := i32 z (16 + 8 * i)
def zY (z : List Byte) (i : Nat) : Int := i32 z (20 + 8 * i)

/-- Index of the next vertex. -/
def zNext (z : List Byte) (i : Nat) : Nat := (i + 1) % zCount z

/-- Edge i, from vertex i to the next. -/
def zEx (z : List Byte) (i : Nat) : Int := zX z (zNext z i) - zX z i
def zEy (z : List Byte) (i : Nat) : Int := zY z (zNext z i) - zY z i

/-- Cross product of edge i and the next edge. -/
def zCross (z : List Byte) (i : Nat) : Int :=
  zEx z i * zEy z (zNext z i) - zEy z i * zEx z (zNext z i)

/-- The edges turn left at every vertex, and every other vertex lies strictly to the left of each edge: the polygon is strictly
convex, with no vertex met twice (R398). -/
def zConvex (z : List Byte) : Bool :=
  (List.range (zCount z)).all (fun i => decide (0 < zCross z i) &&
    (List.range (zCount z)).all (fun j => j == i || j == zNext z i ||
      decide (0 < zEx z i * (zY z j - zY z i) - zEy z i * (zX z j - zX z i))))

def coordOk (v : Int) : Bool := decide (-(2 : Int) ^ 30 ≤ v) && decide (v ≤ (2 : Int) ^ 30)

/-- A zone record within the rules of R397 and R398. -/
def zoneOk (z : List Byte) : Bool :=
  z.length == 64 && decide (byteAt z 0 ≤ 1) && decide (3 ≤ zCount z) && decide (zCount z ≤ 6) && decide (1 ≤ zMin z) &&
    decide (zLo z ≤ zHi z) && allZero (slice z 12 4) &&
    (List.range (zCount z)).all (fun i => coordOk (zX z i) && coordOk (zY z i)) && zConvex z &&
    allZero (z.drop (16 + 8 * zCount z))

/-- Least `len ≥ lo` with `len² ≥ v`, searching `fuel` steps of halving between lo and hi. -/
def ceilSqrtIn (v : Nat) : Nat → Nat → Nat → Nat
  | 0, _, hi => hi
  | fuel + 1, lo, hi =>
    if hi ≤ lo then hi
    else
      let m := (lo + hi) / 2
      if v ≤ m * m then ceilSqrtIn v fuel lo m else ceilSqrtIn v fuel (m + 1) hi

/-- Smallest integer whose square is at least `v`, for the lengths of zone edges. -/
def ceilSqrt (v : Nat) : Nat := ceilSqrtIn v 40 0 (2 ^ 33)

/-- Distance outside edge i, or none for a point not outside it. -/
def edgeOut (z : List Byte) (x y : Int) (i : Nat) : Option Nat :=
  let c := zEx z i * (y - zY z i) - zEy z i * (x - zX z i)
  if c < 0 then
    some ((-c).toNat / ceilSqrt (zEx z i * zEx z i + zEy z i * zEy z i).toNat)
  else none

/-- The measure of R399: inside, and the distance. -/
def measure (z : List Byte) (x y h : Int) : Bool × Nat :=
  let dv := (max 0 (max (zLo z - h) (h - zHi z))).toNat
  let outs := (List.range (zCount z)).filterMap (edgeOut z x y)
  let dh := outs.foldl max 0
  (decide (zLo z ≤ h) && decide (h ≤ zHi z) && outs.isEmpty, min (max dh dv) 4294967294)

end Sys2Proof.Machine
end

