-- ==== Sys2Proof/Machine/Contexts.lean ====
section
/-!
DEFINITION. The commands of contexts and frame trains: CTX_CREATE, CTX_DESTROY, CTX_QUERY, FRAME_OPEN, FRAME_CLOSE,
CTX_CLEAR_DEGRADED, PKG_UNLOAD, and the periodic closes and exact passes (04, R383, R400, R412).
Conventions: log entry 44 (DEDUCED), log entry 45 (DEDUCED), log entry 54 (DESIGN CHOICE), log entry 66 (DESIGN
CHOICE).
-/
namespace Sys2Proof.Machine

/-! ## CTX_CREATE (R109 to R114) -/

/-- Fields of a declaration that depend on its class. -/
def declClassOk (d : List Byte) : Bool :=
  let dl := u32 d 8
  let share := u16 d 28
  if byteAt d 0 = 1 then 300 ≤ dl && dl ≤ u32 d 4 && 1 ≤ share && share ≤ 960
  else byteAt d 0 == 0 && dl == 0 && share == 0

/-- Zone z of a declaration. -/
def declZone (d : List Byte) (z : Nat) : List Byte := slice d (64 + 64 * z) 64

/-- Check 1 of R110, with the byte count of R109. -/
def declOk (s : State) (d : List Byte) : Bool :=
  decide (2 ≤ d.length) && d.length == 64 + 64 * byteAt d 1 && declClassOk d && decide (byteAt d 1 ≤ 64) &&
    decide (300 ≤ u32 d 4) && decide (u32 d 4 ≤ 10000000) &&
    decide (1 ≤ u32 d 12) && decide (u32 d 12 ≤ 2097152) && decide (1 ≤ u32 d 16) && decide (u32 d 16 ≤ 524288) &&
    byteAt d 24 != 0 && (maskDies (byteAt d 24)).all (isDie s) &&
    decide (3 ≤ byteAt d 25) && decide (byteAt d 25 ≤ 15) && decide (1 ≤ byteAt d 26) && decide (byteAt d 26 ≤ 64) &&
    decide (byteAt d 27 ≤ 1) && allZero (slice d 30 34) && (List.range (byteAt d 1)).all (fun z => zoneOk (declZone d z))

/-- The lowest unused context number. -/
def freeCtx (s : State) : Option Nat := (List.range 4096).find? (fun x => (ctxOf s x).isNone)

/-- The lowest run of `n` free window pages of a channel (R111). -/
def freePages (s : State) (ch n : Nat) : Option Nat :=
  (List.range 384).find? (fun p => pagesOk s ch p n)

/-- The context a declaration creates. -/
def declCtx (d : List Byte) (id ch page : Nat) : Ctx :=
  { id := id, st := 1, pausedDegraded := false, guaranteed := byteAt d 0 == 1,
    zones := (List.range (byteAt d 1)).map (declZone d), pkg := u16 d 2, period := u32 d 4, deadline := u32 d 8,
    pointCap := u32 d 12, cellCap := u32 d 16, keep := u32 d 20, dieMask := byteAt d 24, domain := byteAt d 25,
    pages := byteAt d 26, hostPaced := byteAt d 27 == 1, share := u16 d 28, chan := ch, firstPage := page, bound := 0,
    stage := if byteAt d 0 = 1 then stageShare (u16 d 28) else 0, train := none, stores := false, delivered := 0,
    refusedCnt := 0, late := 0, slacks := [], destroy := none, vseq := 1,
    zst := List.replicate (byteAt d 1) ⟨0, false, false, false, false⟩, sentAt := none, sentClear := false,
    chkClear := false, ageLog := 0, follow := 0, adapted := [], chkDead := false }

def poolLimit (s : State) : Nat := cfgFld s rAdmCfg 0 5 0 * 1048576

/-- Working space of a compute die's paddocks (R108). -/
def workLimit (s : State) : Nat := 41943040 - poolLimit s

/-- Merge-area entries of a loft (R266). -/
def mergeArea : Nat := 98304

/-- The hash entries of R113 fit every die of a context. -/
def hashFits (t : State) (c : Ctx) : Bool :=
  (maskDies c.dieMask).all (fun d => decide (hashRes t d + beHeld t d ≤ 196608))

/-- The allocations of a guaranteed context on its dies (R451): its working space over the paddocks of a die and its merge
area; then its hash partition and the words beside it. -/
def placeWork (c : Ctx) (t : State) : Option State :=
  let p := declOf t c.pkg
  let ds := maskDies c.dieMask
  (allocateAll 0 (domGrp c.domain) (ownWork c.id) (ceilDiv p.workBytes 320 * 5) ds t).bind
    (allocateAll 5 (domGrp c.domain) (ownMerge c.id) (ceilDiv p.mergeEntries 4) ds)

def placeHash (c : Ctx) (t : State) : Option State :=
  let n := partSlots (hashShare c.cellCap (maskCount c.dieMask))
  let ds := maskDies c.dieMask
  (allocateAll 6 (domGrp c.domain) (ownHash c.id) (ceilDiv n 2) ds t).bind
    (allocateAll 7 (domGrp c.domain) (ownHash c.id) (ceilDiv n 8) ds)

def placeCtx (c : Ctx) (t : State) : Option State := (placeWork c t).bind (placeHash c)

/-- Every allocation of the context has a place, as check 6 asks by R451; a hash partition whose entries do not fit at all is
check 7's (log entry 54). -/
def hasPlace (t : State) (c : Ctx) : Bool :=
  (placeWork c t).isSome && (!hashFits t c || (placeCtx c t).isSome)

/-- Checks 4 to 8 and 10 to 12 of R110, on the state `t` that holds the new guaranteed context; `s` is the state
before. 0 if all pass. -/
def guarChecks (t : State) (c : Ctx) : Nat :=
  let ds := maskDies c.dieMask
  let l := leaveLevel t
  if (0 :: ds).any (fun d => agedFloor t d == 0) then 0x0404
  else if ds.any (fun d => decide (poolLimit t < poolUsed t d)) then 0x0405
  else if ds.any (fun d => decide (workLimit t < workRes t d) || decide (mergeArea < mergeRes t d)) ∨ hasPlace t c = false then 0x0406
  else if hashFits t c = false then 0x0407
  else if ds.any (fun d => decide (32 * stallsAvail t d < shareRes t d) || decide (256 < stageRes t d)) then 0x0408
  else if (freePages t c.chan c.pages).isNone then 0x0409
  else if ds.any (fun d => decide (leaveBudget t d < baseLeave t d l + leaveRes t d l)) then 0x040A
  else if (t.ctxs.filter (·.guaranteed)).any (fun k => !checkerFits (capSum t) (agedFloor t 0) k.deadline) then 0x040B
  else if exceeds (boundAtCaps t c (floorLevel t)) c.deadline then 0x040C
  else 0

/-- Check 9 for a best-effort context. -/
def pageCheck (t : State) (c : Ctx) : Nat := if (freePages t c.chan c.pages).isNone then 0x0409 else 0

/-- Reserves the result pages. -/
def reservePages (s : State) (c : Ctx) : State :=
  modChan s c.chan (fun k =>
    { k with pages := (List.range c.pages).foldl (fun m i => mapPut m (c.firstPage + i) c.id) k.pages })

/-- What a new context takes on its dies: the allocations of a guaranteed one, its copies of the adaptable tensors and the
weights of a package that is not resident there yet (R108, R311, R451); the state of a best-effort one in main memory
(R132). -/
def settleNew (was : State) (c : Ctx) (s : State) : State :=
  let ds := maskDies c.dieMask
  let p := declOf s c.pkg
  if c.guaranteed then
    let s1 := (placeCtx c s).getD s
    let s2 := (ds.filter (fun d => !(residentPkgs was d).contains c.pkg)).foldl (placeWeights c.pkg p) s1
    ds.foldl (placeAdapted (.unit 12 .other) c p) s2
  else
    ds.foldl (fun a d => stateBegin c p
      ((allocate a d 9 (domGrp c.domain) (ownWork c.id) (ceilDiv (plainBytes p + adaptBytes p (adaptables p)) 64)).getD a) d) s

/-- The body of a successful create (R111). A bound above 2^32 - 1 ns does not fit bytes 24-27, and the spec does not say
what they then hold: the model keeps its low 32 bits (log entry 66, DESIGN CHOICE). -/
def createBody (c : Ctx) : List Byte :=
  leBytes 2 c.id ++ leBytes 1 c.dieMask ++ leBytes 1 0 ++ leBytes 2 c.firstPage ++ leBytes 2 0 ++ leBytes 4 c.bound ++
    leBytes 2 c.stage ++ leBytes 2 0

/-- CTX_CREATE. -/
def ctxCreateCmd (c : Cmd) (s : State) : State × CmdRes :=
  let ch := c.slot / 8192
  let page := u16 c.bytes 16
  let count := u32 c.bytes 20
  if pagesOk s ch page (pageCount count) = false then fail s pageReservedErr
  else
    let d := staged s ch page count
    if declOk s d = false then fail s 0x0401
    else if (pkgOf s (u16 d 2)).isNone then fail s 0x0402
    else match freeCtx s with
      | none => fail s 0x0403
      | some id =>
        let k := declCtx d id ch 0
        let t := { s with ctxs := s.ctxs ++ [k] }
        let st := if k.guaranteed then guarChecks t k else pageCheck t k
        if st ≠ 0 then fail s st
        else
          let b := if k.guaranteed then (boundAtCaps t k (floorLevel t)).getD 0 else 0
          let k1 := { k with firstPage := (freePages s ch k.pages).getD 0, bound := b }
          (reservePages (settleNew s k1 { s with ctxs := s.ctxs ++ [k1] }) k1, .done 0 (createBody k1))

def execCtxCreate (slot : Nat) (s : State) : Host.Outcome State Fault Refusal :=
  .next (withCmd 0x0020 slot s ctxCreateCmd)

/-! ## CTX_DESTROY (R115) -/

/-- The train stops: the open frame closes at once and is refused, as is a pending one. -/
def stopTrain (s : State) (c : Ctx) : State :=
  let pend := (s.frames.filter (fun f => f.ctx == c.id && f.phase == .pending)).map (·.num)
  let s2 := pend.foldl (fun a n => refuseFrame a c.id n 0x0426) s
  let s3 := match openFrame s2 c.id with
    | some f => refuseFrame (fixClose s2 c f) c.id f.num 0x0426
    | none => s2
  refreshListed (modCtx s3 c.id (fun k => { k with train := none }))

/-- CTX_DESTROY. -/
def ctxDestroyCmd (c : Cmd) (s : State) : State × CmdRes :=
  match ctxOf s (u16 c.bytes 16) with
  | none => fail s 0x040D
  | some k =>
    if k.destroy.isSome then fail s 0x040E
    else (modCtx (stopTrain s k) k.id (fun x => { x with destroy := some c.slot }), .stay)

def execCtxDestroy (slot : Nat) (s : State) : Host.Outcome State Fault Refusal :=
  .next (withCmd 0x0021 slot s ctxDestroyCmd)

/-- The context leaves every steering entry (R146), and the entry a packet in decode was steered by. -/
def unsteer (s : State) (x : Nat) : State :=
  refreshListed { s with
    steer := s.steer.map (fun e => (e.1, { e.2 with ctxs := e.2.ctxs.filter (· != x) })),
    lanes := s.lanes.map (fun l => { l with dec := l.dec.map (fun p => { p with ctxs := p.ctxs.filter (· != x) }) }) }

/-- The fields of VRD_CTX_CFG return to reset (R431). -/
def resetCtxCfg (s : State) (x : Nat) : State :=
  let k := cfgKey rVrdCtxCfg x
  { s with cfg := { s.cfg with active := mapDel s.cfg.active k, staged := mapDel s.cfg.staged k } }

/-- The allocations of a context end, and those of its package's weights on the dies where no guaranteed context uses it any
more (R108); `s` is the state without the context. -/
def releaseSpace (s : State) (c : Ctx) : State :=
  let s1 := [ownWork c.id, ownStore c.id, ownMerge c.id, ownHash c.id].foldl (fun a o => release a o (fun _ => true)) s
  release s1 (ownWeights c.pkg) (fun d => !(residentPkgs s d).contains c.pkg)

/-- Everything a context reserves is released. -/
def releaseCtx (s : State) (x : Nat) : State :=
  let s1 := { s with ctxs := s.ctxs.filter (fun c => c.id != x), frames := s.frames.filter (fun f => f.ctx != x),
                     chans := s.chans.map (fun c => { c with pages := c.pages.filter (fun p => p.2 != x) }) }
  let s2 := match ctxOf s x with
    | some c => releaseSpace s1 c
    | none => s1
  settleTables (resetCtxCfg (unsteer s2 x) x)

/-- CTX_DESTROY_COMPLETE: the last pennant is written (R115). -/
def execCtxDestroyComplete (ctx : Nat) (s : State) : Host.Outcome State Fault Refusal :=
  .next (
    match ctxOf s ctx with
    | none => s
    | some c =>
      match c.destroy with
      | none => s
      | some slot => if s.frames.any (unsealed ctx) then s else completeSlot (releaseCtx s ctx) slot 0 [])

/-! ## CTX_QUERY (R134) -/

/-- Least slack of the last 1,024 delivered frames, µs, as the body gives it. -/
def leastSlack (c : Ctx) : Nat :=
  match c.slacks with
  | [] => 65535
  | x :: l => min 65535 (l.foldl min x / 1000).toNat

def ctxQueryCmd (c : Cmd) (s : State) : State × CmdRes :=
  match ctxOf s (u16 c.bytes 16) with
  | none => fail s 0x040D
  | some k =>
    (s, .done 0 (leBytes 1 k.st ++ leBytes 1 (b2n k.guaranteed) ++ leBytes 1 k.dieMask ++ leBytes 1 0 ++
      leBytes 4 k.delivered ++ leBytes 4 k.refusedCnt ++ leBytes 2 (min 65535 k.late) ++ leBytes 2 (leastSlack k)))

/-- CTX_QUERY. -/
def execCtxQuery (slot : Nat) (s : State) : Host.Outcome State Fault Refusal :=
  .next (withCmd 0x0022 slot s ctxQueryCmd)

/-! ## FRAME_OPEN (R116, R180, R383, R400) -/

/-- Width by which a package names a table. -/
def namedWidths (p : PkgDecl) : List (Nat × Nat) :=
  (p.ops.filter (fun o => opCode o == cMapLookup)).flatMap (fun o => (lookupTables o).map (fun t => (t.1, t.2.2)))

/-- Placement of a table for a context's die mask (R383). -/
def placed (small : Bool) (dies mask : Nat) : Bool := if small then mask &&& dies == mask else dies &&& mask == dies

/-- The first failing status of R383, 0 if none. -/
def tableCheck (s : State) (c : Ctx) : Nat :=
  let used := namedWidths (declOf s c.pkg)
  let tab := fun (t : Nat) => (tableOf s t).getD ⟨t, 0, 0, 0, 0, false, 0, 0, [], none, [], 0, [], none, none, false⟩
  if used.any (fun u => (tab u.1).st != 2) then 0x0D07
  else if used.any (fun u => (tab u.1).width != u.2) then 0x0D05
  else if c.guaranteed && used.any (fun u => !placed (tab u.1).small (tab u.1).dies c.dieMask) then 0x0D06
  else 0

/-- The state with a context's point stores on its dies, and with its checker store in the region at the hub, where they have a
place (R180, R400, R451). -/
def placeStores (c : Ctx) (s : State) : Option State :=
  allocateAll 9 (domGrp c.domain) (ownStore c.id) (ceilDiv (ptStoreOf c) 64) (maskDies c.dieMask) s

def placeChk (c : Ctx) (s : State) : Option State := allocate s 0 9 (domGrp 1) (ownStore c.id) c.pointCap

/-- The point store fits every assigned die (R180). -/
def pointStoreFits (s : State) (c : Ctx) : Bool :=
  (maskDies c.dieMask).all (fun d => decide (ptStoreUsed s d + ptStoreOf c ≤ cfgFld s rDskCfg d 11 0 * 1048576)) &&
    (placeStores c s).isSome

/-- The checker store fits its region (R400). -/
def chkStoreFits (s : State) (c : Ctx) : Bool :=
  decide (chkStoreUsed s + 2 * c.pointCap * 32 ≤ cfgFld s rZckCfg 0 31 20 * 1048576) && (placeChk c s).isSome

/-- A zone of the context is latched. -/
def anyLatched (c : Ctx) : Bool := c.zst.any (·.latched)

/-- The first failing status of FRAME_OPEN on an existing context. -/
def frameOpenCheck (s : State) (k : Ctx) (first : Nat) : Nat :=
  if k.st ≠ 1 ∨ k.destroy.isSome then 0x040E
  else if (if k.hostPaced then first ≠ 0 else first ≠ 0 ∧ first < now s) then 0x0401
  else if pointStoreFits s k = false then 0x0703
  else if tableCheck s k ≠ 0 then tableCheck s k
  else if chkStoreFits s k = false then 0x1001
  else 0

/-- A frame train opens: its stores are allocated, and its first frame opens. Its times count from the command's acceptance. -/
def openTrain (s : State) (c : Cmd) (k : Ctx) : State :=
  let first := u64 c.bytes 24
  let x1 := if first = 0 then c.corr + k.period * 1000 else first
  let prev := if k.hostPaced then c.corr else x1 - k.period * 1000
  let t : Train := ⟨x1, 0, u32 c.bytes 20, prev, false⟩
  let s0 := ((placeStores k s).bind (placeChk k)).getD s
  let s1 := modCtx s0 k.id (fun x => { x with train := some t, st := if anyLatched x then 4 else 2, stores := true })
  noteWindows (refreshListed (addFrame s1 k t))

/-- FRAME_OPEN: of a host-paced train that opened at the command's acceptance it only completes. -/
def frameOpenCmd (c : Cmd) (s : State) : State × CmdRes :=
  match ctxOf s (u16 c.bytes 16) with
  | none => fail s 0x040D
  | some k =>
    if c.note.isSome then (s, .done 0 [])
    else
      let st := frameOpenCheck s k (u64 c.bytes 24)
      if st ≠ 0 then fail s st else (openTrain s c k, .done 0 [])

def execFrameOpen (slot : Nat) (s : State) : Host.Outcome State Fault Refusal :=
  .next (withCmd 0x0023 slot s frameOpenCmd)

/-! ## FRAME_CLOSE (R117, R118) -/

/-- The train of a periodic context stops after its open frame. -/
def stopPeriodic (s : State) (k : Ctx) (t : Train) : State :=
  modCtx s k.id (fun x => { x with train := some { t with stop := true } })

/-- What the acceptance of a command on a context does before it starts: CTX_DESTROY stops the frame train, a FRAME_CLOSE with
the stop flag stops a periodic one after the frame open now, and a FRAME_OPEN that passes its checks opens the frame of a
host-paced one (R115, R116, R118). -/
def acceptCtx (s : State) (c : Cmd) : State :=
  match ctxOf s (u16 c.bytes 16) with
  | none => s
  | some k =>
    if c.code = 0x0021 then (if k.destroy.isSome then s else stopTrain s k)
    else if c.code = 0x0023 ∧ k.hostPaced = true ∧ frameOpenCheck s k (u64 c.bytes 24) = 0 then
      setNote (openTrain s c k) c.slot 0
    else if c.code = 0x0024 ∧ bitOf (byteAt c.bytes 18) 0 = true ∧ k.hostPaced = false then
      (match k.train, openFrame s k.id with
       | some t, some f => setNote (stopPeriodic s k t) c.slot f.num
       | _, _ => s)
    else s

/-- FRAME_CLOSE: of a stopped periodic train it names the frame that was open at its acceptance. -/
def frameCloseCmd (c : Cmd) (s : State) : State × CmdRes :=
  match ctxOf s (u16 c.bytes 16) with
  | none => fail s 0x040D
  | some k =>
    let stop := bitOf (byteAt c.bytes 18) 0
    match c.note, k.train, openFrame s k.id with
    | some n, _, _ => (s, .done 0 (leBytes 4 n))
    | none, some t, some f =>
      if k.hostPaced then
        (if now s < t.prev + k.period * 1000 then fail s 0x040F
         else (closeFrame s k { t with stop := stop } f, .done 0 (leBytes 4 f.num)))
      else if stop then (stopPeriodic s k t, .done 0 (leBytes 4 f.num))
      else fail s 0x040E
    | _, _, _ => fail s 0x040E

/-- FRAME_CLOSE. -/
def execFrameClose (slot : Nat) (s : State) : Host.Outcome State Fault Refusal :=
  .next (withCmd 0x0024 slot s frameCloseCmd)

/-! ## Periodic closes (R117, R167) -/

/-- PERIODIC_FRAME_CLOSE: the first instant at which corrected time is at least the scheduled close. -/
def execPeriodicFrameClose (ctx : Nat) (s : State) : Host.Outcome State Fault Refusal :=
  .next (periodicClose s ctx)

/-! ## The exact pass (R125, R126) -/

/-- The outcome of the exact pass once its pace is taken (R125, R126). -/
def exactResult (s : State) (c : Ctx) (f : Frame) : State :=
  let n := exactCounts s c f
  match bound? (declOf s c.pkg) n (smallTable s) (evalShares s c) (retryBudget s) false with
  | some b =>
    if f.deadline < s.raw + b then refuseFrame s c.id f.num 0x0420
    else if ringFree s c.chan < 1 then refuseFrame s c.id f.num 0x0421
    else acceptFrame s c f 2 s.raw n
  | none => refuseFrame s c.id f.num 0x0420

/-- The exact pass of a pending frame at the present instant; its end is the ADM block's unit boundary (R135). -/
def exactPass (s : State) (c : Ctx) (f : Frame) : State :=
  blockBoundary (exactResult (notePace s c.dieMask) c f) 0x04 0

/-- EXACT_PASS. -/
def execExactPass (ctx num : Nat) (s : State) : Host.Outcome State Fault Refusal :=
  .next (
    match ctxOf s ctx, frameOf s ctx num with
    | some c, some f => if f.phase = .pending ∧ f.voxDone = true ∧ hubServes s 0x04 = true then exactPass s c f else s
    | _, _ => s)

/-! ## CTX_CLEAR_DEGRADED (R412) -/

/-- The context is one that the command acts on. -/
def clearable (c : Ctx) : Bool := c.st == 4 || (c.st == 3 && c.pausedDegraded) || (c.st == 1 && anyLatched c)

def latchMap (c : Ctx) : Nat :=
  maskOf 64 (fun z => match c.zst[z]? with | some k => k.latched | none => false)

def ctxClearDegradedCmd (c : Cmd) (s : State) : State × CmdRes :=
  match ctxOf s (u16 c.bytes 16) with
  | none => fail s 0x040D
  | some k =>
    if clearable k = false then fail s 0x1102
    else
      (modCtx s k.id (fun x => { x with zst := x.zst.map (fun z => { z with hist := 0, latched := false }),
                                        st := if x.st = 4 then 2 else x.st, pausedDegraded := false }),
        .done 0 (leBytes 8 (latchMap k)))

/-- CTX_CLEAR_DEGRADED. -/
def execCtxClearDegraded (slot : Nat) (s : State) : Host.Outcome State Fault Refusal :=
  .next (withCmd 0x0025 slot s ctxClearDegradedCmd)

/-! ## PKG_UNLOAD (R107) -/

def pkgUnloadCmd (c : Cmd) (s : State) : State × CmdRes :=
  let h := u16 c.bytes 16
  if (pkgOf s h).isNone then fail s 0x0402
  else if s.ctxs.any (fun k => k.pkg == h) then fail s 0x0410
  else (release { s with pkgs := s.pkgs.filter (fun p => p.handle != h) } (ownCopy h) (fun d => d == 0), .done 0 [])

/-- PKG_UNLOAD. -/
def execPkgUnload (slot : Nat) (s : State) : Host.Outcome State Fault Refusal :=
  .next (withCmd 0x0031 slot s pkgUnloadCmd)

end Sys2Proof.Machine
end

