-- ==== Sys2Proof/Machine/Points.lean ====
section
/-!
DEFINITION. Decoder descriptors (R147 to R149), the conversion of a datagram's points (R150 to R154), and how points
join frames (R156, R157, R177, R181, R400).
Conventions: log entry 47 (DEDUCED), log entry 68 (DEDUCED), log entry 70 (DESIGN CHOICE), log entry 71 (DESIGN
CHOICE), log entry 86 (DESIGN CHOICE).
-/
namespace Sys2Proof.Machine

/-! ## Rounding (R148, R152, R199) -/

/-- `a / b` to the nearest integer, ties to even. -/
def rdiv (a : Int) (b : Nat) : Int :=
  let q := a / b
  let t := a % b
  if b < 2 * t ∨ (2 * t = b ∧ q % 2 = 1) then q + 1 else q

/-- `v / 2^n` to the nearest integer, ties to even. -/
def rne (v : Int) (n : Nat) : Int := rdiv v (2 ^ n)

/-- An integer fits a signed 32-bit value. -/
def fits32 (v : Int) : Bool := decide (-(2 : Int) ^ 31 ≤ v) && decide (v < (2 : Int) ^ 31)

/-! ## The cosine table (R152) -/

/-- π × 2^128, rounded to the nearest integer. -/
def pi128 : Nat := 1069028584064966747859680373161870783301

/-- Terms n, n + 1, … of the cosine series in units of 2^-128; `t` is term n, `a2` the squared angle in 2^-128. -/
def cosTerms (a2 : Nat) : Nat → Nat → Int → Int
  | 0, _, _ => 0
  | k + 1, n, t => t + cosTerms a2 k (n + 1) (-(t * a2 / (2 : Int) ^ 128 / ((2 * n + 1) * (2 * n + 2) : Nat)))

/-- cos(2πk / 65,536) in units of 2^-128, for k up to 16,384. -/
def cosFine (k : Nat) : Int :=
  let a := k * pi128 / 32768
  cosTerms (a * a / 2 ^ 128) 40 0 ((2 : Int) ^ 128)

/-- Entry k of the table: cos(2πk / 65,536) × 2^30 to the nearest integer. -/
def cosEntry (k : Nat) : Int := (cosFine k * 2 + (2 : Int) ^ 98) / (2 : Int) ^ 99

/-- cosine(a) of R152, for a below 65,536. -/
def cosine (a : Nat) : Int :=
  let q := a / 16384
  let r := a % 16384
  if q = 0 then cosEntry r else if q = 1 then -cosEntry (16384 - r) else if q = 2 then -cosEntry r
  else cosEntry (16384 - r)

def sine (a : Nat) : Int := cosine ((a + 49152) % 65536)

/-! ## Descriptors (R147 to R149) -/

/-- Field specification f (R148). -/
def fieldSpec (d : List Byte) (f : Nat) : List Byte := slice d (32 + 12 * f) 12

def fBase (d : List Byte) (f : Nat) : Nat := byteAt (fieldSpec d f) 2

def fPresent (d : List Byte) (f : Nat) : Bool := fBase d f != 0

/-- A field specification within its ranges; an absent field's other values are not judged. -/
def fieldSpecOk (p : List Byte) : Bool :=
  let e := signed 8 (byteAt p 6)
  decide (byteAt p 2 ≤ 3) && decide (byteAt p 5 < 4) && byteAt p 7 == 0 &&
    (byteAt p 2 == 0 || (decide (1 ≤ byteAt p 3) && decide (byteAt p 3 ≤ 64) && decide (byteAt p 3 + byteAt p 4 ≤ 64) &&
      decide (-64 ≤ e) && decide (e ≤ 63)))

def dKind (d : List Byte) : Nat := byteAt d 1
def dBlocks (d : List Byte) : Nat := u16 d 8
def dPoints (d : List Byte) : Nat := u16 d 14
def dEntries (d : List Byte) : Nat := u16 d 16

/-- The fields that must be present, and the one that must be absent (R148). -/
def fieldsPresent (d : List Byte) : Bool :=
  fPresent d 0 && fPresent d 1 && (if dKind d = 2 then !fPresent d 2 && fPresent d 6 else fPresent d 2)

/-- A descriptor within R147 to R149. -/
def descOk (d : List Byte) : Bool :=
  decide (128 ≤ d.length) && d.length == 128 + 8 * dEntries d && decide (byteAt d 0 ≤ 63) && decide (dKind d ≤ 2) &&
    decide (1 ≤ dBlocks d) && decide (dBlocks d ≤ 4096) && decide (1 ≤ dPoints d) && decide (dPoints d ≤ 200) &&
    decide (dBlocks d * dPoints d ≤ 4096) && decide (dEntries d ≤ 256) && (dKind d != 2 || decide (1 ≤ dEntries d)) &&
    decide (byteAt d 18 < 2) && byteAt d 19 == 0 && allZero (slice d 28 4) &&
    (List.range 8).all (fun f => fieldSpecOk (fieldSpec d f)) && fieldsPresent d

/-- DECODER_SET (R147, R149). -/
def decoderSetCmd (c : Cmd) (s : State) : State × CmdRes :=
  let page := u16 c.bytes 16
  let count := u32 c.bytes 20
  if pagesOk s (c.slot / 8192) page (pageCount count) = false then fail s pageReservedErr
  else
    let d := staged s (c.slot / 8192) page count
    if descOk d = false then fail s 0x0501
    else ({ s with decs := mapPut s.decs (byteAt d 0) d }, .done 0 (leBytes 1 (byteAt d 0)))

def execDecoderSet (slot : Nat) (s : State) : Host.Outcome State Fault Refusal :=
  .next (withCmd 0x0040 slot s decoderSetCmd)

/-! ## Fields (R148, R150) -/

/-- Bytes a field loads. -/
def fLoad (p : List Byte) : Nat := ceilDiv (byteAt p 4 + byteAt p 3) 8

/-- Address of a field in block b, point i. -/
def fAddr (d : List Byte) (f b i : Nat) : Nat :=
  let p := fieldSpec d f
  let blk := u16 d 4 + b * u16 d 6
  u16 p 0 + (if byteAt p 2 = 1 then 0 else if byteAt p 2 = 2 then blk else blk + u16 d 10 + i * u16 d 12)

/-- The packet passes R150: its exact length, and every present field of every point within the payload. -/
def payloadOk (d : List Byte) (n : Nat) : Bool :=
  (u16 d 2 == 0 || u16 d 2 == n) &&
    (List.range 8).all (fun f => !fPresent d f ||
      decide (fAddr d f (dBlocks d - 1) (dPoints d - 1) + fLoad (fieldSpec d f) ≤ n))

/-- The raw value of a field. -/
def fRaw (d payload : List Byte) (f b i : Nat) : Int :=
  let p := fieldSpec d f
  let l := slice payload (fAddr d f b i) (fLoad p)
  let v := (if bitOf (byteAt p 5) 1 then beNat l else leNat l) / 2 ^ byteAt p 4 % 2 ^ byteAt p 3
  if bitOf (byteAt p 5) 0 then signed (byteAt p 3) v else (v : Int)

/-- The converted value of a field: raw × m × 2^e, exact, ties to even; 0 for an absent field. -/
def fValue (d payload : List Byte) (f b i : Nat) : Int :=
  if fPresent d f then
    let p := fieldSpec d f
    let e := signed 8 (byteAt p 6)
    let v := fRaw d payload f b i * i32 p 8
    if 0 ≤ e then v * 2 ^ e.toNat else rne v (-e).toNat
  else 0

/-! ## Points (R151 to R153) -/

/-- What becomes of a point in decode. -/
inductive PtRes where
  | invalid
  | saturated
  | ok (p : Pt)
  deriving DecidableEq, Repr

/-- An angle modulo 65,536. -/
def angle (v : Int) : Nat := (v % 65536).toNat

/-- Coordinates from range, azimuth and elevation (R152). -/
def polar (r : Int) (a l : Nat) : Int × Int × Int :=
  (rne (r * cosine l * cosine a) 60, rne (r * cosine l * sine a) 60, rne (r * sine l) 30)

/-- Channel-table entry i: elevation, azimuth offset, time offset. -/
def entryOf (d : List Byte) (i : Nat) : Int × Int × Int :=
  (i16 d (128 + 8 * i), i16 d (130 + 8 * i), i32 d (132 + 8 * i))

/-- The table entry of a point of kind 2; zeros otherwise. -/
def pointEntry (d : List Byte) (c : Int) : Int × Int × Int := if dKind d = 2 then entryOf d c.toNat else (0, 0, 0)

/-- Coordinates of a point from its converted fields. -/
def pointXyz (d : List Byte) (v0 v1 v2 : Int) (e : Int × Int × Int) : Int × Int × Int :=
  if dKind d = 0 then (v0, v1, v2)
  else if dKind d = 1 then polar v0 (angle v1) (angle v2)
  else polar v0 (angle (v1 + e.2.1)) (angle e.1)

/-- Time of a point (R153). -/
def pointTime (d payload : List Byte) (b i : Nat) (e : Int × Int × Int) (arrival : Nat) : Int :=
  fValue d payload 4 b i + fValue d payload 5 b i + i64 d 20 + e.2.2 + (if bitOf (byteAt d 18) 0 then (arrival : Int) else 0)

/-- Point i of block b of a payload (R151 to R153). -/
def decodePoint (d payload : List Byte) (sensor arrival b i : Nat) : PtRes :=
  let v0 := fValue d payload 0 b i
  let ch := fValue d payload 6 b i
  let e := pointEntry d ch
  let t := pointTime d payload b i e arrival
  if (fPresent d 7 && fValue d payload 7 b i == 0) || (dKind d != 0 && decide (v0 ≤ 0)) ||
      (dKind d == 2 && (decide (ch < 0) || decide ((dEntries d : Int) ≤ ch))) || decide (t < 0) ||
      decide ((2 : Int) ^ 63 ≤ t) then .invalid
  else
    let p := pointXyz d v0 (fValue d payload 1 b i) (fValue d payload 2 b i) e
    if fits32 v0 && fits32 p.1 && fits32 p.2.1 && fits32 p.2.2 then
      .ok ⟨p.1, p.2.1, p.2.2, (max 0 (min 65535 (fValue d payload 3 b i))).toNat, sensor, (ch % 256).toNat, t.toNat⟩
    else .saturated

/-! ## Joining frames (R156, R157, R177, R181, R400) -/

/-- Upper limit of a point's time for a context's open frame (R157): from the scheduled close, or from now. -/
def leadLimit (s : State) (c : Ctx) (f : Frame) : Nat :=
  (if c.hostPaced then now s else f.sched) + cfgFld s rPdeIngestCfg 0 47 36 * 1000

/-- A point's time lies within the limits of R157. -/
def timeJoins (s : State) (c : Ctx) (f : Frame) (t : Nat) : Bool :=
  decide (f.prevClose < t + cfgFld s rPdeIngestCfg 0 63 48 * 1000) && decide (t ≤ leadLimit s c f)

/-- R177 for the next point of a frame: 0 admitted, 1 far, 2 at cap. -/
def capTest (c : Ctx) (a : Nat) (p : Pt) : Nat :=
  if a < 7 * c.pointCap / 8 then 0
  else if a < c.pointCap then
    (if p.x * p.x + p.y * p.y + p.z * p.z < (c.keep : Int) * c.keep then 0 else 1)
  else 2

/-- Takes the frame's half of the checker store, and of the point store, when it is free. -/
def takeHalves (s : State) (c : Ctx) (f : Frame) : Frame :=
  let ck := f.ckHalf || halfFree s c.id f.idx true
  let ps := f.psHalf || halfFree s c.id f.idx false
  { f with ckHalf := ck, psHalf := ps, ckHeld := f.ckHeld || !ck, psHeld := f.psHeld || !ps }

/-- An admitted point in its frame: its index, and the checker store when its half is held. -/
def admitPoint (s : State) (c : Ctx) (f : Frame) (p : Pt) : State :=
  let z := s.zck
  let n := if c.guaranteed then z.gAdm + 1 else z.bAdm + 1
  let z1 := if f.ckHalf then (if c.guaranteed then { z with gAdm := n } else { z with bAdm := n }) else z
  let s1 := ctxCnt { s with zck := z1 } rDskCtxCnt c.id 0 1
  modFrameAt s1 c.id f.num (fun g =>
    { g with pts := g.pts ++ [p], chkPts := if f.ckHalf then g.chkPts ++ [g.pts.length] else g.chkPts,
             chkUpto := if f.ckHalf then n else g.chkUpto })

/-- A point that joins the open frame of a context. DSK_CTX_CNT 7 counts a frame at the first point that joins it while
its half of the point store is held; the spec does not say when (log entry 71, DESIGN CHOICE). -/
def joinFrame (s : State) (c : Ctx) (f : Frame) (p : Pt) : State :=
  let g := takeHalves s c f
  let s1 := modFrameAt s c.id f.num (fun _ => g)
  let s2 := if g.psHeld && !f.psHeld then ctxCnt s1 rDskCtxCnt c.id 7 1 else s1
  if g.psHalf then
    let k := capTest c g.pts.length p
    if k = 0 then admitPoint s2 c g p else ctxCnt s2 rDskCtxCnt c.id k 1
  else ctxCnt s2 rDskCtxCnt c.id 3 1

/-- A point and one listed context: 0 no open train, 1 outside R157, 2 joined. -/
def joinOne (s : State) (x : Nat) (p : Pt) : State × Nat :=
  match ctxOf s x, openFrame s x with
  | some c, some f => if timeJoins s c f p.time then (joinFrame s c f p, 2) else (s, 1)
  | _, _ => (s, 0)

/-- A valid point and every listed context, with the sensor counters of R172. A point that some listed contexts drop by R157 while
the others have no open train is counted in counter 5: the table names it only for a drop by every listed context (log entry 86,
DESIGN CHOICE). -/
def joinPoint (ctxs : List Nat) (sensor : Nat) (s : State) (p : Pt) : State :=
  let r := ctxs.foldl (fun (a : State × Nat) x =>
    let q := joinOne a.1 x p
    (q.1, max a.2 q.2)) (s, 0)
  let n := if r.2 = 2 then 6 else if r.2 = 1 then 5 else 7
  modSensor (cntAdd r.1 rPdeSensorCnt (sensor * 8 + n) 1) sensor (fun k => { k with lastPt := some s.raw, raised := false })

/-- One point of a block, by what decode made of it. The spec does not say whether sensor counter 2, points decoded,
counts invalid and saturated points and host records: the model counts every one (log entry 70, DESIGN CHOICE). -/
def takePoint (ctxs : List Nat) (sensor : Nat) (s : State) (r : PtRes) : State :=
  let s1 := cntAdd s rPdeSensorCnt (sensor * 8 + 2) 1
  match r with
  | .invalid => cntAdd s1 rPdeSensorCnt (sensor * 8 + 3) 1
  | .saturated => cntAdd s1 rPdeSensorCnt (sensor * 8 + 4) 1
  | .ok p => joinPoint ctxs sensor s1 p

/-! ## BLOCK_DECODE (R154, R156) -/

/-- The points of one block, in order. -/
def blockPoints (p : Decoding) : List PtRes :=
  (List.range (dPoints p.desc)).map (fun i => decodePoint p.desc p.payload p.sensor p.arrival p.block i)

/-- A block may start at place `k`: no block of a later place has started at this instant (R159; log entry 68). -/
def blockMayStart (s : State) (k : Nat) : Bool := s.lastBlock.1 != s.raw || decide (s.lastBlock.2 ≤ k)

/-- A block starts at place `k`: the closes that are due come first, so that it joins the next frame (R156). -/
def blockStarts (s : State) (k : Nat) : State := { runCloses s with lastBlock := (s.raw, k) }

/-- BLOCK_DECODE: the next block of the packet in decode on a lane. -/
def execBlockDecode (lane : Nat) (s : State) : Host.Outcome State Fault Refusal :=
  .next (
    match (laneOf s lane).dec, blockMayStart s lane with
    | none, _ => s
    | some _, false => s
    | some p, true =>
      let s1 := (blockPoints p).foldl (takePoint p.ctxs p.sensor) (blockStarts s lane)
      let nxt := if p.block + 1 < dBlocks p.desc then some { p with block := p.block + 1 } else none
      { s1 with lanes := updAt s1.lanes lane (fun l => { l with dec := nxt }) })

/-- SENSOR_SILENCE_EXPIRY (R160). -/
def execSensorSilenceExpiry (sensor : Nat) (s : State) : Host.Outcome State Fault Refusal :=
  .next (if underSilence s sensor && !(sensorOf s sensor).raised then
      raise (modSensor s sensor (fun k => { k with raised := true })) [{ code := 0x0582, die := 0, loc := sensor }]
    else s)

end Sys2Proof.Machine
end

