-- ==== Sys2Proof/Machine/Arith.lean ====
section
/-!
DEFINITION. Arithmetic (09): exact values, the formats of R256, roundings, chunks and reductions (R261 to R270), the
output conversions (R272 to R274) and stochastic rounding (R276).
Conventions: log entry 48 (DEDUCED).
-/
namespace Sys2Proof.Machine

/-! ## Exact values -/

/-- A value: NaN, an infinity, or ± m × 2^e. -/
inductive Val where
  | nan
  | inf (neg : Bool)
  | fin (neg : Bool) (m : Nat) (e : Int)
  deriving DecidableEq, Repr

def Val.zero : Val := .fin false 0 0

def Val.ofInt (i : Int) : Val := .fin (decide (i < 0)) i.natAbs 0

def Val.isNan : Val → Bool
  | .nan => true
  | _ => false

def Val.isFinite : Val → Bool
  | .fin _ _ _ => true
  | _ => false

def Val.isZero : Val → Bool
  | .fin _ m _ => m == 0
  | _ => false

/-- Sign of an infinity. -/
def Val.infSign : Val → Option Bool
  | .inf n => some n
  | _ => none

def Val.isNeg : Val → Bool
  | .fin n m _ => n && m != 0
  | .inf n => n
  | .nan => false

/-- A signed integer times a power of two, as an integer over 2^lo for lo not above e. -/
def scaled (neg : Bool) (m : Nat) (e lo : Int) : Int :=
  let v : Int := (m : Int) * 2 ^ (e - lo).toNat
  if neg then -v else v

/-- Exact sum; a zero sum is -0 only for two negative terms (IEEE 754). -/
def Val.add : Val → Val → Val
  | .nan, _ => .nan
  | _, .nan => .nan
  | .inf a, .inf b => if a = b then .inf a else .nan
  | .inf a, .fin _ _ _ => .inf a
  | .fin _ _ _, .inf b => .inf b
  | .fin a m e, .fin b n f =>
    let lo := min e f
    let s := scaled a m e lo + scaled b n f lo
    if s = 0 then .fin (a && b) 0 0 else .fin (decide (s < 0)) s.natAbs lo

def Val.neg : Val → Val
  | .nan => .nan
  | .inf a => .inf (!a)
  | .fin a m e => .fin (!a) m e

/-- Exact product (R261). -/
def Val.mul : Val → Val → Val
  | .nan, _ => .nan
  | _, .nan => .nan
  | .inf a, .inf b => .inf (a != b)
  | .inf a, .fin b m _ => if m = 0 then .nan else .inf (a != b)
  | .fin a m _, .inf b => if m = 0 then .nan else .inf (a != b)
  | .fin a m e, .fin b n f => .fin (a != b) (m * n) (e + f)

/-- Multiplication by 2^k, exact. -/
def Val.shift (v : Val) (k : Int) : Val :=
  match v with
  | .fin a m e => .fin a m (e + k)
  | x => x

/-- Integer of a finite value, rounded toward minus infinity. -/
def Val.floor : Val → Int
  | .fin a m e =>
    let v : Int := if a then -(m : Int) else m
    if 0 ≤ e then v * 2 ^ e.toNat else v / 2 ^ (-e).toNat
  | _ => 0

/-- Nearest integer of a finite value, ties to even. -/
def Val.round : Val → Int
  | .fin a m e =>
    let v : Int := if a then -(m : Int) else m
    if 0 ≤ e then v * 2 ^ e.toNat else rne v (-e).toNat
  | _ => 0

/-- a < b for two values that are not NaN; the zeros are equal. -/
def Val.lt : Val → Val → Bool
  | .nan, _ => false
  | _, .nan => false
  | .inf a, .inf b => a && !b
  | .inf a, .fin _ _ _ => a
  | .fin _ _ _, .inf b => !b
  | .fin a m e, .fin b n f =>
    let lo := min e f
    decide (scaled a m e lo < scaled b n f lo)

/-- Exponent of the leading bit of a non-zero finite value. -/
def Val.log2 : Val → Int
  | .fin _ m e => (Nat.log2 m : Int) + e
  | _ => 0

/-! ## Formats (R256) -/

/-- A float format: exponent and mantissa widths, bias, code of the largest finite value, of +infinity if it has one,
and of its canonical NaN if it has one. -/
structure FFmt where
  eb : Nat
  mb : Nat
  bias : Nat
  maxC : Nat
  infC : Option Nat
  nanC : Option Nat
  deriving DecidableEq, Repr

def fE4M3 : FFmt := ⟨4, 3, 7, 0x7E, none, some 0x7F⟩
def fE5M2 : FFmt := ⟨5, 2, 15, 0x7B, some 0x7C, some 0x7E⟩
def fBF16 : FFmt := ⟨8, 7, 127, 0x7F7F, some 0x7F80, some 0x7FC0⟩
def fFP16 : FFmt := ⟨5, 10, 15, 0x7BFF, some 0x7C00, some 0x7E00⟩
def fFP32 : FFmt := ⟨8, 23, 127, 0x7F7FFFFF, some 0x7F800000, some 0x7FC00000⟩
def fFP64 : FFmt := ⟨11, 52, 1023, 0x7FEFFFFFFFFFFFFF, some 0x7FF0000000000000, some 0x7FF8000000000000⟩
def fE2M3 : FFmt := ⟨2, 3, 1, 0x1F, none, none⟩
def fE3M2 : FFmt := ⟨3, 2, 3, 0x1F, none, none⟩
def fE2M1 : FFmt := ⟨2, 1, 1, 0x7, none, none⟩

/-- Float format of a format code, or of its MX elements; codes 0, 1, 12 and 13 are integers. -/
def floatFmt (f : Nat) : FFmt :=
  if f = 2 ∨ f = 7 then fE4M3 else if f = 3 ∨ f = 8 then fE5M2 else if f = 4 then fBF16 else if f = 5 then fFP16
  else if f = 9 then fE2M3 else if f = 10 then fE3M2 else if f = 11 then fE2M1 else fFP32

/-- Integer formats, MXINT8 included. -/
def isIntFmt (f : Nat) : Bool := f == 0 || f == 1 || f == 12 || f == 13

/-- Value of a float code. -/
def FFmt.value (f : FFmt) (c : Nat) : Val :=
  let neg := bitOf c (f.eb + f.mb)
  let mag := c % 2 ^ (f.eb + f.mb)
  let ex := mag / 2 ^ f.mb
  let man := mag % 2 ^ f.mb
  if mag ≤ f.maxC then
    (if ex = 0 then .fin neg man (1 - (f.bias : Int) - f.mb)
     else .fin neg (man + 2 ^ f.mb) ((ex : Int) - f.bias - f.mb))
  else if f.infC = some mag then .inf neg
  else .nan

/-- Rounds ± m × 2^e to a precision of p bits with least exponent emin: integer and its exponent. -/
def roundPrec (p : Nat) (emin : Int) (m : Nat) (e : Int) : Nat × Int :=
  let q := max ((Nat.log2 m : Int) + e) emin - (p - 1)
  (if q ≤ e then m * 2 ^ (e - q).toNat else (rdiv m (2 ^ (q - e).toNat)).toNat, q)

/-- Magnitude code of a finite value rounded to nearest, ties to even, beyond the largest code if it is too large. -/
def FFmt.magnitude (f : FFmt) (m : Nat) (e : Int) : Nat :=
  if m = 0 then 0
  else
    let r := roundPrec (f.mb + 1) (1 - f.bias) m e
    if r.1 < 2 ^ f.mb then r.1 else (r.2 + f.mb + f.bias).toNat * 2 ^ f.mb + (r.1 - 2 ^ f.mb)

def FFmt.withSign (f : FFmt) (neg : Bool) (c : Nat) : Nat := c + (if neg then 2 ^ (f.eb + f.mb) else 0)

/-- Conversion by R273: what is too large saturates, an infinity stays where the format has one. -/
def FFmt.convert (f : FFmt) (v : Val) : Nat :=
  match v with
  | .nan => f.nanC.getD 0
  | .inf n => f.withSign n (f.infC.getD f.maxC)
  | .fin n m e => f.withSign n (min f.maxC (f.magnitude m e))

/-- Rounding of IEEE 754: what is too large becomes an infinity. -/
def FFmt.ieee (f : FFmt) (v : Val) : Nat :=
  match v with
  | .nan => f.nanC.getD 0
  | .inf n => f.withSign n (f.infC.getD f.maxC)
  | .fin n m e =>
    let c := f.magnitude m e
    f.withSign n (if f.maxC < c then f.infC.getD f.maxC else c)

/-- rne32 and rne64 (R263, R265), as codes and as values. -/
def f32 (v : Val) : Nat := fFP32.ieee v
def f64 (v : Val) : Nat := fFP64.ieee v
def v32 (c : Nat) : Val := fFP32.value c
def v64 (c : Nat) : Val := fFP64.value c
def rne32 (v : Val) : Val := v32 (f32 v)
def rne64 (v : Val) : Val := v64 (f64 v)

/-- Value of a stored code of a format code, before its MX scale (R256). -/
def codeValue (f c : Nat) : Val :=
  if f = 0 then .ofInt (signed 8 c) else if f = 1 then .ofInt (signed 4 c) else if f = 13 then .ofInt (signed 32 c)
  else if f = 12 then (Val.ofInt (signed 8 c)).shift (-6)
  else (floatFmt f).value c

/-- Applies an E8M0 scale byte (R257). -/
def mxScale (b : Nat) (v : Val) : Val := if b = 255 then .nan else v.shift ((b : Int) - 127)

/-! ## Rows (R278, R283, R320) -/

def rowTagQ (tag : Nat) : Nat := tag % 4

/-- The row is flagged: bit 5, 6 or 7. -/
def rowFlagged (tag : Nat) : Bool := 32 ≤ tag

/-- Value of element c of a row of a format, its MX scale applied, without its tag. -/
def rowRaw (f : Nat) (r : Row) (c : Nat) : Val :=
  let v := codeValue f (r.codes.getD c 0)
  if isMx f then mxScale (r.scales.getD (c / 32) 0) v else v

/-- The value under its row's tag (R283). -/
def rowValue (f : Nat) (r : Row) (c : Nat) : Val := (rowRaw f r c).shift (8 * rowTagQ r.tag)

/-- An element that run lengths take as a structural zero (R300). -/
def rowZero (f : Nat) (r : Row) (c : Nat) : Bool :=
  (codeValue f (r.codes.getD c 0)).isZero && !(isMx f && r.scales.getD (c / 32) 0 == 255)

/-! ## Chunks and reductions (R263 to R270) -/

/-- |v| × 2^k rounded down, with the sign of v. -/
def alignTo (v : Val) (k : Int) : Int :=
  match v with
  | .fin a m e =>
    let t := e + k
    let n : Nat := if 0 ≤ t then m * 2 ^ t.toNat else m / 2 ^ (-t).toNat
    if a then -(n : Int) else n
  | _ => 0

/-- The value of a chunk (R263). -/
def chunkValue (p : List Val) : Val :=
  let infs := p.filterMap Val.infSign
  let nz := p.filter (fun v => !v.isZero)
  if p.any Val.isNan ∨ (infs.contains true = true ∧ infs.contains false = true) then .nan
  else match infs, nz with
    | s :: _, _ => .inf s
    | [], [] => Val.zero
    | [], x :: l =>
      let e := l.foldl (fun m v => max m v.log2) x.log2
      let s := ((x :: l).map (fun v => alignTo v (47 - e))).sum
      if s = 0 then Val.zero else rne32 (.fin (decide (s < 0)) s.natAbs (e - 47))

/-- An element in the course of a reduction: accumulator, loft, chunks so far, and the first overflow (R265, R277). -/
structure AccSt where
  acc : Val
  loft : Val
  n : Nat
  overs : Option Bool
  deriving DecidableEq, Repr

/-- Sign of an overflow: an infinity while every operand is finite. -/
def overOf (fin : Bool) (v : Val) : Option Bool := if fin then v.infSign else none

/-- The first of two overflows. -/
def firstOver (a b : Option Bool) : Option Bool :=
  match a with
  | some x => some x
  | none => b

/-- Adds one chunk (R265). -/
def addChunk (fin : Bool) (s : AccSt) (c : Val) : AccSt :=
  let a := rne32 (s.acc.add c)
  let o := firstOver s.overs (firstOver (overOf fin c) (overOf fin a))
  if (s.n + 1) % 64 = 0 then ⟨Val.zero, rne64 (s.loft.add a), s.n + 1, o⟩ else ⟨a, s.loft, s.n + 1, o⟩

/-- Partition value rne64(loft + acc) of R270: FP64 value, or the overflow. -/
def reducePart (fin : Bool) (a0 : Val) (cs : List Val) : Val × Option Bool :=
  let r := cs.foldl (addChunk fin) ⟨a0, Val.zero, 0, none⟩
  let v := rne64 (r.loft.add r.acc)
  (v, firstOver r.overs (overOf fin v))

/-- reduce of R265. -/
def reduceF (fin : Bool) (a0 : Val) (cs : List Val) : Val × Option Bool :=
  let r := reducePart fin a0 cs
  let v := rne32 r.1
  (v, firstOver r.2 (overOf fin v))

def int32Min : Int := -2147483648
def int32Max : Int := 2147483647

/-- Overflow of an INT32 value. -/
def intOver (v : Int) : Option Bool :=
  if v < int32Min then some true else if int32Max < v then some false else none

/-- Integer accumulation with its first overflow (R264, R265, R277). -/
def reduceI (a0 : Int) (cs : List Int) : Int × Option Bool :=
  cs.foldl (fun (a : Int × Option Bool) c => (a.1 + c, firstOver a.2 (intOver (a.1 + c)))) (a0, intOver a0)

/-- An integer product in an attempt with scale step q (R279). -/
def scaleInt (q : Nat) (v : Int) : Int := if q = 0 then v else rne v (8 * q)

/-! ## Conversion of results (R273, R274) -/

/-- Largest value of the FP32 format with a sign: what an overflowing element stands for (R277, R281). -/
def limitVal (neg : Bool) : Val := .fin neg (2 ^ 24 - 1) 104

/-- Greatest exponent of the elements of an MX format (R274). -/
def mxEmax (f : Nat) : Int := if f = 7 then 8 else if f = 8 then 15 else if f = 9 then 2 else if f = 10 then 4
  else if f = 11 then 2 else 0

/-- An element of an MX block, scaled already. -/
def mxElem (f : Nat) (v : Val) : Nat :=
  if f = 12 then unsigned 8 (max (-127) (min 127 (v.shift 6).round)) else (floatFmt f).convert v

/-- One MX block of a row: scale byte and element codes (R274). -/
def mxBlock (f : Nat) (vs : List Val) : Nat × List Nat :=
  let ws := vs.map (fun v => match v with | .inf n => limitVal n | x => x)
  let nz := ws.filter (fun v => !v.isZero)
  if ws.any Val.isNan then (255, ws.map (fun _ => 0))
  else match nz with
    | [] => (0, ws.map (fun _ => 0))
    | x :: l =>
      let top := l.foldl (fun m v => max m v.log2) x.log2
      let k := max (-127) (min 127 (top - mxEmax f))
      ((k + 127).toNat, ws.map (fun v => mxElem f (v.shift (-k))))

/-- Splits a list into blocks of 32. -/
def blocks32 {α : Type} : Nat → List α → List (List α)
  | 0, _ => []
  | n + 1, l => l.take 32 :: blocks32 n (l.drop 32)

/-- Stored codes and scales of a row of values, padded with zeros to whole blocks (R320). -/
def packRow (f : Nat) (vs : List Val) : List Nat × List Nat :=
  let n := ceilDiv vs.length 32
  let all := vs ++ List.replicate (n * 32 - vs.length) Val.zero
  if isMx f then
    let b := (blocks32 n all).map (mxBlock f)
    (b.flatMap (·.2), b.map (·.1))
  else (all.map (floatFmt f).convert, [])

/-- Range of the integer output formats. -/
def intMin (f : Nat) : Int := if f = 0 then -128 else if f = 1 then -8 else int32Min
def intMax (f : Nat) : Int := if f = 0 then 127 else if f = 1 then 7 else int32Max

/-- Integer output with shift h (R273). -/
def intOut (f h : Nat) (v : Int) : Nat :=
  if f = 13 then unsigned 32 v
  else unsigned (if f = 0 then 8 else 4) (max (intMin f) (min (intMax f) (rne v h)))

/-- Output of an overflowing integer element (R281). -/
def intLimit (f : Nat) (neg : Bool) : Nat :=
  unsigned (if f = 0 then 8 else if f = 1 then 4 else 32) (if neg then intMin f else intMax f)

/-! ## mix and stochastic rounding (R193, R276) -/

/-- mix of R193. -/
def mix (k x : Nat) : Nat :=
  let m := 2 ^ 64
  let v := (k + x * 0x9E3779B97F4A7C15) % m
  let v := (v ^^^ (v / 2 ^ 30)) * 0xBF58476D1CE4E5B9 % m
  let v := (v ^^^ (v / 2 ^ 27)) * 0x94D049BB133111EB % m
  v ^^^ (v / 2 ^ 31)

/-- A draw: the next generator state and its 16 bits. -/
def srDraw (g : Nat) : Nat × Nat :=
  let g1 := (g + 0x9E3779B97F4A7C15) % 2 ^ 64
  (g1, mix g1 0 / 2 ^ 48)

/-- Stochastic rounding of an FP32 value to a narrower format with the 16 drawn bits (R276). -/
def stochastic (f : FFmt) (v : Val) (d : Nat) : Nat :=
  match v with
  | .fin n m e =>
    if m = 0 then f.withSign n 0
    else
      let ulp := max ((Nat.log2 m : Int) + e) (1 - (f.bias : Int)) - f.mb
      let t : Nat := if ulp ≤ e then m * 2 ^ (e - ulp).toNat else m / 2 ^ (ulp - e).toNat
      let rem : Nat := if ulp ≤ e then 0 else m % 2 ^ (ulp - e).toNat
      let up := decide (d * 2 ^ (ulp - e).toNat < rem * 65536)
      f.convert (.fin n (if up then t + 1 else t) ulp)
  | x => f.convert x

end Sys2Proof.Machine
end

