-- ==== Sys2Proof/Machine/Deskew.lean ====
section
/-!
DEFINITION. Deskew (R186 to R188), voxelisation and the voxel hash (R189 to R198), and the counting pass (R217 to R219).
Conventions: log entry 49 (DEDUCED), log entry 86 (DESIGN CHOICE).
-/
namespace Sys2Proof.Machine

/-! ## Poses (R187, R188, R401) -/

/-- Element i of a list of integers. -/
def intAt (l : List Int) (i : Nat) : Int := l.getD i 0

/-- Interpolation of one element: rounded with 16 fraction bits, or rounded down with 12 (the checker's). -/
def lerp (fine : Bool) (a b w : Int) : Int := if fine then a + rne ((b - a) * w) 16 else a + (b - a) * w / 4096

/-- The elements between two samples at time t. -/
def blend (fine : Bool) (p q : Pose) (t : Int) : List Int :=
  let w := (t - p.time) * (if fine then 65536 else 4096) / (q.time - p.time)
  List.zipWith (fun a b => lerp fine a b w) p.e q.e

/-- The pose at t within ascending samples; before the first, the first; from the last on, the last. -/
def poseIn (fine : Bool) (t : Int) : List Pose → List Int
  | [] => []
  | [p] => p.e
  | p :: q :: l => if t ≤ p.time then p.e else if t < q.time then blend fine p q t else poseIn fine t (q :: l)

/-- slice_pose and chk_pose. -/
def poseAt (fine : Bool) (tab : PoseTab) (t : Int) : List Int :=
  if tab.mode = 1 then (tab.samples.head?.map (·.e)).getD [] else poseIn fine t tab.samples

/-- The time lies further than the hold outside the samples (R188). -/
def stalePose (tab : PoseTab) (hold t : Int) : Bool :=
  tab.mode == 2 &&
    (match tab.samples.head?, tab.samples.getLast? with
     | some a, some b => decide (t < a.time - hold) || decide (b.time + hold < t)
     | _, _ => false)

/-- What becomes of a point under a snapshot: none for an EMPTY table; otherwise its coordinates and whether the pose
is stale. -/
structure Placed where
  x : Int
  y : Int
  z : Int
  stale : Bool
  deriving DecidableEq, Repr

def Placed.fits (p : Placed) : Bool := fits32 p.x && fits32 p.y && fits32 p.z

/-- Descriptor of the deskew operator. -/
def dskDesc (p : PkgDecl) : List Byte := (opAt p 0).desc

/-- Slice time (R187). -/
def sliceTime (w t : Nat) : Nat := t / w * w + w / 2

/-- Row r of a pose applied to a point, in units of 2^-30. -/
def rotRow (e : List Int) (r : Nat) (p : Pt) : Int :=
  intAt e (3 * r) * p.x + intAt e (3 * r + 1) * p.y + intAt e (3 * r + 2) * p.z

/-- deskew of R187. -/
def deskewPt (d : List Byte) (tab : PoseTab) (p : Pt) : Option Placed :=
  if tab.mode = 0 then none
  else
    let ts : Int := sliceTime (u32 d 4) p.time
    let e := poseAt true tab ts
    some ⟨rne (rotRow e 0 p) 30 + intAt e 9, rne (rotRow e 1 p) 30 + intAt e 10, rne (rotRow e 2 p) 30 + intAt e 11,
      stalePose tab (u32 d 8 * 1000) ts⟩

/-- The frame's snapshot of a sensor's table. -/
def snapTab (f : Frame) (k : Nat) : PoseTab := (mapFind f.poses k).getD ⟨0, []⟩

/-! ## DESKEW_TILE (R187, R200, R204) -/

/-- Inserts a deskewed point in ascending j. -/
def dptInsert (p : DPt) : List DPt → List DPt
  | [] => [p]
  | q :: l => if q.j ≤ p.j then q :: dptInsert p l else p :: q :: l

/-- A pose event, once per sensor, kind and frame. -/
def poseEvent (f : Frame) (code d k : Nat) : Frame × List Ev :=
  let key := code * 256 + k
  if f.poseEvents.contains key then (f, [])
  else ({ f with poseEvents := f.poseEvents ++ [key] }, [{ code := code, die := d, loc := k, limited := true }])

/-- Deskews point j of a frame on a die. -/
def deskewOne (d : Nat) (desc : List Byte) (a : State × Frame × List Ev) (j : Nat) : State × Frame × List Ev :=
  let (s, f, l) := a
  match f.pts[j]? with
  | none => a
  | some p =>
    match deskewPt desc (snapTab f p.sensor) p with
    | none =>
      let e := poseEvent f 0x0780 d p.sensor
      (ctxCnt s rDskCtxCnt f.ctx 4 1, e.1, l ++ e.2)
    | some q =>
      let e := if q.stale then poseEvent f 0x0781 d p.sensor else (f, [])
      let s1 := if q.stale then ctxCnt s rDskCtxCnt f.ctx 5 1 else s
      if q.fits then (s1, { e.1 with dpts := dptInsert ⟨j, q.x, q.y, q.z, p⟩ e.1.dpts }, l ++ e.2)
      else (ctxCnt s1 rDskCtxCnt f.ctx 6 1, e.1, l ++ e.2)

/-- Dies of a frame's context, ascending. -/
def frameDies (s : State) (f : Frame) : List Nat := ((ctxOf s f.ctx).map (fun c => maskDies c.dieMask)).getD []

/-- Points of the frame that the die at a position reads. -/
def dskTotal (f : Frame) (k e : Nat) : Nat := dskShare f.pts.length k e

/-- Position of a die in a list. -/
def posIn (ds : List Nat) (d : Nat) : Nat := (ds.takeWhile (· != d)).length

/-- Every die has read all its points. -/
def dskAllDone (ds : List Nat) (f : Frame) : Bool :=
  ds.all (fun d => decide (dskTotal f ds.length (posIn ds d) ≤ mapGet 0 f.dskDone d))

/-- A stage's stamp on a followed frame (R414). -/
def stamp (s : State) (f : Frame) (code op : Nat) : Frame :=
  if f.followed then { f with stamps := f.stamps ++ [(code, op, s.raw)] } else f

/-- The work of the frame goes on, or may be started. -/
def working (f : Frame) : Bool := f.phase == .pending || f.phase == .accepted

/-- Replaces the unsealed frame of the same context and number. -/
def setFrame (s : State) (f : Frame) : State := modFrameAt s f.ctx f.num (fun _ => f)

/-- Ends the tile: the points read, the half of the store, the stamp and the leave. -/
def endDeskewTile (s : State) (f : Frame) (ds : List Nat) (d upto : Nat) : State :=
  let f1 := { f with dskDone := mapPut f.dskDone d upto }
  let s1 := if upto = dskTotal f ds.length (posIn ds d) then returnLeave s f1 d (512 + 0x07) else s
  if dskAllDone ds f1 then setFrame (returnStreams s1 f1 0) (stamp s { f1 with psHalf := false } 2 0) else setFrame s1 f1

/-- DESKEW_TILE: the next 4,096 points of a die's half. -/
def execDeskewTile (ctx num die : Nat) (s : State) : Host.Outcome State Fault Refusal :=
  .next (
    match frameOf s ctx num with
    | none => s
    | some f =>
      let ds := frameDies s f
      let e := posIn ds die
      let done := mapGet 0 f.dskDone die
      let total := dskTotal f ds.length e
      if working f && ds.contains die && stageReady s die 0x07 && holdsLeave s f die (512 + 0x07) && decide (done < total) then
        let upto := min total (done + 4096)
        let js := (List.range (upto - done)).map (fun i => e + ds.length * (done + i))
        let r := js.foldl (deskewOne die (dskDesc (pkgOfFrame s f))) (s, f, [])
        raise (endDeskewTile r.1 r.2.1 ds die upto) r.2.2
      else s)

/-! ## Voxels (R189 to R196) -/

def vhuDesc (p : PkgDecl) : List Byte := (opAt p 1).desc

/-- Grid origin, voxel size and extent on an axis. -/
def gridO (v : List Byte) (a : Nat) : Int := i32 v (8 + 4 * a)
def gridS (v : List Byte) (a : Nat) : Nat := u32 v (20 + 4 * a)
def gridN (v : List Byte) (a : Nat) : Nat := u32 v (32 + 4 * a)

/-- Voxel key (R190). -/
def voxKey (ix iy iz : Nat) : Nat := ix * 2 ^ 42 + iy * 2 ^ 21 + iz

def keyX (k : Nat) : Nat := k / 2 ^ 42
def keyY (k : Nat) : Nat := k / 2 ^ 21 % 2 ^ 21
def keyZ (k : Nat) : Nat := k % 2 ^ 21

/-- Index on an axis, none outside the grid. -/
def axisIx (v : List Byte) (a : Nat) (x : Int) : Option Nat :=
  let i := (x - gridO v a) / (gridS v a : Int)
  if 0 ≤ i ∧ i < (gridN v a : Int) then some i.toNat else none

/-- Offset within a voxel. -/
def axisU (v : List Byte) (a : Nat) (x : Int) (i : Nat) : Nat := (x - gridO v a - (i * gridS v a : Nat)).toNat

/-- Sweep bit (R191). -/
def sweepBit (v : List Byte) (f : Frame) (p : Pt) : Nat :=
  if byteAt v 2 = 0 then p.sensor % 16
  else if f.close < p.time then 0
  else min 15 ((f.close - p.time) / u32 v 4)

/-- Age of a point (R194). One later than c_l, where the lead was lowered or time stepped back after it joined, has age 0: the spec
gives no age there (log entry 86, DESIGN CHOICE). -/
def ptAge (f : Frame) (p : Pt) : Nat := min (2 ^ 27 - 1) (f.close + f.lead - p.time)

/-- Home die of a key, and its first slot (R193). -/
def homeOf (ds : List Nat) (p x key : Nat) : Nat × Nat :=
  let v := mix key x
  (ds.getD (v / 2 ^ 32 * ds.length / 2 ^ 32) 0, v % 2 ^ 32 * p / 2 ^ 32)

/-- How probing ends: the entry's position in the list, an empty slot, or the probe limit. -/
inductive Probe where
  | hit
  | empty (slot : Nat)
  | limit
  deriving DecidableEq, Repr

/-- Probes slots from number i on (R195 step 1). -/
def probeFrom (cells : List Cell) (die key start p : Nat) : Nat → Nat → Probe
  | 0, _ => .limit
  | n + 1, i =>
    let slot := (start + i) % max 1 p
    match cells.find? (fun c => c.die == die && c.slot == slot) with
    | none => .empty slot
    | some c => if c.key = key then .hit else probeFrom cells die key start p n (i + 1)

/-- A new entry (R196). -/
def newCell (v : List Byte) (f : Frame) (p : DPt) (key die slot : Nat) (u : Nat × Nat × Nat) : Cell :=
  { key := key, die := die, slot := slot, count := 1, su := u.1, sv := u.2.1, sw := u.2.2, inten := p.pt.inten,
    sweep := 2 ^ sweepBit v f p.pt, age := ptAge f p.pt, mask := 2 ^ 13, rank := 0 }

/-- A point merged into its entry (R196). -/
def mergeCell (v : List Byte) (f : Frame) (p : DPt) (u : Nat × Nat × Nat) (c : Cell) : Cell :=
  { c with count := c.count + 1, su := c.su + u.1, sv := c.sv + u.2.1, sw := c.sw + u.2.2, inten := max c.inten p.pt.inten,
           sweep := c.sweep ||| 2 ^ sweepBit v f p.pt, age := min c.age (ptAge f p.pt) }

/-! ## The counting pass (R217 to R219) -/

/-- Offsets −1 to 1 of neighbour bit n. -/
def nbOff (n : Nat) : Int × Int × Int := ((n / 9 : Nat) - 1, (n / 3 % 3 : Nat) - 1, (n % 3 : Nat) - 1)

/-- The key at an offset, none outside the grid. -/
def nbKey (v : List Byte) (key : Nat) (o : Int × Int × Int) : Option Nat :=
  let x := (keyX key : Int) + o.1
  let y := (keyY key : Int) + o.2.1
  let z := (keyZ key : Int) + o.2.2
  if 0 ≤ x ∧ x < gridN v 0 ∧ 0 ≤ y ∧ y < gridN v 1 ∧ 0 ≤ z ∧ z < gridN v 2 then some (voxKey x.toNat y.toNat z.toNat)
  else none

/-- Neighbour bits of a key that are occupied among the cells. -/
def nbFound (v : List Byte) (cells : List Cell) (key : Nat) : List Nat :=
  (List.range 27).filter (fun n => n != 13 &&
    (match nbKey v key (nbOff n) with
     | some k => cells.any (fun c => c.key == k)
     | none => false))

/-- Adds a created cell: its mask and the opposite bits of the neighbours found (R218). -/
def linkCell (v : List Byte) (cells : List Cell) (c : Cell) (found : List Nat) : List Cell :=
  let back := cells.map (fun x =>
    match found.find? (fun n => nbKey v c.key (nbOff n) == some x.key) with
    | some n => { x with mask := x.mask ||| 2 ^ (26 - n) }
    | none => x)
  back ++ [{ c with mask := 2 ^ 13 + (found.map (fun n => 2 ^ n)).sum }]

/-- The class needs no source to be measured: a level-0 submanifold of kernel sizes 1 or 3, or a level-0 strided class
of kernel size 2. -/
def selfMeasured (d : List Byte) : Bool :=
  byteAt d 4 == 0 &&
    ((byteAt d 2 == 0 && byteAt d 5 ≤ 3 && byteAt d 6 ≤ 3 && byteAt d 7 ≤ 3) || (byteAt d 2 == 1 && byteAt d 5 == 2))

/-- A measured class (R219). -/
def measured (p : PkgDecl) (d : List Byte) : Bool :=
  selfMeasured d ||
    (byteAt d 2 == 2 &&
      (match classOp p (byteAt d 8) with
       | some e => selfMeasured e
       | none => false))

/-- The neighbour's offset lies in a submanifold class's set. -/
def inKernel (d : List Byte) (n : Nat) : Bool :=
  let o := nbOff n
  decide (o.1.natAbs ≤ (byteAt d 5 - 1) / 2) && decide (o.2.1.natAbs ≤ (byteAt d 6 - 1) / 2) &&
    decide (o.2.2.natAbs ≤ (byteAt d 7 - 1) / 2)

/-- What one creation adds to a measured class. -/
def pairGain (d : List Byte) (found : List Nat) : Nat :=
  if byteAt d 2 = 0 then 1 + 2 * (found.filter (inKernel d)).length else 1

/-- The counts of the measured classes after a creation. -/
def countPairs (p : PkgDecl) (pairs : List (Nat × Nat)) (found : List Nat) : List (Nat × Nat) :=
  (rbOps p).foldl (fun m d =>
    if measured p d then mapPut m (byteAt d 3) (mapGet 0 m (byteAt d 3) + pairGain d found) else m) pairs

/-! ## One point in the hash (R195) -/

/-- A refused point: counted, and the frame is TRUNCATED. -/
def refusePoint (a : State × Frame) (n : Nat) : State × Frame :=
  let s1 := ctxCnt a.1 rVhuCtxCnt a.2.ctx n 1
  (if a.2.truncated then s1 else ctxCnt s1 rVhuCtxCnt a.2.ctx 6 1, { a.2 with truncated := true })

/-- Creates an entry at a free slot, unless the partition or the cell cap is full. -/
def createCell (p : PkgDecl) (r cap : Nat) (a : State × Frame) (c : Cell) : State × Frame :=
  let (s, f) := a
  if r ≤ (f.cells.filter (fun x => x.die == c.die)).length then refusePoint a 4
  else if cap ≤ f.cells.length then refusePoint a 5
  else
    let v := vhuDesc p
    let found := nbFound v f.cells c.key
    let s1 := ctxCnt (ctxCnt (ctxCnt s rVhuCtxCnt f.ctx 0 1) rVhuCtxCnt f.ctx 1 1) rRbbCtxCnt f.ctx 0 26
    (s1, { f with cells := linkCell v f.cells c found, pairs := countPairs p f.pairs found })

/-- One point of a frame that reaches voxelisation. -/
def voxOne (p : PkgDecl) (ds : List Nat) (r cap : Nat) (a : State × Frame) (q : DPt) : State × Frame :=
  let (s, f) := a
  let v := vhuDesc p
  match axisIx v 0 q.x, axisIx v 1 q.y, axisIx v 2 q.z with
  | some ix, some iy, some iz =>
    let key := voxKey ix iy iz
    let u := (axisU v 0 q.x ix, axisU v 1 q.y iy, axisU v 2 q.z iz)
    let h := homeOf ds (partSlots r) f.ctx key
    (match probeFrom f.cells h.1 key h.2 (partSlots r) 8 0 with
     | .hit =>
       (ctxCnt s rVhuCtxCnt f.ctx 0 1,
         { f with cells := f.cells.map (fun c => if c.key = key then mergeCell v f q u c else c) })
     | .empty slot => createCell p r cap a (newCell v f q key h.1 slot u)
     | .limit => refusePoint a 3)
  | _, _, _ => (ctxCnt s rVhuCtxCnt f.ctx 2 1, f)

/-! ## VOXELISE_TILE, VOXELISATION_COMPLETE (R195, R198) -/

/-- Every point of lower index has been read by deskew. -/
def dskReach (ds : List Nat) (f : Frame) : Nat :=
  ds.foldl (fun m d =>
    let e := posIn ds d
    let done := mapGet 0 f.dskDone d
    if done < dskTotal f ds.length e then min m (e + ds.length * done) else m) f.pts.length

/-- VHUs of all dies work, with the leave of their run. -/
def vhuReady (s : State) (f : Frame) (ds : List Nat) : Bool :=
  ds.all (fun d => stageReady s d 0x08 && holdsLeave s f d (512 + 0x08))

/-- VOXELISE_TILE: the next 4,096 points that reach voxelisation, in ascending j, or the frame's last ones (R200). -/
def execVoxeliseTile (ctx num : Nat) (s : State) : Host.Outcome State Fault Refusal :=
  .next (
    match ctxOf s ctx, frameOf s ctx num with
    | some c, some f =>
      let ds := maskDies c.dieMask
      let reach := dskReach ds f
      let pts := (f.dpts.filter (fun q => f.voxNext ≤ q.j && q.j < reach)).take 4096
      if working f && !f.voxDone && vhuReady s f ds && decide (f.voxNext < reach) &&
          (decide (pts.length = 4096) || decide (reach = f.pts.length)) then
        let p := declOf s c.pkg
        let r := pts.foldl (voxOne p ds (hashShare c.cellCap ds.length) c.cellCap) (s, f)
        let nxt := if pts.length < 4096 then reach else ((pts.getLast?.map (·.j)).getD 0) + 1
        setFrame r.1 { r.2 with voxNext := nxt, dpts := r.2.dpts.filter (fun q => decide (nxt ≤ q.j)) }
      else s
    | _, _ => s)

/-- RBB_LAST of a context after a counting pass (R225). -/
def noteLast (s : State) (p : PkgDecl) (f : Frame) : State :=
  (List.range 16).foldl (fun a q =>
    let v := match classOp p q with
      | some d => if measured p d then mapGet 0 f.pairs q else 0xFFFFFFFF
      | none => 0xFFFFFFFF
    { a with cnt := mapSet 0 a.cnt (cfgKey rRbbLast (f.ctx * 16 + q)) v }) s

/-- The counts of measured classes, 0 for those without a cell. -/
def allPairs (p : PkgDecl) (pairs : List (Nat × Nat)) : List (Nat × Nat) :=
  (rbOps p).foldl (fun m d => if measured p d then mapPut m (byteAt d 3) (mapGet 0 m (byteAt d 3)) else m) pairs

/-- VOXELISATION_COMPLETE: every VHU has processed every point sent to it. -/
def execVoxelisationComplete (ctx num : Nat) (s : State) : Host.Outcome State Fault Refusal :=
  .next (
    match ctxOf s ctx, frameOf s ctx num with
    | some c, some f =>
      let ds := maskDies c.dieMask
      if working f && !f.voxDone && dskAllDone ds f && decide (f.pts.length ≤ f.voxNext) then
        let p := declOf s c.pkg
        let f1 := { f with voxDone := true, nCells := f.cells.length, psHalf := false,
                           pairs := allPairs p f.pairs }
        let s1 := ds.foldl (fun a d => returnLeave a f1 d (512 + 0x08)) s
        setFrame (noteLast (returnStreams s1 f1 1) p f1) (stamp s f1 3 1)
      else s
    | _, _ => s)

/-! ## Cell features (R199) -/

/-- rdiv(sum, count) on an axis. -/
def cellU (c : Cell) (a : Nat) : Int := rdiv (if a = 0 then c.su else if a = 1 then c.sv else c.sw) c.count

def cellIx (c : Cell) (a : Nat) : Nat := if a = 0 then keyX c.key else if a = 1 then keyY c.key else keyZ c.key

/-- Centroid of a cell on an axis. -/
def centroid (v : List Byte) (c : Cell) (a : Nat) : Int := gridO v a + (cellIx c a * gridS v a : Nat) + cellU c a

/-- Newest time of a cell: low 32 bits of the frame's latest admissible time less the newest age. -/
def newestTime (f : Frame) (c : Cell) : Nat := ((f.close + f.lead : Int) - c.age).toNat % 2 ^ 32

/-- The newest age is saturated; the newest time is then a lower limit. -/
def ageSaturated (c : Cell) : Bool := c.age == 2 ^ 27 - 1

end Sys2Proof.Machine
end

