-- ==== Sys2Proof/Machine/Curve.lean ====
section
/-!
DEFINITION. Curve keys (R206, R207), the split of a frame across its dies (R208 to R211), the curve sorter (R215), the
cell input tensor (R321), and the rulebook builder (R222 to R224).
Conventions: log entry 34 (DEDUCED), log entry 49 (DEDUCED), log entry 72 (DESIGN CHOICE), log entry 73 (DESIGN
CHOICE).
-/
namespace Sys2Proof.Machine

/-! ## Curve keys (R206) -/

/-- Three indices. -/
structure Ix3 where
  x : Nat
  y : Nat
  z : Nat
  deriving DecidableEq, Repr

def Ix3.get (v : Ix3) (a : Nat) : Nat := if a = 0 then v.x else if a = 1 then v.y else v.z

def Ix3.set (v : Ix3) (a n : Nat) : Ix3 :=
  if a = 0 then { v with x := n } else if a = 1 then { v with y := n } else { v with z := n }

/-- interleave. -/
def interleave (v : Ix3) : Nat :=
  ((List.range 21).map (fun q =>
    2 ^ (3 * q) * (4 * b2n (bitOf v.x q) + 2 * b2n (bitOf v.y q) + b2n (bitOf v.z q)))).sum

/-- One step of the first loop of hilbert. -/
def hilbertStep (q : Nat) (v : Ix3) (a : Nat) : Ix3 :=
  if bitOf (v.get a) q then v.set 0 (v.x ^^^ (2 ^ q - 1))
  else
    let t := (v.x ^^^ v.get a) % 2 ^ q
    let w := v.set 0 (v.x ^^^ t)
    w.set a (w.get a ^^^ t)

/-- q = 20 down to 1. -/
def hilbertQs : List Nat := (List.range 20).map (fun i => 20 - i)

/-- hilbert. -/
def hilbert (v : Ix3) : Nat :=
  let w := hilbertQs.foldl (fun a q => [0, 1, 2].foldl (hilbertStep q) a) v
  let y := w.y ^^^ w.x
  let z := w.z ^^^ y
  let t := hilbertQs.foldl (fun t q => if bitOf z q then t ^^^ (2 ^ q - 1) else t) 0
  interleave ⟨w.x ^^^ t, y ^^^ t, z ^^^ t⟩

/-- Curve key by the curve-order descriptor's choice (R205, R206). -/
def curveKey (kind : Nat) (v : Ix3) : Nat := if kind = 1 then hilbert v else interleave v

/-- Level-L curve key of a site (R207). -/
def levelKey (kind l : Nat) (v : Ix3) : Nat :=
  curveKey kind ⟨2 ^ l * v.x, 2 ^ l * v.y, 2 ^ l * v.z⟩ / 8 ^ l

def curveKind (p : PkgDecl) : Nat := byteAt (opAt p 2).desc 2

/-! ## Weights and cuts (R208 to R211) -/

/-- Weight of a die (R208). -/
def dieWeight (c : Ctx) (f : Frame) (d : Nat) : Nat :=
  if c.guaranteed then
    match f.shares.find? (fun e => e.1 == d) with
    | some (_, m, a) => c.share * 256 * min m (32 * a) / max 1 m
    | none => 0
  else 1

/-- Sums W_0 to W_k. -/
def runSums (l : List Nat) : List Nat := l.foldl (fun acc n => acc ++ [(acc.getLast?.getD 0) + n]) [0]

def weightSums (c : Ctx) (f : Frame) : List Nat := runSums ((maskDies c.dieMask).map (dieWeight c f))

/-- n shared out before each die, and after the last: ⌊n × W_e ÷ W⌋. -/
def shareOut (ws : List Nat) (n : Nat) : List Nat := ws.map (fun w => n * w / max 1 (ws.getLast?.getD 1))

/-- Position of the die whose part holds v: the last with a lower limit at most v. -/
def partAt (lims : List Nat) (v : Nat) : Nat := ((lims.dropLast).filter (fun x => decide (x ≤ v))).length - 1

/-- Cut keys κ_0 to κ_k (R209). -/
def cutKeys (f : Frame) : List Nat :=
  (enumFrom 0 f.cuts).map (fun b => if b.2 = f.order.length then 2 ^ 63 else if b.1 = 0 then 0 else f.order.getD b.2 0)

/-- Position of the owner of a site (R210). -/
def siteOwner (f : Frame) (l : Nat) (t : Site) : Nat := partAt (cutKeys f) (t.ckey * 8 ^ l)

/-- Sites of a level in rank order. -/
def sitesOf (f : Frame) (l : Nat) : List Site := (mapFind f.levels l).getD []

/-- Ranks of a level that the die at a position owns, ascending. -/
def ownedRanks (f : Frame) (l e : Nat) : List Nat :=
  ((enumFrom 0 (sitesOf f l)).filter (fun t => siteOwner f l t.2 == e)).map (·.1)

/-- Centroid of a site on an axis: the sum over its cells divided by rdiv (R199, R331). -/
def siteC (t : Site) (a : Nat) : Int := rdiv (if a = 0 then t.sx else if a = 1 then t.sy else t.sz) t.cnt

/-- Map rows of the band of the die at a position (R343). -/
def bandOf (ws : List Nat) (y e : Nat) : Nat × Nat :=
  let l := shareOut ws y
  (l.getD e 0, l.getD (e + 1) 0)

/-- Pixels of map rows lo to hi − 1, ascending. -/
def rowPixels (x lo hi : Nat) : List Nat := (List.range ((hi - lo) * x)).map (· + lo * x)

/-- Pixels a die owns, ascending. -/
def ownedPixels (ws : List Nat) (x y e : Nat) : List Nat := rowPixels x (bandOf ws y e).1 (bandOf ws y e).2

/-- Pixels of a die's halo rows: the h map rows on each side of its band (R343). -/
def haloPixels (ws : List Nat) (x y h e : Nat) : List Nat :=
  let b := bandOf ws y e
  rowPixels x (b.1 - h) b.1 ++ rowPixels x b.2 (min y (b.2 + h))

/-! ## Tensors and maps in the paddocks (R320, R343) -/

/-- A feature tensor as its owners hold it: each die its sites' rows in ascending rank. -/
def storeTensor (s : State) (c : Ctx) (f : Frame) (way : PadWay) (t : Nat) : State :=
  let p := declOf s c.pkg
  (enumFrom 0 (maskDies c.dieMask)).foldl (fun a d =>
    storeRows a d.2 way (.tensor f.ctx f.num t) (tensFmt p t)
      ((ownedRanks f (tensLevel p t) d.1).map (fun r => (mapFind ((mapFind f.tensors t).getD []) r).getD ⟨[], [], 0⟩))) s

/-- A map as its owners hold it: each die the pixels of its band, then its halo rows. -/
def storeMap (s : State) (c : Ctx) (f : Frame) (way : PadWay) (m : Nat) : State :=
  let p := declOf s c.pkg
  let ws := weightSums c f
  (enumFrom 0 (maskDies c.dieMask)).foldl (fun a d =>
    storeRows a d.2 way (.map f.ctx f.num m) (mapFmt p m)
      ((ownedPixels ws (mapX p m) (mapY p m) d.1 ++ haloPixels ws (mapX p m) (mapY p m) (mapHalo p m) d.1).map
        (fun r => (mapFind ((mapFind f.maps m).getD []) r).getD ⟨[], [], 0⟩))) s

/-! ## CURVE_ORDER_START, CURVE_ORDER_TILE (R215, R216) -/

/-- CURVE_ORDER_START: voxelisation is complete and the frame is accepted. -/
def execCurveOrderStart (ctx num : Nat) (s : State) : Host.Outcome State Fault Refusal :=
  .next (
    match frameOf s ctx num with
    | some f => if f.voxDone && f.phase == .accepted && !f.csuStarted then setFrame s { f with csuStarted := true } else s
    | none => s)

/-- Inserts a cell with its curve key in ascending key. -/
def cellInsert (k : Nat) (c : Cell) : List (Nat × Cell) → List (Nat × Cell)
  | [] => [(k, c)]
  | (j, x) :: l => if j < k then (j, x) :: cellInsert k c l else (k, c) :: (j, x) :: l

/-- The cells in ascending curve key. -/
def curveSort (kind : Nat) (cells : List Cell) : List (Nat × Cell) :=
  cells.foldl (fun a c => cellInsert (curveKey kind ⟨keyX c.key, keyY c.key, keyZ c.key⟩) c a) []

/-- A level-0 site. -/
def cellSite (v : List Byte) (k : Nat) (c : Cell) : Site :=
  ⟨keyX c.key, keyY c.key, keyZ c.key, k, c.count, c.count * centroid v c 0, c.count * centroid v c 1,
    c.count * centroid v c 2⟩

/-- BF16 code of a quotient, converted once: a sticky bit stands for what the quotient leaves. -/
def bf16Quot (n : Int) (d : Nat) : Nat :=
  let m := n.natAbs * 2 ^ 64
  fBF16.convert (.fin (decide (n < 0)) (m / max 1 d * 2 + b2n (m % max 1 d != 0)) (-65))

/-- A row of tensor 0 (R321). -/
def cellRow (v : List Byte) (c : Cell) : Row :=
  let bf := fun (n : Int) (e : Int) => fBF16.convert ((Val.ofInt n).shift e)
  let off := [0, 1, 2].map (fun a => bf16Quot (2 * cellU c a + 1 - gridS v a) (gridS v a))
  let cen := [0, 1, 2].map (fun a => bf (centroid v c a) (-12))
  let sweep := (List.range 16).map (fun i => bf (b2n (bitOf c.sweep i)) 0)
  ⟨off ++ [bf c.count 0, bf c.inten (-16), bf c.age (-20)] ++ cen ++ sweep ++ [bf (b2n (c.age == 2 ^ 27 - 1)) 0] ++
    List.replicate 6 0, [], 0⟩

/-- The stage-unit port of a die carries what its units leave in the paddocks (R242). -/
def stageWay (f : Frame) : PadWay := .unit 11 (.frame f.ctx f.num)

/-- A cell of the cell table (R199, R215), one line: key, centroid, count, maximum intensity, sweep mask, newest time, and
whether its age is saturated (log entry 73, DESIGN CHOICE: the spec gives the features and no layout). -/
def cellLine (v : List Byte) (f : Frame) (c : Cell) : List Byte :=
  padTo 64 (leBytes 8 c.key ++ (List.range 3).flatMap (fun a => leBytes 4 (unsigned 32 (centroid v c a))) ++ leBytes 4 c.count ++
    leBytes 2 c.inten ++ leBytes 2 c.sweep ++ leBytes 4 (unsigned 32 ((f.close + f.lead : Nat) - (c.age : Int))) ++
    leBytes 1 (b2n (c.age == 2 ^ 27 - 1)))

/-- Each owner holds its cells as a cell table, in ascending rank (R215). -/
def storeCells (s : State) (c : Ctx) (f : Frame) : State :=
  let v := vhuDesc (declOf s c.pkg)
  (enumFrom 0 (maskDies c.dieMask)).foldl (fun a d =>
    padMove a d.2 11 (.frame f.ctx f.num) (.cells f.ctx f.num)
      (((f.cells.drop (f.cuts.getD d.1 0)).take (f.cuts.getD (d.1 + 1) 0 - f.cuts.getD d.1 0)).flatMap (cellLine v f))) s

/-- What curve order leaves on the dies and in the counters of R225. -/
def noteOrder (s : State) (f : Frame) (ds : List Nat) : State :=
  let s1 := (enumFrom 0 ds).foldl (fun a d =>
    modDie a d.2 (fun x => { x with csuOwned := f.cuts.getD (d.1 + 1) 0 - f.cuts.getD d.1 0 })) s
  let s2 := ctxCnt (ctxCnt s1 rCsuCtxCnt f.ctx 0 1) rCsuCtxCnt f.ctx 1 f.cells.length
  if 2 ≤ ds.length then ctxCnt s2 rCsuCtxCnt f.ctx 2 1 else s2

/-- The frame ordered: ranks, cuts, level 0 and tensor 0. -/
def orderFrame (s : State) (c : Ctx) (f : Frame) : Frame :=
  let p := declOf s c.pkg
  let v := vhuDesc p
  let l := curveSort (curveKind p) f.cells
  let rows := (enumFrom 0 l).map (fun x => (x.1, cellRow v x.2.2))
  { f with cells := (enumFrom 0 l).map (fun x => { x.2.2 with rank := x.1 }), order := l.map (·.1),
           cuts := shareOut (weightSums c f) l.length, levels := [(0, l.map (fun x => cellSite v x.1 x.2))],
           tensors := [(0, rows)], ordered := true, run := { blankRun with op := 3 } }

/-- Cells of a die's home partition. -/
def homeCells (f : Frame) (d : Nat) : Nat := (f.cells.filter (fun c => c.die == d)).length

/-- The die has done all its items of a stage run. -/
def itemsDone (m : List (Nat × Nat)) (d total : Nat) : Bool :=
  match mapFind m d with
  | some n => decide (total ≤ n)
  | none => false

/-- CURVE_ORDER_TILE: the next 4,096 cells of a die's home partition. With the last tile of the last die the frame is
ordered. -/
def execCurveOrderTile (ctx num die : Nat) (s : State) : Host.Outcome State Fault Refusal :=
  .next (
    match ctxOf s ctx, frameOf s ctx num with
    | some c, some f =>
      let ds := maskDies c.dieMask
      if f.csuStarted && !f.ordered && ds.contains die && stageReady s die 0x09 && holdsLeave s f die (512 + 0x09) &&
          !itemsDone f.csuDone die (homeCells f die) then
        let n := min (homeCells f die) (mapGet 0 f.csuDone die + 4096)
        let f1 := { f with csuDone := mapPut f.csuDone die n }
        let s1 := if n = homeCells f die then returnLeave s f die (512 + 0x09) else s
        if ds.all (fun d => itemsDone f1.csuDone d (homeCells f d)) then
          let f2 := orderFrame s c f1
          setFrame (storeTensor (storeCells (noteOrder (returnStreams s1 f1 2) f2 ds) c f2) c f2 (stageWay f2) 0) (stamp s f2 4 2)
        else setFrame s1 f1
      else s
    | _, _ => s)

/-! ## Pairs (R222) -/

/-- Rank of the site at coordinates of a level. -/
def rankAt (sites : List Site) (x y z : Int) : Option Nat :=
  ((enumFrom 0 sites).find? (fun t => (t.2.ix : Int) == x && (t.2.iy : Int) == y && (t.2.iz : Int) == z)).map (·.1)

/-- The level-L + 1 sites: the parents, in ascending key. -/
def siteInsert (t : Site) : List Site → List Site
  | [] => [t]
  | x :: l =>
    if x.ckey < t.ckey then x :: siteInsert t l
    else if x.ckey = t.ckey then
      { x with cnt := x.cnt + t.cnt, sx := x.sx + t.sx, sy := x.sy + t.sy, sz := x.sz + t.sz } :: l
    else t :: x :: l

def parentSites (kind l : Nat) (sites : List Site) : List Site :=
  sites.foldl (fun a t =>
    siteInsert { t with ix := t.ix / 2, iy := t.iy / 2, iz := t.iz / 2,
                        ckey := levelKey kind (l + 1) ⟨t.ix / 2, t.iy / 2, t.iz / 2⟩ } a) []

/-- δ of an offset index. -/
def offsetOf (d : List Byte) (i : Nat) : Int × Int × Int :=
  if byteAt d 2 = 0 then
    let ky := byteAt d 6
    let kz := byteAt d 7
    ((i / (ky * kz) : Nat) - ((byteAt d 5 - 1) / 2 : Nat), (i / kz % ky : Nat) - ((ky - 1) / 2 : Nat),
      (i % kz : Nat) - ((kz - 1) / 2 : Nat))
  else if byteAt d 5 = 2 then ((i / 4 : Nat), (i / 2 % 2 : Nat), (i % 2 : Nat))
  else nbOff i

/-- Pairs of one output at coordinates base + δ of the input level. -/
def outputPairs (sites : List Site) (d : List Byte) (vol out : Nat) (b : Int × Int × Int) : List Pair :=
  (List.range vol).filterMap (fun i =>
    let o := offsetOf d i
    (rankAt sites (b.1 + o.1) (b.2.1 + o.2.1) (b.2.2 + o.2.2)).map (fun r => ⟨r, out, i⟩))

/-- Inserts a pair in ascending offset index. -/
def pairInsert (p : Pair) : List Pair → List Pair
  | [] => [p]
  | q :: l => if q.off ≤ p.off then q :: pairInsert p l else p :: q :: l

/-- Output sites of a class. -/
def outSites (p : PkgDecl) (f : Frame) (d : List Byte) : List Site :=
  if byteAt d 2 = 1 then parentSites (curveKind p) (byteAt d 4) (sitesOf f (byteAt d 4))
  else if byteAt d 2 = 2 then sitesOf f (((classOp p (byteAt d 8)).map (fun e => byteAt e 4)).getD 0)
  else sitesOf f (byteAt d 4)

/-- Level of a class's output sites. -/
def outLevel (p : PkgDecl) (d : List Byte) : Nat :=
  if byteAt d 2 = 1 then byteAt d 4 + 1
  else if byteAt d 2 = 2 then ((classOp p (byteAt d 8)).map (fun e => byteAt e 4)).getD 0
  else byteAt d 4

def bookOf (f : Frame) (q : Nat) : ClassBook := (f.books.find? (fun b => b.cls == q)).getD ⟨q, [], [], []⟩

/-- The pairs of a convolution class, by output rank and then offset index. -/
def classPairs (p : PkgDecl) (f : Frame) (d : List Byte) : List Pair :=
  let outs := enumFrom 0 (outSites p f d)
  let sites := sitesOf f (byteAt d 4)
  if byteAt d 2 = 0 then outs.flatMap (fun u => outputPairs sites d (kernelVolume p d) u.1 (u.2.ix, u.2.iy, u.2.iz))
  else if byteAt d 2 = 1 then
    outs.flatMap (fun u => outputPairs sites d (kernelVolume p d) u.1 (2 * u.2.ix, 2 * u.2.iy, 2 * u.2.iz))
  else
    let src := (bookOf f (byteAt d 8)).pairs
    outs.flatMap (fun u => ((src.filter (fun q => q.inp == u.1)).foldl
      (fun a q => pairInsert ⟨q.out, u.1, q.off⟩ a) []))

/-! ## Neighbour lists (R224) -/

/-- Squared distance of two centroids. -/
def dist2 (a b : Site) : Nat :=
  (siteC a 0 - siteC b 0).natAbs ^ 2 + (siteC a 1 - siteC b 1).natAbs ^ 2 + (siteC a 2 - siteC b 2).natAbs ^ 2

/-- Inserts a candidate by squared distance, then rank. -/
def candInsert (c : Nat × Nat) : List (Nat × Nat) → List (Nat × Nat)
  | [] => [c]
  | x :: l => if x.1 < c.1 || (x.1 == c.1 && x.2 < c.2) then x :: candInsert c l else c :: x :: l

/-- Candidates of a rank: max(0, r − w) to min(N − 1, r + w). -/
def candidates (n w r : Nat) : List Nat := (List.range (min (n - 1) (r + w) + 1 - (r - w))).map (· + (r - w))

/-- The neighbour list of a rank. -/
def neighbours (sites : List Site) (d : List Byte) (r : Nat) : List Nat :=
  match sites[r]? with
  | none => []
  | some c =>
    let l := (candidates sites.length (byteAt d 9) r).foldl
      (fun a q => match sites[q]? with | some t => candInsert (dist2 c t, q) a | none => a) []
    let keep := if byteAt d 2 = 3 then l.filter (fun x => decide (x.1 ≤ u32 d 12 ^ 2)) else l
    (keep.take (byteAt d 10)).map (·.2)

/-! ## RULEBOOK_TILE (R211, R223, R225) -/

/-- The m slots of a query's result: the list, and 0xFFFF_FFFF in the unused ones (R224). -/
def querySlots (m : Nat) (l : List Nat) : List Nat := l ++ List.replicate (m - l.length) 0xFFFF_FFFF

/-- A class as it is built. -/
def buildClass (p : PkgDecl) (f : Frame) (d : List Byte) : ClassBook :=
  if isQuery d then
    let l := (List.range (sitesOf f 0).length).map (neighbours (sitesOf f 0) d)
    ⟨byteAt d 3, [], l.map (querySlots (byteAt d 10)), l.map (·.length)⟩
  else ⟨byteAt d 3, classPairs p f d, [], []⟩

/-- The used slots of an output of a query. -/
def usedSlots (b : ClassBook) (o : Nat) : List Nat := (b.lists.getD o []).take (b.counts.getD o 0)

/-- Pairs of an output: of the class, or the slots its neighbour list fills (R222). -/
def outputCount (b : ClassBook) (o : Nat) : Nat := (b.pairs.filter (fun q => q.out == o)).length + b.counts.getD o 0

/-- Rank of the first pair of each output of n, and the pair count. -/
def pairStarts (b : ClassBook) (n : Nat) : List Nat := runSums ((List.range n).map (outputCount b))

/-- Outputs, of n, whose pair ranks fall to the die at a position (R211). -/
def pairOutputs (ws : List Nat) (b : ClassBook) (n e : Nat) : List Nat :=
  let st := pairStarts b n
  let lims := shareOut ws (st.getLast?.getD 0)
  ((enumFrom 0 st.dropLast).filter (fun x => partAt lims x.2 == e)).map (·.1)

/-- Outputs of a class that a die builds. -/
def buildOutputs (c : Ctx) (p : PkgDecl) (f : Frame) (d : List Byte) (e : Nat) : List Nat :=
  let outs := outSites p f d
  if measured p d then pairOutputs (weightSums c f) (buildClass p f d) outs.length e
  else ((enumFrom 0 outs).filter (fun t => siteOwner f (outLevel p d) t.2 == e)).map (·.1)

/-- The counters of a built class. -/
def countBuild (s : State) (p : PkgDecl) (f : Frame) (d : List Byte) (b : ClassBook) : State :=
  let s1 := ctxCnt s rRbbCtxCnt f.ctx 1 (b.pairs.length + b.counts.sum)
  if isQuery d then
    let n := b.lists.length
    let s2 := ctxCnt s1 rRbbCtxCnt f.ctx 3 n
    let s3 := ctxCnt s2 rRbbCtxCnt f.ctx 4 (b.counts.filter (fun n => decide (n < byteAt d 10))).length
    ctxCnt s3 rRbbCtxCnt f.ctx 5 ((List.range n).map (fun r => (candidates n (byteAt d 9) r).length)).sum
  else if measured p d || byteAt d 2 == 2 then s1
  else ctxCnt s1 rRbbCtxCnt f.ctx 2 ((outSites p f d).length * kernelVolume p d)

/-- The frame with a class built, and the level it creates (R207). -/
def keepBook (p : PkgDecl) (f : Frame) (d : List Byte) (b : ClassBook) : Frame :=
  let f1 := { f with books := f.books ++ [b] }
  if byteAt d 2 = 1 then { f1 with levels := mapPut f1.levels (outLevel p d) (outSites p f d) } else f1

/-- The run of the next operator. -/
def nextRun (f : Frame) : Frame := { f with run := { blankRun with op := f.run.op + 1 } }

/-- The run of a stage's operator ends with what it leaves in the frame. -/
def endRun (s : State) (f : Frame) (code : Nat) : State :=
  setFrame (returnStreams s f f.run.op) (stamp s (nextRun f) code f.run.op)

/-- A stage operator serves the die: dispatched, its unit ready and its leave held. -/
def stageServes (s : State) (f : Frame) (d blk : Nat) : Bool :=
  f.phase == .accepted && f.run.dies.contains d && opBlock (runOp s f) == blk && !isStallOp (runOp s f) &&
    stageReady s d blk && holdsLeave s f d (512 + blk)

/-! ## Foreign rows (R213) -/

/-- A rank of a level belongs to another die than the one at a position. -/
def foreignRank (f : Frame) (l e r : Nat) : Bool :=
  match (sitesOf f l)[r]? with
  | some t => siteOwner f l t != e
  | none => false

/-- A row of a tensor as a key: row × 2^32 + tensor, so that lower ranks come first. -/
def featKey (t r : Nat) : Nat := r * 2 ^ 32 + t

/-- Foreign rows that a query of the die at a position reads for some outputs: its candidates. -/
def queryForeign (f : Frame) (d : List Byte) (e : Nat) (us : List Nat) : List Nat :=
  (us.flatMap (fun u =>
    ((candidates (sitesOf f 0).length (byteAt d 9) u).filter (foreignRank f 0 e)).map (featKey 0))).eraseDups

/-- Rows of a list that are read remotely: those that the die's halo copy does not hold. -/
def remoteRows (f : Frame) (d : Nat) (rows : List Nat) : List Nat :=
  let copied := (mapFind f.run.halo d).getD []
  rows.filter (fun r => !copied.contains r)

/-- Rows read remotely are counted. The model counts a row once for each tile that reads it (log entry 72, DESIGN CHOICE). -/
def countRemote (s : State) (f : Frame) (d : Nat) (rows : List Nat) : State :=
  ctxCnt s rCsuCtxCnt f.ctx 4 (remoteRows f d rows).length

/-- Die that owns a row of a tensor, by its key. -/
def rowOwner (c : Ctx) (p : PkgDecl) (f : Frame) (key : Nat) : Nat :=
  let l := tensLevel p (key % 2 ^ 32)
  match (sitesOf f l)[key / 2 ^ 32]? with
  | some t => (maskDies c.dieMask).getD (siteOwner f l t) 0
  | none => 0

/-- The data network carries a request from a die and the answer to it (R13, R17, R18). -/
def reaches (s : State) (d e : Nat) : Bool := d == e || (routeOpen s d e && routeOpen s e d)

/-- It reaches the owners of the rows from a die. -/
def rowsReach (s : State) (c : Ctx) (p : PkgDecl) (f : Frame) (d : Nat) (rows : List Nat) : Bool :=
  ((rows.map (rowOwner c p f)).eraseDups).all (reaches s d)

/-- RULEBOOK_TILE: the next 4,096 output sites of a die. With the last tile of the last die the class is built. -/
def execRulebookTile (ctx num die : Nat) (s : State) : Host.Outcome State Fault Refusal :=
  .next (
    match ctxOf s ctx, frameOf s ctx num with
    | some c, some f =>
      let ds := maskDies c.dieMask
      let p := declOf s c.pkg
      let d := (runOp s f).desc
      let total := fun x => (buildOutputs c p f d (posIn ds x)).length
      let from_ := mapGet 0 f.run.done die
      let us := (buildOutputs c p f d (posIn ds die)).drop from_
      let far := if isQuery d then remoteRows f die (queryForeign f d (posIn ds die) (us.take 4096)) else []
      if stageServes s f die 0x0A && opCode (runOp s f) == cRulebook && !itemsDone f.run.done die (total die) &&
          movesDone s die (fun x => x.for_ == .frame f.ctx f.num) && rowsReach s c p f die far then
        let n := min (total die) (from_ + 4096)
        let s0 := ctxCnt s rCsuCtxCnt f.ctx 4 far.length
        let s1 := if n = total die then returnLeave s0 f die (512 + 0x0A) else s0
        let run := { f.run with done := mapPut f.run.done die n }
        if ds.all (fun x => itemsDone run.done x (total x)) then
          let b := buildClass p f d
          endRun (countBuild s1 p f d b) (keepBook p f d b) 4
        else setFrame s1 { f with run := run }
      else s
    | _, _ => s)

end Sys2Proof.Machine
end

