-- ==== Sys2Proof/Machine/Weights.lean ====
section
/-!
DEFINITION. Weight tensors (R289 to R295, R315), predictor rows (R307, R308) and the pruning unit (R311 to R313), and
the control blocks of a stall operator (R259, R260, R306).
Conventions: log entry 57 (DESIGN CHOICE), log entry 86 (DESIGN CHOICE).
-/
namespace Sys2Proof.Machine

/-! ## Control blocks -/

/-- Fields of the arithmetic control block at byte 16 of a descriptor (R260). -/
def acbA (d : List Byte) : Nat := byteAt d 16 % 16
def acbW (d : List Byte) : Nat := byteAt d 16 / 16
def acbOut (d : List Byte) : Nat := byteAt d 17 % 16
def acbFused (d : List Byte) : Nat := byteAt d 17 / 16
def acbOp (d : List Byte) : Nat := byteAt d 18 % 4
def acbPreload (d : List Byte) : Bool := bitOf (byteAt d 18) 2
def acbShift (d : List Byte) : Nat := byteAt d 19 % 32

/-- The integer path (R259). -/
def intPath (d : List Byte) : Bool := acbA d ≤ 1 && acbW d ≤ 1

/-- Products per step of a lane in a format (R228). -/
def laneRate (f : Nat) : Nat :=
  if f = 4 ∨ f = 5 then 16 else if f = 1 ∨ f = 9 ∨ f = 10 ∨ f = 11 then 64 else 32

/-- r of an operator (R259, R301). -/
def opRate (d : List Byte) : Nat := min (laneRate (acbA d)) (laneRate (acbW d))

/-- Fields of the sparsity control block at byte 32 (R306); attention has none. -/
def scbRuns (d : List Byte) : Bool := bitOf (byteAt d 32) 0
def scbPredict (d : List Byte) : Bool := bitOf (byteAt d 32) 1
def scbPrune (d : List Byte) : Bool := bitOf (byteAt d 32) 2
def scbSigma (d : List Byte) : Int := signed 8 (byteAt d 33)
def scbTarget (d : List Byte) : Nat := u16 d 34
def scbTau (d : List Byte) : Int := i32 d 36
def scbSkip (d : List Byte) : Nat := u32 d 40

/-! ## Stored tensors -/

/-- Tile number of a tensor (R289, R292). -/
def tileNo (w : List Byte) (to_ tk : Nat) : Nat := to_ * whTk w + tk

/-- The presence bitmap as a number. -/
def bitmapOf (w : List Byte) : Nat := leNat (slice w (u32 w 16) (whBitmapLen w))

/-- Ones among the n low bits. -/
def onesBelow (b n : Nat) : Nat := ((List.range n).filter (bitOf b)).length

/-- Rank of a present tile; a rank of P or more is absent (R292, R315). -/
def tileRank (w : List Byte) (to_ tk : Nat) : Option Nat :=
  let n := tileNo w to_ tk
  let b := bitmapOf w
  if bitOf b n && decide (onesBelow b n < whP w) then some (onesBelow b n) else none

/-- Place in the tensor of byte i of the tile of a rank: within the data region, modulo its length (R315). -/
def tilePlace (w : List Byte) (rank i : Nat) : Nat :=
  u32 w 24 + (u32 w (u32 w 20 + 4 * rank) + i) % max 1 (u32 w 28)

/-- n bytes of a tile from byte i. -/
def tileBytes (w : List Byte) (rank i n : Nat) : List Byte := (List.range n).map (fun j => w.getD (tilePlace w rank (i + j)) 0)

/-- Group modes of a tile (R293). -/
def tileModes (w : List Byte) (rank : Nat) : Nat := leNat (tileBytes w rank 0 16)

/-- Coded groups of a row. -/
def codedOf (modes r : Nat) : List Bool := (List.range 4).map (fun g => bitOf modes (4 * r + g))

/-- Byte length of a tile row (R294). -/
def tileRowLen (width : Nat) (coded : List Bool) : Nat :=
  let c := (coded.filter (fun b => b)).length
  ceilDiv (width * (8 * (coded.length - c) + 4 * c) + 12 * c) 8

/-- First byte of a row within its tile. -/
def tileRowStart (width modes r : Nat) : Nat := 16 + ((List.range r).map (fun i => tileRowLen width (codedOf modes i))).sum

/-- Values of a row's groups: per group, whether it is coded, and the bit its values start at. -/
def groupBits (width : Nat) (coded : List Bool) : List (Bool × Nat) :=
  (coded.foldl (fun (a : List (Bool × Nat) × Nat) b => (a.1 ++ [(b, a.2)], a.2 + width * (if b then 4 else 8))) ([], 0)).1

/-- A coded group's 8 columns: the highest-numbered slot that names a column governs (R294). -/
def codedGroup (width v at_ codes : Nat) : List (Option Nat) :=
  (List.range 8).map (fun col =>
    (([3, 2, 1, 0].find? (fun sl => codes / 2 ^ (3 * sl) % 8 == col)).map (fun sl => v / 2 ^ (at_ + width * sl) % 2 ^ width)))

/-- The 32 stored codes of a tile row read as an integer; none is a structural zero (R294, R295). -/
def rowCodes (width v : Nat) (coded : List Bool) : List (Option Nat) :=
  let base := width * ((coded.map (fun b => if b then 4 else 8)).sum)
  (enumFrom 0 (groupBits width coded)).flatMap (fun g =>
    if g.2.1 then
      codedGroup width v g.2.2 (v / 2 ^ (base + 12 * ((coded.take g.1).filter (fun b => b)).length) % 4096)
    else (List.range 8).map (fun i => some (v / 2 ^ (g.2.2 + width * i) % 2 ^ width)))

/-- One row of a column block: the stored codes and the scale byte. -/
structure WRow where
  codes : List (Option Nat)
  scale : Nat
  absent : Bool
  deriving DecidableEq, Repr

/-- Columns K and above are structural zeros (R295). -/
def cutColumns (w : List Byte) (tk : Nat) (l : List (Option Nat)) : List (Option Nat) := l.take (whK w - 32 * tk)

/-- Row o of column block tk (R291 to R295). -/
def wRow (w : List Byte) (o tk : Nat) : WRow :=
  let width := fmtBits (whFmt w)
  if whO w ≤ o then ⟨[], 0, true⟩
  else if whCompressed w then
    match tileRank w (o / 32) tk with
    | none => ⟨[], 0, true⟩
    | some rank =>
      let modes := tileModes w rank
      let coded := codedOf modes (o % 32)
      let v := leNat (tileBytes w rank (tileRowStart width modes (o % 32)) (tileRowLen width coded))
      ⟨cutColumns w tk (rowCodes width v coded), byteAt w (u32 w 32 + 32 * rank + o % 32), false⟩
  else
    let v := leNat (slice w (u32 w 24 + (o * whTk w + tk) * (4 * width)) (4 * width))
    ⟨cutColumns w tk ((List.range 32).map (fun i => some (v / 2 ^ (width * i) % 2 ^ width))),
      byteAt w (u32 w 32 + o * whTk w + tk), false⟩

/-- Stored code of a column, none for a structural zero. -/
def WRow.code (r : WRow) (i : Nat) : Option Nat := (r.codes.getD i none)

/-- Every weight of the block is a structural zero (R296). -/
def WRow.empty (r : WRow) : Bool := r.codes.all (·.isNone)

/-- Value of a stored weight. -/
def wValue (f : Nat) (r : WRow) (code : Nat) : Val := if isMx f then mxScale r.scale (codeValue f code) else codeValue f code

/-! ## Predictors (R307, R308) -/

/-- INT4 weight of predictor row q at column k. -/
def predWeight (w : List Byte) (q k : Nat) : Int :=
  let b := byteAt w (u32 w 36 + q * (whTk w * 16) + k / 2)
  signed 4 (if k % 2 = 0 then b else b / 16)

/-- a′ of an activation. -/
def predAct (sigma : Int) (a : Val) : Int :=
  match a with
  | .nan => 0
  | .inf n => if n then -8 else 7
  | x => max (-8) (min 7 (x.shift sigma).round)

/-! ## The pruning unit (R312) -/

/-- Inserts a column by its value's magnitude, NaN first, ties to the lower column. -/
def pruneInsert (c : Nat × Val) : List (Nat × Val) → List (Nat × Val)
  | [] => [c]
  | x :: l =>
    let mag := fun (v : Val) => if v.isNeg then v.neg else v
    let before := c.2.isNan && !x.2.isNan || (!x.2.isNan && (mag x.2).lt (mag c.2))
    if before then c :: x :: l else x :: pruneInsert c l

/-- The 4 kept columns of a group, ascending. -/
def keptColumns (vs : List Val) : List Nat :=
  natSort ((((enumFrom 0 vs).foldl (fun a c => pruneInsert c a) []).take 4).map (·.1))

/-- Stored code of a kept value in a format that is not MX; an integer format takes the nearest integer, ties to even,
saturated (R273); a NaN's code is left open. -/
def pruneCode (f : Nat) (v : Val) : Nat :=
  if isIntFmt f then
    match v with
    | .nan => Config.nanAsInt f % 2 ^ fmtBits f
    | .inf n => unsigned (fmtBits f) (if n then -(intMax f) else intMax f)
    | x => unsigned (fmtBits f) (max (-(intMax f)) (min (intMax f) x.round))
  else (floatFmt f).convert v

/-- The bytes of a rewritten tile row, all groups coded, and its scale byte. -/
def prunedRow (f : Nat) (vs : List Val) : List Byte × Nat :=
  let width := fmtBits f
  let kept := (List.range 4).map (fun g => keptColumns ((vs.drop (8 * g)).take 8))
  let live := (List.range 32).map (fun c => if (kept.getD (c / 8) []).contains (c % 8) then vs.getD c Val.zero else Val.zero)
  let blk := if isMx f then mxBlock f live else (0, live.map (pruneCode f))
  let slots := (enumFrom 0 kept).flatMap (fun g => g.2.map (fun c => blk.2.getD (8 * g.1 + c) 0))
  let codes := kept.map (fun k => (enumFrom 0 k).map (fun x => x.2 * 8 ^ x.1)) |>.map (·.sum)
  let v := ((enumFrom 0 slots).map (fun x => x.2 * 2 ^ (width * x.1))).sum
  let u := ((enumFrom 0 codes).map (fun x => x.2 * 2 ^ (16 * width + 12 * x.1))).sum
  (leBytes (ceilDiv (16 * width + 48) 8) (v + u), blk.1)

/-- Offsets and bytes written for row o of a target tensor, and the groups written. A target column below K for which the operator
has no output element is rewritten with the value 0: R312 does not say (log entry 86, DESIGN CHOICE). -/
def pruneWrites (w : List Byte) (o : Nat) (vs : List Val) : List (Nat × Byte) × Nat :=
  let f := whFmt w
  let at_ := fun k => if k < whK w then vs.getD k Val.zero else Val.zero
  (List.range (whTk w)).foldl (fun a tk =>
    match tileRank w (o / 32) tk with
    | none => a
    | some rank =>
      let r := prunedRow f ((List.range 32).map (fun i => at_ (32 * tk + i)))
      let start := tileRowStart (fmtBits f) (tileModes w rank) (o % 32)
      let data := (enumFrom 0 r.1).map (fun b => (tilePlace w rank (start + b.1), b.2))
      let scale := if isMx f then [(u32 w 32 + 32 * rank + o % 32, BitVec.ofNat 8 r.2)] else []
      (a.1 ++ data ++ scale, a.2 + 4)) ([], 0)

/-- Writes into a context's copy of a tensor: only bytes that differ from the package's are listed. -/
def adaptWrite (p : PkgDecl) (t : Nat) (c : Ctx) (l : List (Nat × Byte)) : Ctx :=
  let base := tensorBytes p t
  let m := l.foldl (fun (m : List (Nat × Byte)) e =>
    if base.getD e.1 0 = e.2 then mapDel m e.1 else mapPut m e.1 e.2) ((mapFind c.adapted t).getD [])
  { c with adapted := if m = [] then mapDel c.adapted t else mapPut c.adapted t m }

end Sys2Proof.Machine
end

