-- ==== Sys2Proof/Machine/Kernels.lean ====
section
/-!
DEFINITION. The results of the stall operators element by element: convolution over rulebook classes and over maps
(R259 to R281, R322 to R327, R348 to R350), point attention (R330 to R335) and point-wise activation (R336, R337).
Conventions: log entry 48 (DEDUCED), log entry 50 (DEDUCED), log entry 57 (DESIGN CHOICE).
-/
namespace Sys2Proof.Machine

/-! ## Reading rows -/

def rowsOf (m : List (Nat × List (Nat × Row))) (t : Nat) : List (Nat × Row) := (mapFind m t).getD []

def blankRow : Row := ⟨[], [], 0⟩

def rowOf (m : List (Nat × List (Nat × Row))) (t r : Nat) : Row := (mapFind (rowsOf m t) r).getD blankRow

/-- What one output row of a convolution is made of: for each weight slot the input row it takes, and the fused row. -/
structure ConvRow where
  taps : List (Option Row)
  fused : Option Row
  deriving DecidableEq, Repr

/-- A convolution's operands: descriptor, weights, chunks per tap, output channels, chunks of a row, and the vector of
fused source 2. -/
structure ConvOp where
  d : List Byte
  w : List Byte
  cpt : Nat
  cout : Nat
  n : Nat
  vec : Option (List Byte)
  deriving DecidableEq, Repr

/-- A fused value is used. -/
def ConvOp.usesFused (k : ConvOp) : Bool := acbOp k.d != 0 || acbPreload k.d

/-- The fused value of an element (R272, R325). -/
def ConvOp.fusedVal (k : ConvOp) (r : ConvRow) (co : Nat) : Val :=
  match k.vec with
  | some v =>
    let wr := wRow v 0 (co / 32)
    (match wr.code (co % 32) with
     | some c => wValue (whFmt v) wr c
     | none => Val.zero)
  | none =>
    match r.fused with
    | some f => rowValue (acbFused k.d) f co
    | none => Val.zero

/-! ## Chunks (R262, R295, R296, R300, R301, R324) -/

/-- A lane stream entry (R299): columns skipped before it, whether it is the last live product of its chunk, and the
activation and weight codes. -/
structure StreamEntry where
  skip : Nat
  last : Bool
  act : Nat
  weight : Nat
  deriving DecidableEq, Repr

/-- The entry's bits, for activations of `wa` bits. -/
def StreamEntry.bits (wa : Nat) (e : StreamEntry) : Nat := e.skip + 32 * b2n e.last + 64 * e.act + 2 ^ (wa + 6) * e.weight

/-- Columns of a chunk with a stored weight and, with run lengths selected, an activation that is no structural zero. -/
def liveColumns (k : ConvOp) (row : Row) (wr : WRow) (b : Nat) : List Nat :=
  (List.range 32).filter (fun i => (wr.code i).isSome && !(scbRuns k.d && rowZero (acbA k.d) row (32 * b + i)))

/-- The stream that the expander feeds a lane for one chunk. -/
def laneStream (k : ConvOp) (row : Row) (wr : WRow) (b : Nat) : List StreamEntry :=
  let cols := liveColumns k row wr b
  (enumFrom 0 cols).map (fun c =>
    ⟨c.2 - (if c.1 = 0 then 0 else cols.getD (c.1 - 1) 0 + 1), c.1 + 1 == cols.length, row.codes.getD (32 * b + c.2) 0,
      (wr.code c.2).getD 0⟩)

/-- Columns of a stream's entries, the first not before `n`. -/
def streamColumns : Nat → List StreamEntry → List Nat
  | _, [] => []
  | n, e :: l => (n + e.skip) :: streamColumns (n + e.skip + 1) l

/-- The factors of the 32 columns of a chunk as its lane takes them from the stream: activation and weight of a live
product. -/
def liveFactors (k : ConvOp) (row : Row) (wr : WRow) (b : Nat) : List (Option (Val × Val)) :=
  let l := laneStream k row wr b
  let at_ := (streamColumns 0 l).zip l
  (List.range 32).map (fun i => (at_.find? (fun e => e.1 == i)).map (fun e =>
    (rowValue (acbA k.d) row (32 * b + i), wValue (acbW k.d) wr e.2.weight)))

/-- One chunk of an element: not computed (no activation, or no weight stored), or its live factors. -/
def chunkOf (k : ConvOp) (r : ConvRow) (co j : Nat) : Option (List (Option (Val × Val))) :=
  match (r.taps[j / max 1 k.cpt]?).join with
  | none => none
  | some row =>
    let wr := wRow k.w co j
    if wr.empty then none else some (liveFactors k row wr (j % max 1 k.cpt))

/-- Live count of a computed chunk (R301). -/
def liveCount (l : List (Option (Val × Val))) : Nat := (l.filter (·.isSome)).length

/-- Float value of a chunk in an attempt with scale step q (R263, R279). -/
def chunkF (q : Nat) (c : Option (List (Option (Val × Val)))) : Val :=
  match c with
  | none => Val.zero
  | some l => chunkValue (l.map (fun x => match x with
      | some (a, w) => (a.mul w).shift (-(8 * q : Nat))
      | none => Val.zero))

/-- Integer value of a chunk (R264, R279). -/
def chunkI (q : Nat) (c : Option (List (Option (Val × Val)))) : Int :=
  match c with
  | none => 0
  | some l => (l.map (fun x => match x with
      | some (a, w) => scaleInt q (a.mul w).floor
      | none => 0)).sum

/-- Every operand of the element is finite, its fused value included (R277). -/
def elemFinite (k : ConvOp) (r : ConvRow) (co : Nat) : Bool :=
  (List.range k.n).all (fun j => match chunkOf k r co j with
    | some l => l.all (fun x => match x with | some (a, w) => a.isFinite && w.isFinite | none => true)
    | none => true) && (!k.usesFused || (k.fusedVal r co).isFinite)

/-! ## Elements (R265, R268 to R272, R277, R309) -/

/-- What an element leaves in its stall: its result, accumulator, loft value and chunks since the last promotion. -/
structure ElemOut where
  e : Elem
  acc : Nat
  loft : Nat
  n : Nat
  deriving DecidableEq, Repr

/-- Initial accumulator of a float element (R268, R279). -/
def preloadF (k : ConvOp) (r : ConvRow) (co q : Nat) : Val :=
  if acbPreload k.d then (k.fusedVal r co).shift (-(8 * q : Nat)) else Val.zero

def preloadI (k : ConvOp) (r : ConvRow) (co q : Nat) : Int :=
  if acbPreload k.d then scaleInt q (k.fusedVal r co).floor else 0

/-- Element from a float value with its overflow. -/
def elemF (overs : Option Bool) (bits : Nat) : Elem :=
  match overs with
  | some n => .overs n
  | none => .f bits

def elemI (overs : Option Bool) (v : Int) : Elem :=
  match overs with
  | some n => .overs n
  | none => .i v

/-- The fused operation on a float result (R272, R279). -/
def fuseF (k : ConvOp) (r : ConvRow) (co q : Nat) (v : Val) : Val :=
  if acbOp k.d = 1 then rne32 (v.add ((k.fusedVal r co).shift (-(8 * q : Nat))))
  else if acbOp k.d = 2 then rne32 (v.mul (k.fusedVal r co)) else v

/-- The fused operation on an integer result. -/
def fuseI (k : ConvOp) (r : ConvRow) (co q : Nat) (v : Int) : Int :=
  if acbOp k.d = 1 then v + scaleInt q (k.fusedVal r co).floor else v

/-- Step 2 of R271 for a reduced value, overflow included. -/
def finishElem (k : ConvOp) (r : ConvRow) (co q : Nat) (fin : Bool) (e : Elem) : Elem :=
  match e with
  | .overs n => .overs n
  | .f c =>
    let v := fuseF k r co q (v32 c)
    elemF (overOf fin v) (f32 v)
  | .i x =>
    let v := fuseI k r co q x
    elemI (intOver v) v

/-- Limit an overflowing accumulator holds (R277). -/
def limit32 (int : Bool) (neg : Bool) : Nat := if int then (if neg then 0x80000000 else 0x7FFFFFFF) else f32 (limitVal neg)

/-- Reduction of the chunks lo to hi − 1 of an element before the fused operation: FP32 (or FP64 for a partition) or an
integer (R265, R270). -/
def reduceElem (k : ConvOp) (r : ConvRow) (co q lo hi : Nat) (part : Bool) (fin : Bool) : ElemOut :=
  let cs := (List.range (hi - lo)).map (fun i => chunkOf k r co (lo + i))
  if intPath k.d then
    let a := reduceI (if lo = 0 then preloadI k r co q else 0) (cs.map (chunkI q))
    ⟨elemI a.2 a.1, (match a.2 with | some n => limit32 true n | none => unsigned 32 a.1), 0, 0⟩
  else
    let st := (cs.map (chunkF q)).foldl (addChunk fin) ⟨if lo = 0 then preloadF k r co q else Val.zero, Val.zero, 0, none⟩
    let v := rne64 (st.loft.add st.acc)
    let w := rne32 v
    let o := firstOver st.overs (overOf fin v)
    let e := if part then elemF o (f64 v) else elemF (firstOver o (overOf fin w)) (f32 w)
    ⟨e, (match st.overs with | some n => limit32 false n | none => f32 st.acc), f64 st.loft, st.n % 64⟩

/-! ## Prediction (R308, R309) -/

/-- s of a quad: exact, then saturated. -/
def predSum (k : ConvOp) (r : ConvRow) (quad : Nat) : Int :=
  let sum := ((enumFrom 0 r.taps).map (fun t =>
    match t.2 with
    | none => (0 : Int)
    | some row => ((List.range (32 * k.cpt)).map (fun ci =>
        let col := t.1 * (32 * k.cpt) + ci
        if whK k.w ≤ col then (0 : Int)
        else predWeight k.w quad col * predAct (scbSigma k.d) (rowValue (acbA k.d) row ci))).sum)).sum
  max int32Min (min int32Max sum)

/-- The quad is skipped. -/
def quadSkipped (k : ConvOp) (r : ConvRow) (quad : Nat) : Bool := scbPredict k.d && decide (predSum k r quad ≤ scbTau k.d)

/-- Skipped quads of a row. -/
def skippedQuads (k : ConvOp) (r : ConvRow) : List Nat := (List.range (ceilDiv k.cout 4)).filter (quadSkipped k r)

/-- A skipped element: the skip value, scaled, then fused; it never overflows. -/
def skippedElem (k : ConvOp) (r : ConvRow) (co q : Nat) : Elem :=
  if intPath k.d then
    let v := fuseI k r co q (scaleInt q (signed 32 (scbSkip k.d)))
    match intOver v with
    | some _ => if acbOut k.d = 13 then .i (signed 32 (Config.wideSkip v)) else .i v
    | none => .i v
  else .f (f32 (fuseF k r co q (rne32 ((v32 (scbSkip k.d)).shift (-(8 * q : Nat))))))

/-! ## Rows -/

/-- Bit 6 of an output row: a row that it read is flagged (R278, R283). -/
def inherits (k : ConvOp) (r : ConvRow) : Nat :=
  let l := r.taps.filterMap (fun x => x) ++ (if k.usesFused then r.fused.toList else [])
  if l.any (fun x => rowFlagged x.tag) then 64 else 0

/-- One element of a row that is not split, in an attempt with scale step q. -/
def convElem (k : ConvOp) (r : ConvRow) (skip : List Nat) (q co : Nat) : ElemOut :=
  if skip.contains (co / 4) then ⟨skippedElem k r co q, 0, 0, 0⟩
  else
    let fin := elemFinite k r co
    let o := reduceElem k r co q 0 k.n false fin
    { o with e := finishElem k r co q fin o.e }

/-- One element of a partition's row: before the merge. -/
def partElem (k : ConvOp) (r : ConvRow) (skip : List Nat) (q part co : Nat) : ElemOut :=
  if skip.contains (co / 4) then ⟨if intPath k.d then .i 0 else .f 0, 0, 0, 0⟩
  else reduceElem k r co q (part * acbLp k.d) (min k.n ((part + 1) * acbLp k.d)) true (elemFinite k r co)

/-- Merge of a partition's value into the running value (R270). -/
def mergeElem (fin : Bool) (m v : Elem) : Elem :=
  match m, v with
  | .overs n, _ => .overs n
  | _, .overs n => .overs n
  | .f a, .f b =>
    let x := rne64 ((v64 a).add (v64 b))
    elemF (overOf fin x) (f64 x)
  | .i a, .i b => elemI (intOver (a + b)) (a + b)
  | x, _ => x

/-- A merged element after rne32 and the fused operation. -/
def mergedElem (k : ConvOp) (r : ConvRow) (skip : List Nat) (q co : Nat) (m : Elem) : Elem :=
  if skip.contains (co / 4) then skippedElem k r co q
  else
    let fin := elemFinite k r co
    match m with
    | .f c =>
      let v := rne32 (v64 c)
      finishElem k r co q fin (elemF (overOf fin v) (f32 v))
    | e => finishElem k r co q fin e

/-- An element's value as the output conversion takes it (R281). -/
def outVal (e : Elem) : Val :=
  match e with
  | .f c => v32 c
  | .overs n => limitVal n
  | .i v => .ofInt v

/-- An integer element's output (R273, R281). -/
def outInt (f h : Nat) (e : Elem) : Nat :=
  match e with
  | .i v => intOut f h v
  | .overs n => intLimit f n
  | .f _ => 0

/-- The stored row of an output format (R273, R274, R320). -/
def storeRow (f h : Nat) (int : Bool) (elems : List Elem) (tag : Nat) : Row :=
  if int then ⟨(elems.map (outInt f h)) ++ List.replicate (padC elems.length * 32 - elems.length) 0, [], tag⟩
  else
    let r := packRow f (elems.map outVal)
    ⟨r.1, r.2, tag⟩

/-- Some element overflows. -/
def anyOver (l : List Elem) : Bool := l.any (fun e => match e with | .overs _ => true | _ => false)

/-! ## Steps (R301, R302, R310) -/

/-- Quarter steps of a chunk with n live columns. -/
def chunkCost (rate n : Nat) : Nat := ceilDiv (max n 1) 16 * (64 / max 1 rate)

/-- Chunk costs of an element over the chunks lo to hi − 1, in order. -/
def elemCosts (k : ConvOp) (r : ConvRow) (skip : List Nat) (lo hi co : Nat) : List Nat :=
  if skip.contains (co / 4) then []
  else (List.range (hi - lo)).filterMap (fun i => (chunkOf k r co (lo + i)).map (fun l => chunkCost (opRate k.d) (liveCount l)))

/-- Lane totals after the chunks that changed lane (R249): each moves the last chunk its owner has. -/
def afterMoves (lanes : List (List Nat)) (moved : List (Nat × Nat)) : List Nat :=
  let r := moved.foldl (fun (a : List (List Nat) × List Nat) m =>
    match (a.1.getD m.1 []).getLast? with
    | none => a
    | some c => (updAt a.1 m.1 List.dropLast, updAt a.2 m.2 (· + c))) (lanes, List.replicate 32 0)
  List.zipWith (fun l x => l.sum + x) r.1 r.2

/-- ⌈S_L⌉ of lane totals in quarter steps. -/
def laneSteps (totals : List Nat) : Nat := ceilDiv (totals.foldl max 0) 4

/-- ⌈S_D ÷ 8⌉ of lane totals in quarter steps. -/
def walkSteps (totals : List Nat) : Nat := ceilDiv (totals.foldl max 0) 32

/-- S_p (R310). -/
def prepassSteps (elems chunks : Nat) : Nat := ceilDiv (ceilDiv elems 4 * chunks) 64

/-! ## Point attention (R330 to R334) -/

/-- T[n]: the 24-bit integer nearest to 2^(23 + n ÷ 256). -/
def expTable (n : Nat) : Nat :=
  (List.range 23).foldl (fun m i => if (2 * (m + 2 ^ (22 - i)) - 1) ^ 256 ≤ 2 ^ (n + 6144) then m + 2 ^ (22 - i) else m) (2 ^ 23)

def l2e : Val := v32 0x3FB8AA3B
def ln2 : Val := v32 0x3F317218
def one : Val := .fin false 1 0

/-- exp2 of R332, for x at most 0. -/
def exp2 (x : Val) : Val :=
  match x with
  | .fin _ _ _ =>
    if x.lt (.ofInt (-126)) then Val.zero
    else
      let n := x.floor
      let f := x.add (.ofInt (-n))
      let m := (f.shift 8).floor
      let d := f.add ((Val.ofInt (-m)).shift (-8))
      let p := rne32 (one.add (rne32 (d.mul ln2)))
      (rne32 ((Val.fin false (expTable m.toNat) (-23)).mul p)).shift n
  | _ => Val.zero

/-- Quotient of two finite values of 24 bits, a non-negative and b positive, rounded once. -/
def div32 (a b : Val) : Val :=
  match a, b with
  | .fin _ m e, .fin _ n f =>
    rne32 (.fin false (m * 2 ^ 80 / max 1 n * 2 + b2n (m * 2 ^ 80 % max 1 n != 0)) (e - f - 81))
  | _, _ => .nan

/-- A rounded value that became infinite from finite ones takes its limit (R334); the mark says so. -/
def held (l : List Val) (v : Val) : Val × Bool :=
  match v with
  | .inf n => if l.all Val.isFinite then (limitVal n, true) else (v, false)
  | _ => (v, false)

/-- A rounded sum under R334. -/
def addHeld (a b : Val) : Val × Bool := held [a, b] (rne32 (a.add b))

/-- An attention operator: descriptor, constant area, sites of its level. -/
structure AttnOp where
  d : List Byte
  consts : List Byte
  sites : List Site
  deriving DecidableEq, Repr

def AttnOp.heads (k : AttnOp) : Nat := byteAt k.d 4
def AttnOp.width (k : AttnOp) : Nat := byteAt k.d 5
def AttnOp.win (k : AttnOp) : Nat := 64 * 2 ^ (byteAt k.d 3 % 4)

/-- First rank a window covers, for the window of a rank; it can lie below 0 (R330). -/
def AttnOp.winBase (k : AttnOp) (r : Nat) : Int :=
  if bitOf (byteAt k.d 3) 7 then ((r + k.win / 2) / k.win * k.win : Nat) - (k.win / 2 : Nat) else (r / k.win * k.win : Nat)

/-- Rank at a position of the window of rank r, none where it is not a member. -/
def AttnOp.member (k : AttnOp) (r p : Nat) : Option Nat :=
  let i := k.winBase r + p
  if 0 ≤ i ∧ i < k.sites.length then some i.toNat else none

/-- Members of the window of a rank, ascending. -/
def AttnOp.members (k : AttnOp) (r : Nat) : List Nat := (List.range k.win).filterMap (k.member r)

/-- A bias table entry (R331). -/
def AttnOp.bias (k : AttnOp) (a h bin : Nat) : Val := v32 (u32 k.consts (u32 k.d 40 + 4 * ((a * k.heads + h) * 31 + bin)))

def emptySite : Site := ⟨0, 0, 0, 0, 1, 0, 0, 0⟩

/-- Bin of a centroid difference on an axis. -/
def AttnOp.bin (k : AttnOp) (a i j : Nat) : Nat :=
  let delta := siteC (k.sites.getD j emptySite) a - siteC (k.sites.getD i emptySite) a
  (min 15 (max (-15) (delta / 2 ^ byteAt k.d 36)) + 15).toNat

/-- The dot product of R331 under R334: the chunks of a head, then reduce. -/
def dotHeld (f : Nat) (q k : Row) (base chunks : Nat) : Val × Bool :=
  (List.range chunks).foldl (fun a c =>
    let ps := (List.range 32).map (fun i => (rowValue f q (base + 32 * c + i)).mul (rowValue f k (base + 32 * c + i)))
    let v := held ps (chunkValue ps)
    let t := addHeld a.1 v.1
    (t.1, a.2 || v.2 || t.2)) (Val.zero, false)

/-- score, and whether a value in it was held to its limit. -/
def score (k : AttnOp) (q kr : Row) (i j h : Nat) : Val × Bool :=
  let dot := dotHeld (acbA k.d) q kr (h * k.width) (k.width / 32)
  let alpha := v32 (u32 k.d 32)
  let t := held [dot.1, alpha] (rne32 (dot.1.mul alpha))
  let bias := fun a => k.bias a h (k.bin a i j)
  let xy := addHeld (bias 0) (bias 1)
  let b := addHeld xy.1 (bias 2)
  let s := addHeld t.1 b.1
  (s.1, dot.2 || t.2 || xy.2 || b.2 || s.2)

/-- How a head's weights come out: NaN, all +0, or the weights by member (R332, R334). -/
inductive HeadW where
  | nan
  | zero
  | w (l : List (Nat × Val))
  deriving DecidableEq, Repr

/-- The weights of a head over the members with their scores. -/
def headWeights (l : List (Nat × Val)) : HeadW :=
  if l.any (fun x => x.2.isNan || x.2 == .inf false) then .nan
  else if l.all (fun x => x.2 == .inf true) then .zero
  else
    let mx := l.foldl (fun m x => if m.lt x.2 then x.2 else m) (.inf true)
    let es := l.map (fun x => (x.1, exp2 (rne32 ((x.2.add mx.neg).mul l2e))))
    let z := es.foldl (fun z x => rne32 (z.add x.2)) Val.zero
    .w (es.map (fun x => (x.1, div32 x.2 z)))

/-- A head of a query: its weights and how many of its scores were held to a limit. -/
structure Head where
  w : HeadW
  sat : Nat
  deriving DecidableEq, Repr

def attnHead (k : AttnOp) (qs ks : List (Nat × Row)) (i h : Nat) : Head :=
  let l := (k.members i).map (fun j =>
    (j, score k ((mapFind qs i).getD blankRow) ((mapFind ks j).getD blankRow) i j h))
  ⟨headWeights (l.map (fun x => (x.1, x.2.1))), (l.filter (fun x => x.2.2)).length⟩

/-- The reduced value of element c of head h of row i in an attempt (R333, R334). -/
def attnElem (k : AttnOp) (vs : List (Nat × Row)) (hd : Head) (i c q : Nat) (fused : Option Row) : ElemOut :=
  let add := fun (fin : Bool) (v : Val) =>
    match fused with
    | some r =>
      let t := rowValue (acbFused k.d) r c
      let x := rne32 (v.add (t.shift (-(8 * q : Nat))))
      elemF (overOf (fin && t.isFinite) x) (f32 x)
    | none => .f (f32 v)
  match hd.w with
  | .nan => ⟨add false .nan, f32 .nan, 0, 0⟩
  | .zero => ⟨add true Val.zero, 0, 0, 0⟩
  | .w l =>
    let val := fun j => rowValue (acbA k.d) ((mapFind vs j).getD blankRow) c
    let fin := l.all (fun x => (val x.1).isFinite) &&
      (match fused with | some r => (rowValue (acbFused k.d) r c).isFinite | none => true)
    let chunks := (List.range (k.win / 32)).map (fun j => chunkValue ((List.range 32).map (fun p =>
      match k.member i (32 * j + p) with
      | none => Val.zero
      | some m => (((mapFind l m).getD Val.zero).mul (val m)).shift (-(8 * q : Nat)))))
    let st := chunks.foldl (addChunk fin) ⟨Val.zero, Val.zero, 0, none⟩
    let v := reduceF fin Val.zero chunks
    ⟨(match v.2 with | some n => .overs n | none => add fin v.1),
      (match st.overs with | some n => limit32 false n | none => f32 st.acc), f64 st.loft, st.n % 64⟩

/-! ## Activation (R337) -/

/-- maximum and minimum of R275: NaN stays NaN, and +0 is above -0. -/
def fmax (a b : Val) : Val :=
  if a.isNan ∨ b.isNan then .nan else if a.lt b then b else if b.lt a then a
  else match a with
    | .fin true 0 _ => b
    | _ => a

def fmin (a b : Val) : Val :=
  if a.isNan ∨ b.isNan then .nan else if a.lt b then a else if b.lt a then b
  else match a with
    | .fin false 0 _ => b
    | _ => a

/-- The function of a point-wise activation. -/
def actFn (d : List Byte) (x : Val) : Val :=
  if x.isNan then .nan
  else if byteAt d 2 = 0 then fmax x Val.zero
  else if byteAt d 2 = 1 then (if x.isNeg then rne32 (x.shift (-(byteAt d 3 : Nat))) else x)
  else fmin (fmax x (v32 (u32 d 8))) (v32 (u32 d 12))

/-- An activated row. -/
def actElems (d : List Byte) (f c : Nat) (r : Row) : List Elem :=
  (List.range c).map (fun i => .f (f32 (actFn d (rne32 (rowValue f r i)))))

end Sys2Proof.Machine
end

