-- ==== Sys2Proof/Machine/Stalls.lean ====
section
/-!
DEFINITION. Stall operator runs: the tiles of an operator (R269, R326, R335, R350, R351), a tile's work (STALL_TILE), the
stealing of chunks and tiles (R249, R250), the merge of partitions (R270), retry rounds (R280 to R282) and what a run
writes at its end (R271 to R283, R312).
Conventions: log entry 32 (DEDUCED), log entry 34 (DEDUCED), log entry 50 (DEDUCED), log entry 73 (DESIGN CHOICE),
log entry 74 (DEDUCED).
-/
namespace Sys2Proof.Machine

/-! ## Operators -/

/-- A convolution's operands; the weights are the context's copy (R311). -/
def convOpOf (c : Ctx) (p : PkgDecl) (o : OpDecl) : ConvOp :=
  ⟨o.desc, ctxTensor c p (convW o), padC (convCin p o), convCout p o, convChunks p o,
    if convSrc o = 2 then some (ctxTensor c p (convFused o)) else none⟩

/-- Input rank of an output's weight slot (R324). -/
def slotInput (b : ClassBook) (query : Bool) (u v : Nat) : Option Nat :=
  if query then (usedSlots b u)[v]?
  else (b.pairs.find? (fun q => q.out == u && q.off == v)).map (·.inp)

/-- Input pixel of a tap (R349). -/
def tapPixel (p : PkgDecl) (o : OpDecl) (u v : Nat) : Option Nat :=
  let d := o.desc
  let x := mapX p (convOut o)
  let kw := max 1 (byteAt d 2)
  let at_ := fun (out t k : Nat) => (out * byteAt d 4 : Nat) + ((t : Int) - ((k - 1) / 2 : Nat)) * (byteAt d 5 : Nat)
  let ix := at_ (u % x) (v % kw) kw
  let iy := at_ (u / x) (v / kw) (byteAt d 3)
  if 0 ≤ ix ∧ ix < mapX p (convIn o) ∧ 0 ≤ iy ∧ iy < mapY p (convIn o) then
    some (iy.toNat * mapX p (convIn o) + ix.toNat)
  else none

/-- The rows an output row of a convolution is made of. -/
def convRowOf (p : PkgDecl) (f : Frame) (o : OpDecl) (k : ConvOp) (u : Nat) : ConvRow :=
  let src := if onMaps o then f.maps else f.tensors
  let b := bookOf f (byteAt o.desc 2)
  let query := ((classOp p (byteAt o.desc 2)).map isQuery).getD false
  let tap := fun v => if onMaps o then tapPixel p o u v else slotInput b query u v
  ⟨(List.range (k.n / max 1 k.cpt)).map (fun v => (tap v).map (rowOf src (convIn o))),
    if convSrc o = 1 then some (rowOf src (convFused o) u) else none⟩

/-! ## Tiles -/

/-- Ranges of g rows over a die's rows, which are consecutive. -/
def cutRows (g : Nat) : Nat → List Nat → List (Nat × Nat)
  | 0, _ => []
  | n + 1, rows =>
    match rows with
    | [] => []
    | r :: _ =>
      let t := rows.take (max 1 g)
      (r, r + t.length) :: cutRows g n (rows.drop (max 1 g))

/-- Rectangles of a band in raster order: first pixel, and last pixel plus 1 (R350). -/
def bandTiles (x tw th : Nat) (b : Nat × Nat) : List (Nat × Nat) :=
  (List.range (ceilDiv (b.2 - b.1) th)).flatMap (fun i =>
    (List.range (ceilDiv x tw)).map (fun j =>
      ((b.1 + i * th) * x + j * tw, (min b.2 (b.1 + i * th + th) - 1) * x + min x (j * tw + tw))))

/-- Rows that the die at a position computes (R211, R335, R337, R350). -/
def stallRows (c : Ctx) (p : PkgDecl) (f : Frame) (o : OpDecl) (e : Nat) : List Nat :=
  let ws := weightSums c f
  if opCode o = cConv then
    let d := (classOp p (byteAt o.desc 2)).getD []
    pairOutputs ws (bookOf f (byteAt o.desc 2)) (sitesOf f (outLevel p d)).length e
  else if opCode o = cAttention then ownedRanks f (byteAt o.desc 2) e
  else if opCode o = cActivation then ownedRanks f (tensLevel p (u16 o.desc 4)) e
  else
    let m := if opCode o = cDense then convOut o else u16 o.desc 6
    ownedPixels ws (mapX p m) (mapY p m) e

/-- Partitions of a row; 1 without a split (R269). -/
def partCount (k : ConvOp) : Nat := partsOf (acbLp k.d) k.n

/-- Chunks of a row or of a partition of it. -/
def partChunks (k : ConvOp) (part : Option Nat) : Nat × Nat :=
  match part with
  | none => (0, k.n)
  | some i => (i * acbLp k.d, min k.n ((i + 1) * acbLp k.d))

/-- Segments of the chunks of a row or of a partition (R267); a pre-pass has one. -/
def segCount (o : OpDecl) (k : ConvOp) (part : Option Nat) : Nat :=
  let c := partChunks k part
  if o.segLen = 0 ∨ isConvOp o = false then 1 else max 1 (ceilDiv (c.2 - c.1) o.segLen)

/-- A die's tiles: first row, end, the partition and the segment; partition numbers run one past the last for a pre-pass
(R310). -/
def dieTiles (c : Ctx) (p : PkgDecl) (f : Frame) (o : OpDecl) (e : Nat) : List (Nat × Nat × Option Nat × Nat) :=
  let rows := stallRows c p f o e
  let k := convOpOf c p o
  let segs := fun (lo hi : Nat) (part : Option Nat) => (List.range (segCount o k part)).map (fun g => (lo, hi, part, g))
  if isConvOp o && decide (1 < partCount k) then
    let parts := (if scbPredict o.desc then [partCount k] else []) ++ List.range (partCount k)
    rows.flatMap (fun u => parts.flatMap (fun i => segs u (u + 1) (some i)))
  else if opCode o = cDense then
    (bandTiles (mapX p (convOut o)) (max 1 (byteAt o.desc 7)) (max 1 (byteAt o.desc 48))
      (bandOf (weightSums c f) (mapY p (convOut o)) e)).flatMap (fun t => segs t.1 t.2 none)
  else (cutRows (rowsPerTile p o) rows.length rows).flatMap (fun t => segs t.1 t.2 none)

/-- Rows of a tile with their place in it. -/
def tileSlots (p : PkgDecl) (o : OpDecl) (t : Tile) : List (Nat × Nat) :=
  if opCode o = cDense && t.part.isNone then
    let x := max 1 (mapX p (convOut o))
    let w := (t.hi - 1) % x + 1 - t.lo % x
    (List.range ((t.hi - 1) / x + 1 - t.lo / x)).flatMap (fun r =>
      (List.range w).map (fun i => (r * byteAt o.desc 7 + i, t.lo + r * x + i)))
  else (List.range (t.hi - t.lo)).map (fun i => (i, t.lo + i))

/-! ## Foreign rows (R213, R335) -/

/-- Foreign rows that a die reads for output rows of an operator, distinct. -/
def foreignRows (p : PkgDecl) (f : Frame) (o : OpDecl) (e : Nat) (us : List Nat) : List Nat :=
  let l :=
    if opCode o = cConv then
      let d := (classOp p (byteAt o.desc 2)).getD []
      let b := bookOf f (byteAt o.desc 2)
      let lin := tensLevel p (convIn o)
      us.flatMap (fun u =>
        (((b.pairs.filter (fun q => q.out == u)).map (·.inp) ++ usedSlots b u).filter (foreignRank f lin e)).map
          (featKey (convIn o)) ++
        (if convSrc o = 1 && foreignRank f (outLevel p d) e u then [featKey (convFused o) u] else []))
    else if opCode o = cAttention then
      let k : AttnOp := ⟨o.desc, [], sitesOf f (byteAt o.desc 2)⟩
      us.flatMap (fun u => ((k.members u).filter (foreignRank f (byteAt o.desc 2) e)).flatMap (fun j =>
        [featKey (u16 o.desc 8) j, featKey (u16 o.desc 10) j]))
    else if opCode o = cRulebook && isQuery o.desc then queryForeign f o.desc e us
    else []
  l.eraseDups

/-- Foreign rows of a die over a whole operator run. -/
def runForeign (c : Ctx) (p : PkgDecl) (f : Frame) (o : OpDecl) (e : Nat) : List Nat :=
  foreignRows p f o e (if opCode o = cRulebook then buildOutputs c p f o.desc e else stallRows c p f o e)

/-- Foreign rows that a tile reads. -/
def tileForeign (c : Ctx) (p : PkgDecl) (f : Frame) (o : OpDecl) (t : Tile) : List Nat :=
  foreignRows p f o (posIn (maskDies c.dieMask) t.die) ((tileSlots p o t).map (·.2))

/-! ## What a tile leaves -/

/-- An addition to a counter in units. -/
structure CntInc where
  reg : Nat
  idx : Nat
  unit : Nat
  n : Nat
  deriving DecidableEq, Repr

/-- A computed tile: rows, partition values, steps, counters, what stands in its accumulators by lane × 32 + k, rows
whose pre-pass was flagged, and how many elements it resumed and spilled (R267). -/
structure TileWork where
  rows : List RowRes
  parts : List PartRes
  steps : Nat
  incs : List CntInc
  accs : List (Nat × ElemOut)
  flags : List Nat
  resumed : Nat
  spilled : Nat
  deriving DecidableEq, Repr

/-- Accumulator of element e of a tile (R326). -/
def accKey (e : Nat) : Nat := e % 32 * 32 + e / 32 % 32

/-- Lists of the 32 lanes from (element, value) pairs. -/
def byLane (l : List (Nat × List Nat)) : List (List Nat) :=
  (List.range 32).map (fun i => (l.filter (fun x => x.1 % 32 == i)).flatMap (·.2))

/-- Chunk costs of a tile by lane with every tile present, every group dense and every product live (R302). -/
def denseLanes (k : ConvOp) (slots : List (Nat × Nat)) (chunks : Nat) : List (List Nat) :=
  byLane (slots.flatMap (fun g =>
    (List.range k.cout).map (fun co => (g.1 * k.cout + co, List.replicate chunks (chunkCost (opRate k.d) 32)))))

/-- Chunk costs of a convolution tile by lane. -/
def convLanes (p : PkgDecl) (f : Frame) (o : OpDecl) (k : ConvOp) (t : Tile) (lo hi : Nat) : List (List Nat) :=
  byLane ((tileSlots p o t).flatMap (fun g =>
    let r := convRowOf p f o k g.2
    let skip := skippedQuads k r
    (List.range k.cout).map (fun co => (g.1 * k.cout + co, elemCosts k r skip lo hi co))))

/-- Chunks of a tile: its segment of a row's or of a partition's. -/
def tileChunks (o : OpDecl) (k : ConvOp) (t : Tile) : Nat × Nat :=
  let c := partChunks k t.part
  if segCount o k t.part = 1 then c else (c.1 + t.seg * o.segLen, min c.2 (c.1 + (t.seg + 1) * o.segLen))

/-- The tile is its elements' last segment. -/
def lastSeg (o : OpDecl) (k : ConvOp) (t : Tile) : Bool := t.seg + 1 == segCount o k t.part

/-- Counts of a row over chunks lo to hi − 1: chunks of absent tiles, chunks with at most 16 live columns, chunks of
absent pairs, pairs whose first chunk lies there. -/
def rowCounts (k : ConvOp) (r : ConvRow) (skip : List Nat) (lo hi : Nat) : List Nat :=
  let cols := (List.range k.cout).filter (fun co => !skip.contains (co / 4))
  let js := (List.range (hi - lo)).map (· + lo)
  let tap := fun j => (r.taps[j / max 1 k.cpt]?).join
  [(cols.map (fun co => (js.filter (fun j => (tap j).isSome && (wRow k.w co j).absent)).length)).sum,
    (cols.map (fun co => (js.filter (fun j =>
      match chunkOf k r co j with | some l => decide (liveCount l ≤ 16) | none => false)).length)).sum,
    (js.filter (fun j => (tap j).isNone)).length * k.cout,
    (js.filter (fun j => (tap j).isSome && j % max 1 k.cpt == 0)).length]

/-- Counter additions of a convolution tile (R286, R317, R340). -/
def convIncs (ctx : Nat) (o : OpDecl) (k : ConvOp) (t : Tile) (rows : List ConvRow) (walk : Bool) : List CntInc :=
  let sp := fun n u v => (⟨rDcuSparseCnt, ctx * 8 + n, u, v⟩ : CntInc)
  let op := fun n u v => (⟨rDcuOpCnt, ctx * 8 + n, u, v⟩ : CntInc)
  let quads := ceilDiv k.cout 4
  let skips := rows.map (skippedQuads k)
  let pre := scbPredict k.d && t.q == 0 && t.seg == 0 && (t.part.isNone || t.part == some (partCount k))
  let main := !(t.part == some (partCount k) && t.part.isSome && decide (1 < partCount k))
  let ch := tileChunks o k t
  let cs := if main then rows.map (fun r => rowCounts k r (skippedQuads k r) ch.1 ch.2) else []
  let tot := fun i => (cs.map (fun c => c.getD i 0)).sum
  let nSkip := (skips.map (·.length)).sum
  (if pre then [sp 3 1 nSkip, sp 4 1 (rows.length * quads - nSkip)] else []) ++
    [sp 0 1024 (tot 0), sp 1 1024 (tot 1), sp 2 1 (b2n walk)] ++
    (if opCode o = cConv then [op 0 1 (b2n (t.q == 0)), op 1 1 (tot 3), op 2 1024 (tot 2)] else [])

/-- Promotions of a row over chunks lo to hi − 1 (R265): one for each element and each 64th chunk. -/
def rowPromotions (k : ConvOp) (skip : List Nat) (lo hi : Nat) : Nat :=
  ((List.range k.cout).filter (fun co => !skip.contains (co / 4))).length *
    ((List.range (hi - lo)).filter (fun j => (j + 1) % 64 == 0)).length

/-- Tag bits of a row result: scale step, inherited, engine error. -/
def resTag (q inherit : Nat) (flagged : Bool) : Nat := q + inherit + (if flagged then 32 else 0)

/-- The rows a tile computes: in a retry only those that overflowed in the attempt before (R280). -/
def attemptRows (run : Run) (t : Tile) (rows : List Nat) : List Nat :=
  if t.q = 0 then rows
  else rows.filter (fun u => run.rows.any (fun r => r.row == u && anyOver r.elems && r.q + 1 == t.q))

/-- Chunks of a tile before its segment's end, from where its elements began: what a spilled entry holds (R267). -/
def segElem (k : ConvOp) (r : ConvRow) (skip : List Nat) (q hi : Nat) (part : Option Nat) (co : Nat) : ElemOut :=
  if skip.contains (co / 4) then ⟨.f 0, 0, 0, 0⟩
  else reduceElem k r co q (partChunks k part).1 hi true (elemFinite k r co)

/-- A convolution tile. A segment before the last leaves its elements' entries and no row. -/
def convWork (c : Ctx) (p : PkgDecl) (f : Frame) (o : OpDecl) (st : StallSt) (t : Tile) : TileWork :=
  let k := convOpOf c p o
  let slots := tileSlots p o t
  let rows := slots.map (fun g => convRowOf p f o k g.2)
  let ch := tileChunks o k t
  let elems := slots.length * k.cout
  if 1 < partCount k ∧ t.part = some (partCount k) then
    ⟨[], [], prepassSteps elems k.n, convIncs f.ctx o k t rows false, [],
      if st.flagged then slots.map (·.2) else [], 0, 0⟩
  else
    let sl := laneSteps (afterMoves (convLanes p f o k t ch.1 ch.2) st.moved)
    let walk := walkSteps (afterMoves (denseLanes k slots (ch.2 - ch.1)) st.moved)
    let sp := if scbPredict o.desc && t.q == 0 && t.seg == 0 && t.part.isNone then prepassSteps elems k.n else 0
    let last := lastSeg o k t
    let out := slots.map (fun g =>
      let r := convRowOf p f o k g.2
      let skip := skippedQuads k r
      let es := (List.range k.cout).map (fun co =>
        if last then
          (match t.part with
           | none => convElem k r skip t.q co
           | some i => partElem k r skip t.q i co)
        else segElem k r skip t.q ch.2 t.part co)
      (g, r, es))
    let accs := out.flatMap (fun x => (enumFrom 0 x.2.2).map (fun e => (accKey (x.1.1 * k.cout + e.1), e.2)))
    let take := attemptRows f.run t (slots.map (·.2))
    let mine := if last then out.filter (fun x => take.contains x.1.2) else []
    let pre := fun (row : Nat) => st.flagged || f.run.preFlags.contains row
    let tag := fun (row : Nat) (r : ConvRow) => resTag t.q (inherits k r) (pre row)
    let base := (partChunks k t.part).1
    let incs := convIncs f.ctx o k t rows (decide (sl < walk)) ++
      (if intPath o.desc then [] else
        [⟨rLftCnt, t.die * 8, 1024,
          (rows.map (fun r => rowPromotions k (skippedQuads k r) 0 (ch.2 - base) -
            rowPromotions k (skippedQuads k r) 0 (ch.1 - base))).sum⟩])
    let flags := if st.flagged && !last then slots.map (·.2) else []
    let res := if t.seg = 0 then 0 else elems
    let spl := if last then 0 else elems
    (match t.part with
     | none =>
       ⟨mine.map (fun x => ⟨x.1.2, x.2.2.map (·.e), t.q, tag x.1.2 x.2.1⟩), [], sp + max sl walk, incs, accs, flags, res, spl⟩
     | some i =>
       ⟨[], mine.map (fun x => ⟨x.1.2, i, t.die, t.q, x.2.2.map (·.e), tag x.1.2 x.2.1⟩), max sl walk, incs, accs, flags,
         res, spl⟩)

/-- An attention tile. -/
def attnWork (p : PkgDecl) (f : Frame) (o : OpDecl) (st : StallSt) (t : Tile) : TileWork :=
  let k : AttnOp := ⟨o.desc, p.consts.flatten, sitesOf f (byteAt o.desc 2)⟩
  let qs := rowsOf f.tensors (u16 o.desc 6)
  let ks := rowsOf f.tensors (u16 o.desc 8)
  let vs := rowsOf f.tensors (u16 o.desc 10)
  let slots := tileSlots p o t
  let out := slots.map (fun g =>
    let fused := if acbOp o.desc = 1 then some (rowOf f.tensors (u16 o.desc 14) g.2) else none
    let hs := (List.range k.heads).map (attnHead k qs ks g.2)
    let es := (enumFrom 0 hs).flatMap (fun h =>
      (List.range k.width).map (fun i => attnElem k vs h.2 g.2 (h.1 * k.width + i) t.q fused))
    let read := (k.members g.2).flatMap (fun j => [rowOf f.tensors (u16 o.desc 8) j, rowOf f.tensors (u16 o.desc 10) j]) ++
      rowOf f.tensors (u16 o.desc 6) g.2 :: fused.toList
    let inh := if read.any (fun r => rowFlagged r.tag) then 64 else 0
    let sat := (hs.map (·.sat)).sum
    (g, hs, es, resTag t.q inh st.flagged + (if 0 < sat then 128 else 0), sat))
  let take := attemptRows f.run t (slots.map (·.2))
  let heads := out.flatMap (fun x => x.2.1)
  let op := fun n v => (⟨rDcuOpCnt, f.ctx * 8 + n, 1, v⟩ : CntInc)
  let first := fun v => if t.q = 0 then v else 0
  let width := k.heads * k.width
  let rate := laneRate (acbA o.desc)
  ⟨(out.filter (fun x => take.contains x.1.2)).map (fun x => ⟨x.1.2, x.2.2.1.map (·.e), t.q, x.2.2.2.1⟩), [],
    ceilDiv (slots.length * k.heads * k.win * (16 * k.width + 128 * rate + k.width * rate)) (512 * rate),
    [op 3 slots.length, op 4 (first (heads.filter (fun h => h.w == .nan)).length),
      op 5 (first (heads.filter (fun h => h.w == .zero)).length), op 6 (first ((out.map (fun x => x.2.2.2.2)).sum))],
    out.flatMap (fun x => (enumFrom 0 x.2.2.1).map (fun e => (accKey (x.1.1 * width + e.1), e.2))), [], 0, 0⟩

/-- What an activated element leaves in its lane: its FP32 value, nothing in the loft. -/
def actOut (e : Elem) : ElemOut :=
  ⟨e, (match e with | .f c => c | _ => 0), 0, 0⟩

/-- An activation tile, in the lane assignment of R326 over rows of C′ elements. -/
def actWork (p : PkgDecl) (f : Frame) (o : OpDecl) (st : StallSt) (t : Tile) : TileWork :=
  let src := if onMaps o then f.maps else f.tensors
  let inp := u16 o.desc 4
  let fmt := if onMaps o then mapFmt p inp else tensFmt p inp
  let ch := if onMaps o then mapC p inp else tensC p inp
  let slots := tileSlots p o t
  let out := slots.map (fun g =>
    let r := rowOf src inp g.2
    (g, actElems o.desc fmt ch r, if rowFlagged r.tag then 64 else 0))
  ⟨out.map (fun x => ⟨x.1.2, x.2.1, 0, resTag 0 x.2.2 st.flagged⟩),
    [], ceilDiv (slots.length * 32 * padC ch) 64, [⟨rDcuOpCnt, f.ctx * 8 + 7, 1, slots.length⟩],
    out.flatMap (fun x => (enumFrom 0 x.2.1).map (fun e => (accKey (x.1.1 * (32 * padC ch) + e.1), actOut e.2))), [], 0, 0⟩

def tileWork (c : Ctx) (p : PkgDecl) (f : Frame) (o : OpDecl) (st : StallSt) (t : Tile) : TileWork :=
  if isConvOp o then convWork c p f o st t
  else if opCode o = cAttention then attnWork p f o st t
  else actWork p f o st t

/-- Integer results. -/
def intResults (o : OpDecl) : Bool := isConvOp o && intPath o.desc

/-! ## The merge area (R266, R270) -/

/-- Entries of the merge area that a frame may still take on a die. -/
def mergeFree (s : State) (c : Ctx) (p : PkgDecl) (d : Nat) : Nat :=
  let used := fun (g : Frame) => ((g.run.parts.filter (fun x => x.die == d)).map (fun x => x.vals.length)).sum
  if c.guaranteed then p.mergeEntries - ((s.frames.filter (fun g => g.ctx == c.id)).map used).sum
  else 98304 - mergeRes s d - ((s.frames.filter (fun g => !(guarCtx s g.ctx))).map used).sum

/-- Partitions of a row merged so far. -/
def mergedUpto (run : Run) (row : Nat) : Nat := ((run.merges.find? (fun m => m.row == row)).map (·.upto)).getD 0

/-- The lowest partition of a run's row that is not merged. -/
def lowestPart (run : Run) (t : Tile) : Bool := t.part == some (mergedUpto run t.lo)

/-- An earlier segment of the same elements is not done, or the row's pre-pass is not (R267, R310). -/
def tileHeld (run : Run) (k : ConvOp) (t : Tile) : Bool :=
  run.tiles.any (fun x => x.die == t.die && x.lo == t.lo && !x.done &&
    ((x.part == t.part && decide (x.seg < t.seg)) ||
      (t.part.isSome && t.part != some (partCount k) && x.part == some (partCount k))))

/-- A tile may start: nothing of its row holds it, and merge-area entries are free for a partition. -/
def mayStart (s : State) (c : Ctx) (p : PkgDecl) (f : Frame) (o : OpDecl) (t : Tile) : Bool :=
  let k := convOpOf c p o
  !tileHeld f.run k t &&
    (match t.part with
     | none => true
     | some i => i == partCount k || lowestPart f.run t || decide (k.cout ≤ mergeFree s c p t.die))

/-- Only merge-area entries hold the tile. -/
def deferredTile (s : State) (c : Ctx) (p : PkgDecl) (f : Frame) (o : OpDecl) (t : Tile) : Bool :=
  !mayStart s c p f o t && !tileHeld f.run (convOpOf c p o) t

/-! ## STALL_TILE (R228 to R232, R248) -/

/-- Unstarted tiles of a stall in a run. -/
def tilesLeft (run : Run) (g : Nat) : List Tile := run.tiles.filter (fun t => t.stall == g && !t.done)

/-- The frame has work for a stall: an accepted frame on a stall operator with a tile left and its leave held. -/
def stallWorks (s : State) (g : Nat) (f : Frame) : Bool :=
  f.phase == .accepted && isStallOp (runOp s f) && !(tilesLeft f.run g).isEmpty && holdsLeave s f (stallDie g) g

def stallOf (s : State) (g : Nat) : StallSt := (dieOf s (stallDie g)).stalls.getD (stallLocal g) StallSt.reset

def modStall (s : State) (g : Nat) (f : StallSt → StallSt) : State :=
  modDie s (stallDie g) (fun x => { x with stalls := updAt x.stalls (stallLocal g) f })

/-- A loft entry of an element (R266). -/
def loftEntry (e : ElemOut) : Nat := e.loft * 2 ^ 64 + e.acc * 2 ^ 32 + e.n * 2 ^ 26

/-- The tile's boundary: the accumulator sets swap: the tile's set is to drain in 64 lines, its loft values stand in the stall's region, and
the lanes have taken what their threads held (R229, R231, R266). Spilled entries stand in the entries from 2,048 on. -/
def swapSets (s : State) (g : Nat) (accs : List (Nat × ElemOut)) (spill : Bool) : State :=
  let st := stallOf s g
  let entry := fun (k : Nat) => stallLocal g * 4096 + (if spill then 2048 else 0) + st.set_ * 1024 + k
  let full := accs.foldl (fun m e => mapSet 0 m e.1 e.2.acc) st.active
  let loft := fun (m : List (Nat × Nat)) => accs.foldl (fun m e => mapSet 0 m (entry e.1) (loftEntry e.2)) m
  let s1 := modStall s g (fun t => { t with active := [], shadow := full, set_ := 1 - st.set_, drain := 64, moved := [],
                                            thrData := [], flagged := false, hubWay := hubWays s (stallDie g) })
  modDie s1 (stallDie g) (fun x => { x with loft := loft x.loft })

/-- A segment's end: the loft controller moves its elements' entries to the working space, four to a line, and back into
the spill and resume entries of the stall from which the next segment's elements resume (R266, R267). The copy is read back
to the stall that has the next segment at that moment (log entry 73, DESIGN CHOICE). -/
def spillTile (s : State) (f : Frame) (t : Tile) (accs : List (Nat × ElemOut)) : State :=
  let a := PadArray.spill f.ctx f.num t.id
  let next := (f.run.tiles.find? (fun x => x.die == t.die && x.lo == t.lo && x.part == t.part && x.seg == t.seg + 1)).map (·.stall)
  let entry := stallLocal (next.getD t.stall) * 4096 + 2048
  padBack (padMove s t.die 10 (.frame f.ctx f.num) a (accs.flatMap (fun e => leBytes 16 (loftEntry e.2))))
    t.die 10 (.frame f.ctx f.num) a (16 * accs.length) (fun i => entry + 4 * i)

/-- Number of the merge-area entry of an element of a partition (R266). -/
def mergeEntry (f : Frame) (x : PartRes) (i : Nat) : Nat :=
  163840 + Config.mergePlace x.die [f.ctx, f.num, x.row, x.part, i] % 98304

/-- The limit that an overflowing element holds, as an entry holds it (R277). -/
def limitEntry (int neg : Bool) : Nat :=
  if int then limit32 true neg * 2 ^ 32 else f64 (limitVal neg) * 2 ^ 64

/-- A partition's value as its entry holds it: FP64 in the loft field, or INT32 in the accumulator's. -/
def partEntry (int : Bool) (e : Elem) : Nat :=
  match e with
  | .f v => v * 2 ^ 64
  | .i v => unsigned 32 v * 2 ^ 32
  | .overs n => limitEntry int n

/-- The entries that partitions take in the merge area, or give back (R270). An entry given back reads 0, which the spec
leaves open (log entry 73, DESIGN CHOICE). -/
def mergeWrite (s : State) (f : Frame) (int : Bool) (l : List PartRes) (taken : Bool) : State :=
  l.foldl (fun a x => modDie a x.die (fun d => { d with loft := (enumFrom 0 x.vals).foldl (fun m e =>
    mapSet 0 m (mergeEntry f x e.1) (if taken then partEntry int e.2 else 0)) d.loft })) s

def applyIncs (s : State) (l : List CntInc) : State := l.foldl (fun a i => cntUnits a i.reg i.idx i.unit i.n) s

/-- Puts a row's result in place of its last. -/
def putRow (rows : List RowRes) (r : RowRes) : List RowRes := rows.filter (fun x => x.row != r.row) ++ [r]

/-- Counts of a completed attempt: tiles pending after their first, rows that a retry brought in range. -/
def attemptCounts (s : State) (ctx q tiles : Nat) (rows : List RowRes) : State :=
  let overs := rows.any (fun r => anyOver r.elems)
  if q = 0 then ctxCnt s rDcuArithCnt ctx 1 (if overs then tiles else 0)
  else ctxCnt s rDcuArithCnt ctx 3 (rows.filter (fun r => !anyOver r.elems)).length

/-- The stall of the cluster with the most unstarted tiles, the lowest on a tie. -/
def stealVictim (run : Run) (g : Nat) : Option Nat :=
  let l := (run.stalls.filter (fun h => h != g && h / 8 == g / 8 && !(tilesLeft run h).isEmpty))
  l.foldl (fun b h => match b with
    | none => some h
    | some v =>
      let nv := (tilesLeft run v).length
      let nh := (tilesLeft run h).length
      if nv < nh || (nv == nh && h < v) then some h else some v) none

/-- Stalls of a die whose tile group has ended return their leave. While a stall may still take a tile of its run from
its cluster, its group has not ended, so that a thief holds its leave (R232, R250; log entry 74, DEDUCED). -/
def returnIdle (s : State) (f : Frame) (d : Nat) : State :=
  (f.run.stalls.filter (fun g => stallDie g == d && (tilesLeft f.run g).isEmpty && (stealVictim f.run g).isNone)).foldl
    (fun a g => returnLeave a f d g) s

/-- Runs a tile of a frame on its stall. -/
def runTile (s : State) (c : Ctx) (f : Frame) (t : Tile) : State :=
  let p := declOf s c.pkg
  let o := runOp s f
  let g := t.stall
  let w := tileWork c p f o (stallOf s g) t
  let s0 := if w.spilled = 0 then s else spillTile s f t w.accs
  let lft := fun (n v : Nat) => (⟨rLftCnt, t.die * 8 + n, 1, v⟩ : CntInc)
  let s1 := mergeWrite (applyIncs (swapSets (countRemote s0 f t.die (tileForeign c p f o t)) g w.accs (w.spilled != 0))
    (lft 1 w.spilled :: lft 2 w.resumed :: w.incs)) f (intResults o) w.parts true
  let s2 := cntAdd (cntUnits s1 rDcuStallCnt (g * 8) 1024 w.steps) rDcuStallCnt (g * 8 + 1) 1
  let s3 := attemptCounts (ctxCnt s2 rDcuArithCnt f.ctx 0 (b2n (t.q == 0))) f.ctx t.q 1 w.rows
  let run := { f.run with preFlags := (f.run.preFlags ++ w.flags).eraseDups, tiles := f.run.tiles.map (fun x => if x.id == t.id then { x with done := true } else x),
                          rows := w.rows.foldl putRow f.run.rows, parts := f.run.parts ++ w.parts }
  let f1 := { f with run := run }
  let s5 := setFrame s3 f1
  let s6 := returnIdle s5 f1 t.die
  modDie s6 t.die (fun x => { x with mergePeak := max x.mergePeak (mergeUsed s6 t.die) })

/-- The frame a stall works for: guaranteed frames come first (R112, R132). -/
def stallFrame (s : State) (g : Nat) : Option Frame :=
  let l := s.frames.filter (stallWorks s g)
  match l.find? (fun f => guarCtx s f.ctx) with
  | some f => some f
  | none => l.head?

/-- A tile can end: the data of every gather has come to the lanes (R229), and the shadow set has drained, for which the
swap waits (R231). -/
def tileEnds (t : StallSt) : Bool := t.gathers.isEmpty && t.waiting.isEmpty && t.drain == 0

/-! ## Weights that stream from main memory (R132, R298) -/

/-- 64-byte lines that n bytes from a on take. -/
def byteLines (a n : Nat) : List Nat := if n = 0 then [] else (List.range ((a % 64 + n - 1) / 64 + 1)).map (· + a / 64)

/-- Lines of a tensor's header, bitmap and offset table. -/
def headLines (w : List Byte) : List Nat :=
  (byteLines 0 48 ++ byteLines (u32 w 16) (whBitmapLen w) ++ byteLines (u32 w 20) (whTableLen w)).eraseDups

/-- Lines with the data and the scales of row block `to_` in column block tk. -/
def blockLines (w : List Byte) (to_ tk : Nat) : List Nat :=
  let width := fmtBits (whFmt w)
  let mx := isMx (whFmt w)
  if whCompressed w then
    match tileRank w to_ tk with
    | none => []
    | some r => ((List.range (tileRowStart width (tileModes w r) 32)).map (fun i => tilePlace w r i / 64)) ++
        (if mx then byteLines (u32 w 32 + 32 * r) 32 else [])
  else ((List.range 32).map (· + 32 * to_)).flatMap (fun o =>
    if whO w ≤ o then []
    else byteLines (u32 w 24 + (o * whTk w + tk) * (4 * width)) (4 * width) ++
      (if mx then byteLines (u32 w 32 + o * whTk w + tk) 1 else []))

/-- Lines with the predictor rows of a column block: of present tiles, 8 quads to a tile's 32 rows (R298, R307). -/
def predLines (w : List Byte) (tk : Nat) : List Nat :=
  (List.range (ceilDiv (whO w) 4)).flatMap (fun q =>
    if whCompressed w && (tileRank w (q / 8) tk).isNone then []
    else byteLines (u32 w 36 + (q * whTk w + tk) * 16) 16)

/-- The tile runs its elements' pre-pass: the extra tile of a split row, or the first segment of a first attempt (R310). -/
def runsPrepass (k : ConvOp) (t : Tile) : Bool :=
  scbPredict k.d && t.q == 0 &&
    ((decide (1 < partCount k) && t.part == some (partCount k)) || (t.part.isNone && t.seg == 0))

/-- Lines of W's present tiles that a tile uses: the predictor rows of every chunk in a pre-pass, data and scales of its own
chunks in a main pass. -/
def tileLines (o : OpDecl) (k : ConvOp) (t : Tile) : List Nat :=
  let extra := decide (1 < partCount k) && t.part == some (partCount k)
  let ch := tileChunks o k t
  let tks := (List.range (ch.2 - ch.1)).map (· + ch.1)
  ((if runsPrepass k t then (List.range k.n).flatMap (predLines k.w) else []) ++
    (if extra then [] else tks.flatMap (fun tk => (List.range (whTo k.w)).flatMap (fun to_ => blockLines k.w to_ tk)))).eraseDups

/-- A tensor of a best-effort context streams: it is not adaptable, and no package resident on the die holds it. -/
def streams (s : State) (c : Ctx) (d tensor : Nat) : Bool :=
  !c.guaranteed && !whAdaptable (wHead (declOf s c.pkg) tensor) && !(residentPkgs s d).contains c.pkg

/-- Lines that a stall reads of the tensors of its operator: once in the run, and for a tile; by tensor. -/
def onceLines (s : State) (c : Ctx) (p : PkgDecl) (o : OpDecl) (d : Nat) : List (Nat × Nat) :=
  if isConvOp o = false then []
  else (convW o :: (if convSrc o = 2 then [convFused o] else [])).flatMap (fun t =>
    if streams s c d t then (headLines (tensorBytes p t)).map (fun l => (t, l)) else [])

def usedLines (s : State) (c : Ctx) (p : PkgDecl) (o : OpDecl) (x : Tile) : List (Nat × Nat) :=
  if isConvOp o = false then []
  else
    let k := convOpOf c p o
    (if streams s c x.die (convW o) then (tileLines o k x).map (fun l => (convW o, l)) else []) ++
      (match k.vec with
       | some v => if streams s c x.die (convFused o) then
           ((List.range (whTk v)).flatMap (blockLines v 0)).map (fun l => (convFused o, l)) else []
       | none => [])

/-- The stall has read every streamed line that the tile needs. -/
def streamReady (s : State) (c : Ctx) (p : PkgDecl) (o : OpDecl) (x : Tile) : Bool :=
  (onceLines s c p o x.die ++ usedLines s c p o x).all (fun l => (stallOf s x.stall).streamed.contains l)

/-- The line of a package's tensor that an address of hub main memory lies in. -/
def tensorAt (s : State) (handle : Nat) (p : PkgDecl) (a : Nat) : Option (Nat × Nat) :=
  ((List.range p.weights.length).flatMap (fun t =>
    (List.range (ceilDiv (tensorBytes p t).length 64)).map (fun i => (t, i)))).find? (fun l =>
      tensorLine s handle l.1 l.2 == a / 64)

/-- A stall's read of hub main memory at an address is one that R298 lets it make: of a tensor that streams, a line that it
reads once in the run and has not read, or, after those, one that its tiles use. -/
def streamAllows (s : State) (g a : Nat) : Bool :=
  match stallFrame s g with
  | none => true
  | some f =>
    match ctxOf s f.ctx with
    | none => true
    | some c =>
      let p := declOf s c.pkg
      let o := runOp s f
      let once := onceLines s c p o (stallDie g)
      match tensorAt s c.pkg p a with
      | none => true
      | some l => !streams s c (stallDie g) l.1 ||
          (once.contains l && !(stallOf s g).streamed.contains l) ||
          (once.all (fun x => (stallOf s g).streamed.contains x) &&
            (tilesLeft f.run g).any (fun x => (usedLines s c p o x).contains l))

/-- The stall reads the line; it runs no tile before the line has come (`tileEnds`). -/
def noteStream (s : State) (g a : Nat) : State :=
  match stallFrame s g with
  | none => s
  | some f =>
    match (ctxOf s f.ctx).bind (fun c => tensorAt s c.pkg (declOf s c.pkg) a) with
    | none => s
    | some l => modStall s g (fun t => { t with streamed := if t.streamed.contains l then t.streamed else t.streamed ++ [l] })

/-- The rows that a tile reads are at hand: the frame's halo copies and resumed entries stand on the die, and the data network
reaches the owners of the rows that it reads remotely (R13, R18, R213, R267). -/
def tileReady (s : State) (c : Ctx) (p : PkgDecl) (f : Frame) (o : OpDecl) (t : Tile) : Bool :=
  movesDone s t.die (fun x => x.for_ == .frame f.ctx f.num) && rowsReach s c p f t.die (remoteRows f t.die (tileForeign c p f o t))

/-- STALL_TILE: a stall in service runs the first of its tiles that may start. -/
def execStallTile (stall : Nat) (s : State) : Host.Outcome State Fault Refusal :=
  .next (
    match if takesTiles s stall && unitServes s (stallDie stall) 0x0C 0 then stallFrame s stall else none with
    | none => s
    | some f =>
      match ctxOf s f.ctx with
      | none => s
      | some c =>
        let p := declOf s c.pkg
        let o := runOp s f
        let l := tilesLeft f.run stall
        let held := l.takeWhile (fun t => !mayStart s c p f o t)
        let n := (held.filter (deferredTile s c p f o)).length
        let s1 := cntAdd s rLftCnt (stallDie stall * 8 + 4) n
        match l.find? (mayStart s c p f o) with
        | none => s1
        | some t => if tileEnds (stallOf s stall) && streamReady s c p o t && tileReady s c p f o t then runTile s1 c f t
          else s1)

/-! ## CHUNK_STEAL, TILE_STEAL (R249, R250) -/

/-- Chunks of a tile by lane, in the order of computation: element and cost in quarter steps. -/
def laneChunks (l : List (Nat × List Nat)) : List (List (Nat × Nat)) :=
  (List.range 32).map (fun i => (l.filter (fun x => x.1 % 32 == i)).flatMap (fun x => x.2.map (fun c => (x.1, c))))

/-- The chunks of a tile of a frame's run: those of a convolution's elements, and of attention's value products at the BF16
rate. -/
def tileLanes (c : Ctx) (p : PkgDecl) (f : Frame) (o : OpDecl) (t : Tile) : List (List (Nat × Nat)) :=
  let slots := tileSlots p o t
  if isConvOp o then
    let k := convOpOf c p o
    let ch := tileChunks o k t
    laneChunks (slots.flatMap (fun g =>
      let r := convRowOf p f o k g.2
      let skip := skippedQuads k r
      (List.range k.cout).map (fun co => (g.1 * k.cout + co, elemCosts k r skip ch.1 ch.2 co))))
  else if opCode o = cAttention then
    let k : AttnOp := ⟨o.desc, [], sitesOf f (byteAt o.desc 2)⟩
    let width := k.heads * k.width
    laneChunks (slots.flatMap (fun g =>
      (List.range width).map (fun i => (g.1 * width + i, List.replicate (k.win / 32) (chunkCost 16 32)))))
  else []

/-- The lanes of a tile as its steals so far leave them: each lane's own chunks, the quarter steps it gave to stolen ones,
and for each stolen chunk its owner, element and the instant its result arrives. -/
structure LaneSim where
  lanes : List (List (Nat × Nat))
  extra : List Nat
  taken : List (Nat × Nat × Nat)
  deriving DecidableEq, Repr

/-- Instant at which a lane ends its work. -/
def LaneSim.time (x : LaneSim) (l : Nat) : Nat := ((x.lanes.getD l []).map (·.2)).sum + x.extra.getD l 0

/-- The thief takes the highest-numbered chunk of its owner. -/
def LaneSim.steal (x : LaneSim) (m : Nat × Nat) : LaneSim :=
  match (x.lanes.getD m.1 []).getLast? with
  | none => x
  | some c =>
    { lanes := updAt x.lanes m.1 List.dropLast, extra := updAt x.extra m.2 (· + c.2),
      taken := x.taken ++ [(m.1, c.1, x.time m.2 + c.2)] }

def laneSim (lanes : List (List (Nat × Nat))) (moved : List (Nat × Nat)) : LaneSim :=
  moved.foldl LaneSim.steal ⟨lanes, List.replicate 32 0, []⟩

/-- Instants at which a lane's own chunks start, and where its sum stands after them: element and instant. -/
def LaneSim.starts (x : LaneSim) (l : Nat) : List Nat := (runSums ((x.lanes.getD l []).map (·.2))).dropLast

def LaneSim.lastOwn (x : LaneSim) (l : Nat) : Option (Nat × Nat) :=
  ((x.lanes.getD l []).getLast?).map (fun c => (c.1, ((x.lanes.getD l []).map (·.2)).sum))

/-- Instants at which an owner adds its stolen chunks, in ascending chunk number: a result waits in a reorder entry until
the chunk before it of the same element is added (R248). -/
def addTimes : Option (Nat × Nat) → List (Nat × Nat) → List Nat
  | _, [] => []
  | last, (e, arrive) :: l =>
    let t := match last with
      | some (g, u) => if g = e then max u arrive else arrive
      | none => arrive
    t :: addTimes (some (e, t)) l

/-- Reorder entries of a lane in use at an instant: from the theft until the chunk is added. -/
def LaneSim.entriesAt (x : LaneSim) (owner time : Nat) : Nat :=
  let mine := ((x.taken.filter (fun k => k.1 == owner)).map (·.2)).reverse
  ((addTimes (x.lastOwn owner) mine).filter (fun t => decide (time < t))).length

/-- When lane `lane` has ended its work, the neighbour has at least 2 unstarted chunks and a free reorder entry. -/
def canSteal (x : LaneSim) (lane victim : Nat) : Bool :=
  decide (2 ≤ ((x.starts victim).filter (fun t => decide (x.time lane ≤ t))).length) &&
    decide (x.entriesAt victim (x.time lane) < 8)

/-- CHUNK_STEAL: an idle lane of a stall takes the highest unstarted chunk of a neighbouring lane. -/
def execChunkSteal (stall lane victim : Nat) (s : State) : Host.Outcome State Fault Refusal :=
  .next (
    match stallFrame s stall with
    | none => s
    | some f =>
      match ctxOf s f.ctx, (tilesLeft f.run stall).find? (fun t =>
          match ctxOf s f.ctx with | some c => mayStart s c (declOf s c.pkg) f (runOp s f) t | none => false) with
      | some c, some t =>
        let x := laneSim (tileLanes c (declOf s c.pkg) f (runOp s f) t) (stallOf s stall).moved
        if decide (lane < 32) && decide (victim < 32) && (lane + 1 == victim || victim + 1 == lane) &&
            canSteal x lane victim then
          cntAdd (modStall s stall (fun x => { x with moved := x.moved ++ [(victim, lane)] })) rDcuStallCnt (stall * 8 + 3) 1
        else s
      | _, _ => s)

/-- TILE_STEAL: an idle stall of a run takes one tile of another stall of its cluster. -/
def execTileSteal (stall : Nat) (s : State) : Host.Outcome State Fault Refusal :=
  .next (
    match s.frames.find? (fun f => f.phase == .accepted && isStallOp (runOp s f) && f.run.stalls.contains stall &&
        (tilesLeft f.run stall).isEmpty && (stealVictim f.run stall).isSome) with
    | none => s
    | some f =>
      match (stealVictim f.run stall).bind (fun v => (tilesLeft f.run v).getLast?) with
      | some t =>
        if takesTiles s stall then
          let run := { f.run with tiles := f.run.tiles.map (fun x => if x.id == t.id then { x with stall := stall } else x) }
          cntAdd (setFrame s { f with run := run }) rDcuStallCnt (stall * 8 + 2) 1
        else s
      | none => s)

/-! ## PARTITION_MERGE (R270) -/

/-- The running value of a row with one more partition merged. -/
def mergeNext (k : ConvOp) (r : ConvRow) (m : Option MergeSt) (x : PartRes) : MergeSt :=
  match m with
  | none => ⟨x.row, 1, x.q, x.vals, x.tag⟩
  | some a =>
    let vals := (enumFrom 0 (a.vals.zip x.vals)).map (fun e => mergeElem (elemFinite k r e.1) e.2.1 e.2.2)
    ⟨a.row, a.upto + 1, a.q, vals, a.tag ||| x.tag⟩

/-- A row whose partitions are all merged. -/
def mergedRow (k : ConvOp) (r : ConvRow) (m : MergeSt) : RowRes :=
  let skip := skippedQuads k r
  ⟨m.row, (enumFrom 0 m.vals).map (fun e => mergedElem k r skip m.q e.1 e.2), m.q, m.tag⟩

/-- PARTITION_MERGE: partition `part` of a row, once the lower ones are merged. -/
def execPartitionMerge (ctx num row part : Nat) (s : State) : Host.Outcome State Fault Refusal :=
  .next (
    match ctxOf s ctx, frameOf s ctx num with
    | some c, some f =>
      match f.run.parts.find? (fun x => x.row == row && x.part == part) with
      | none => s
      | some x =>
        if mergedUpto f.run row = part ∧ unitServes s x.die 0x0C 0 = true then
          let p := declOf s c.pkg
          let o := runOp s f
          let k := convOpOf c p o
          let r := convRowOf p f o k row
          let m := mergeNext k r (f.run.merges.find? (fun m => m.row == row)) x
          let parts := f.run.parts.filter (fun y => y != x)
          let s := mergeWrite s f (intResults o) [x] false
          let others := f.run.merges.filter (fun m => m.row != row)
          if m.upto = partCount k then
            let res := mergedRow k r m
            let s1 := attemptCounts (cntAdd s rLftCnt (x.die * 8 + 3) 1) f.ctx m.q (partCount k) [res]
            let run := { f.run with parts := parts, merges := others, rows := putRow f.run.rows res }
            setFrame s1 { f with run := run }
          else
            let run := { f.run with parts := parts, merges := others ++ [m] }
            setFrame s { f with run := run }
        else s
    | _, _ => s)

/-! ## RETRY_ROUND (R280 to R282) -/

/-- Format and shift of an operator's output. -/
def outFmt (p : PkgDecl) (o : OpDecl) : Nat :=
  if opCode o = cActivation then tensFmt p (u16 o.desc 6)
  else if opCode o = cMapAct then mapFmt p (u16 o.desc 6) else acbOut o.desc

/-- Number of the tensor or map an operator writes. -/
def outNum (o : OpDecl) : Nat :=
  if isConvOp o then convOut o else if opCode o = cAttention then u16 o.desc 12 else u16 o.desc 6

/-- A row as it is stored: a row still overflowing takes bit 7 (R281). -/
def finalRow (p : PkgDecl) (o : OpDecl) (r : RowRes) : Nat × Row :=
  let tag := r.tag ||| (if anyOver r.elems then 128 else 0)
  (r.row, storeRow (outFmt p o) (acbShift o.desc) (intResults o) r.elems tag)

/-- Inserts a row result in ascending row. -/
def rowInsert (r : RowRes) : List RowRes → List RowRes
  | [] => [r]
  | x :: l => if x.row ≤ r.row then x :: rowInsert r l else r :: x :: l

/-- Die that computed a row. -/
def dieOfRow (p : PkgDecl) (o : OpDecl) (run : Run) (row : Nat) : Nat :=
  ((run.tiles.find? (fun t => (tileSlots p o t).any (fun g => g.2 == row))).map (·.die)).getD 0

/-- The pruning unit's writes of a run (R312, R313): rows flagged are counted and left out. -/
def pruneRun (s : State) (c : Ctx) (p : PkgDecl) (o : OpDecl) (rows : List RowRes) : State :=
  if isConvOp o && scbPrune o.desc then
    rows.foldl (fun a r =>
      match ctxOf a c.id with
      | none => a
      | some k =>
        let w := ctxTensor k p (scbTarget o.desc)
        if whO w ≤ r.row then a
        else if 32 ≤ r.tag ∨ anyOver r.elems = true then ctxCnt a rDcuSparseCnt c.id 6 1
        else
          let vs := r.elems.map (fun e => (outVal e).shift (8 * rowTagQ r.tag))
          let x := pruneWrites w r.row vs
          ctxCnt (modCtx a c.id (fun k => adaptWrite p (scbTarget o.desc) k x.1)) rDcuSparseCnt c.id 5 x.2) s
  else s

/-- The rewritten tensor stands in the context's copy on every die of the frame (R311, R313). -/
def prunedRun (s : State) (c : Ctx) (p : PkgDecl) (o : OpDecl) (rows : List RowRes) : State :=
  let s1 := pruneRun s c p o rows
  if isConvOp o && scbPrune o.desc then
    match ctxOf s1 c.id with
    | some k => (maskDies c.dieMask).foldl (fun a d =>
        padPut a d .direct (.adapted c.id (scbTarget o.desc)) (ctxTensor k p (scbTarget o.desc))) s1
    | none => s1
  else s1

/-- The events and counters of rows that saturate (R281, R286, R288). -/
def saturated (s : State) (p : PkgDecl) (o : OpDecl) (f : Frame) (rows : List RowRes) : State × List Ev :=
  rows.foldl (fun a r =>
    let ev : Ev := { code := 0x0130, die := dieOfRow p o f.run r.row, loc := f.ctx, limited := true }
    if anyOver r.elems then (ctxCnt a.1 rDcuArithCnt f.ctx (if r.q = 3 then 4 else 5) 1, a.2 ++ [ev])
    else if 128 ≤ r.tag then (a.1, a.2 ++ [ev]) else a) (s, [])

/-- Rows flagged by engine error (R286). -/
def engineRows (rows : List RowRes) : Nat := (rows.filter (fun r => bitOf r.tag 5)).length

/-- A tensor or map as its owners hold it in their paddocks. -/
def storeOut (s : State) (c : Ctx) (f : Frame) (o : OpDecl) : State :=
  if onMaps o then storeMap s c f .direct (outNum o) else storeTensor s c f .direct (outNum o)

/-- The run's end: rows are written, the leave returns, and the next operator may start. -/
def endStallRun (s : State) (c : Ctx) (f : Frame) : State :=
  let p := declOf s c.pkg
  let o := runOp s f
  let rows := f.run.rows.foldl (fun a r => rowInsert r a) []
  let out := rows.map (finalRow p o)
  let f1 := if onMaps o then { f with maps := mapPut f.maps (outNum o) out }
    else { f with tensors := mapPut f.tensors (outNum o) out }
  let e := saturated (prunedRun s c p o rows) p o f rows
  let s0 := ctxCnt (storeOut e.1 c f1 o) rDcuArithCnt f.ctx 7 (engineRows rows)
  let s1 := f.run.stalls.foldl (fun a g => returnLeave a f (stallDie g) g) s0
  raise (endRun s1 f1 5) e.2

/-- The units of R280, each its tiles, of a scale step below 3 with a row that still overflows. The segment tiles of R267 that
have one first row make one unit, and each counts as a tile of it (log entry 34, DESIGN CHOICE: R280 names only a tile or a
row's partition tiles). -/
def pendingUnits (p : PkgDecl) (o : OpDecl) (run : Run) : List (List Tile) :=
  let overs := (run.rows.filter (fun r => anyOver r.elems && decide (r.q < 3))).map (fun r => (r.row, r.q))
  let hit := run.tiles.filter (fun t => (tileSlots p o t).any (fun g => overs.contains (g.2, t.q)))
  let los := natSort ((hit.map (·.lo)).eraseDups)
  los.map (fun l => hit.filter (fun t => t.lo == l))

/-- Tiles of a unit that a retry runs again: the pre-pass is not among them (R310). -/
def retryTiles (k : ConvOp) (u : List Tile) : List Tile :=
  u.filter (fun t => !(decide (1 < partCount k) && t.part == some (partCount k)))

/-- Grants a unit: its tiles run again with the scale step one higher. -/
def grantUnit (run : Run) (u : List Tile) : Run :=
  { run with tiles := run.tiles.map (fun t => if u.any (fun x => x.id == t.id) then { t with q := t.q + 1, done := false } else t) }

/-- Grants units in order while they fit; the first that does not ends granting for the frame. -/
def grantUnits (k : ConvOp) (a : State × Frame × List Ev) (u : List Tile) : State × Frame × List Ev :=
  let (s, f, l) := a
  let ts := retryTiles k u
  if f.retryEnded then a
  else if ts.length ≤ f.retry then
    (ctxCnt s rDcuArithCnt f.ctx 2 ts.length, { f with retry := f.retry - ts.length, run := grantUnit f.run ts }, l)
  else
    (ctxCnt s rDcuArithCnt f.ctx 6 1, { f with retryEnded := true },
      l ++ [{ code := 0x0131, die := (ts.head?.map (·.die)).getD 0, loc := f.ctx, limited := true }])

/-- Every die has its tiles, and all of them are run and merged. -/
def runComplete (ds : List Nat) (run : Run) : Bool :=
  ds.all (fun d => run.dies.contains d) && run.tiles.all (·.done) && run.parts.isEmpty && run.merges.isEmpty

/-- Every access of a frame's operator run has taken effect: gathers, drains and engine operations of its stalls, the
engine operations of the work distributor, and the moves of the units of its dies (R231, R237). A stall whose port is cut makes
none (R24). -/
def accessesDone (s : State) (f : Frame) : Bool :=
  f.run.stalls.all (fun g =>
    let t := stallOf s g
    portCut s (stallDie g) (stallLocal g) ||
      (tileEnds t &&
        (match (dieOf s (stallDie g)).engines[stallLocal g / 8]? with
         | some e => !((e.ops ++ e.waiting).any (fun x => x.issuer == stallLocal g % 8))
         | none => true))) &&
    f.run.dies.all (fun d => movesDone s d (fun x => x.for_ == .frame f.ctx f.num) &&
      (dieOf s d).engines.all (fun e => !((e.ops ++ e.waiting).any (fun x =>
        x.issuer == 8 && x.for_ == .frame f.ctx f.num))))

/-- RETRY_ROUND: at the end of a stall operator's attempts, grants retries or ends the run. -/
def execRetryRound (ctx num : Nat) (s : State) : Host.Outcome State Fault Refusal :=
  .next (
    match ctxOf s ctx, frameOf s ctx num with
    | some c, some f =>
      let p := declOf s c.pkg
      let o := runOp s f
      if f.phase == .accepted && f.ordered && isStallOp o && runComplete (maskDies c.dieMask) f.run && accessesDone s f then
        let k := convOpOf c p o
        let r := (pendingUnits p o f.run).foldl (grantUnits k) (s, f, [])
        let s1 := if r.2.1.run.tiles.all (·.done) then endStallRun r.1 c r.2.1
          else (maskDies c.dieMask).foldl handOver (setFrame r.1 r.2.1)
        raise s1 r.2.2
      else s
    | _, _ => s)

/-! ## OPERATOR_DISPATCH (R211, R213, R237, R248) -/

/-- Rows a die may copy (R213). -/
def haloCap (s : State) (f : Frame) (e : Nat) : Nat :=
  cfgFld s rAdmCfg 0 14 7 * (f.cuts.getD (e + 1) 0 - f.cuts.getD e 0) / 256

/-- A copied row, by its key: the data-network ingress moves its bytes to the die's working space (R213, R242). -/
def haloRow (p : PkgDecl) (f : Frame) (d : Nat) (s : State) (key : Nat) : State :=
  padMove s d 9 (.frame f.ctx f.num) (.halo f.ctx f.num (key % 2 ^ 32) (key / 2 ^ 32))
    (rowData (tensFmt p (key % 2 ^ 32)) (rowOf f.tensors (key % 2 ^ 32) (key / 2 ^ 32)))

/-- The rows that a die at a position copies: the foreign rows of lowest global rank. -/
def haloRows (s : State) (c : Ctx) (p : PkgDecl) (f : Frame) (o : OpDecl) (e : Nat) : List Nat :=
  (natSort (runForeign c p f o e)).take (haloCap s f e)

/-- The halo copy of a die: the copied rows, the counters, and CSU_HALO_OVER at the first excess of the run. -/
def haloCopy (s : State) (c : Ctx) (f : Frame) (o : OpDecl) (ds : List Nat) (d : Nat) : State × List Ev :=
  let p := declOf s c.pkg
  let overs := fun x => decide (haloCap s f (posIn ds x) < (runForeign c p f o (posIn ds x)).length)
  let rows := haloRows s c p f o (posIn ds d)
  let s1 := ctxCnt (rows.foldl (haloRow p f d) s) rCsuCtxCnt f.ctx 3 rows.length
  if overs d && !(f.run.dies.any overs) then
    (ctxCnt s1 rCsuCtxCnt f.ctx 5 1, [{ code := 0x0980, die := d, loc := f.ctx, limited := true }])
  else (s1, [])

/-- The tiles of a die handed to its stalls in turn. -/
def handTiles (first die : Nat) (stalls : List Nat) (l : List (Nat × Nat × Option Nat × Nat)) : List Tile :=
  (enumFrom 0 l).map (fun t =>
    { id := first + t.1, seg := t.2.2.2.2, die := die, stall := stalls.getD (t.1 % max 1 stalls.length) 0, lo := t.2.1,
      hi := t.2.2.1, part := t.2.2.2.1, q := 0, done := false })

/-- All stalls of the frame on the die ask for leave, in the same step (R232). -/
def askAll (s : State) (f : Frame) (d : Nat) (l : List Nat) : State × List Ev :=
  l.foldl (fun a g => andThen a (fun t => askLeave t f.ctx f.num d g)) (s, [])

/-- No unit of a die has lines to move for a frame, nor the memory port weights that become resident (R108, R237). -/
def frameMoved (s : State) (d : Nat) (f : Frame) : Bool :=
  movesDone s d (fun x => x.for_ == .frame f.ctx f.num || (x.for_ == .other && x.req == 12))

/-- OPERATOR_DISPATCH: the frame's next operator starts on a die, once the accesses of the one before it have taken effect
there (R237) and the data network reaches the owners of the rows that it copies (R13, R18). -/
def execOperatorDispatch (ctx num die : Nat) (stalls : List Nat) (s : State) : Host.Outcome State Fault Refusal :=
  .next (
    match ctxOf s ctx, frameOf s ctx num with
    | some c, some f =>
      let ds := maskDies c.dieMask
      let p := declOf s c.pkg
      let o := runOp s f
      let mine := (stalls.filter (fun g => stallDie g == die && takesTiles s g)).eraseDups
      if f.phase == .accepted && f.ordered && ds.contains die && !f.run.dies.contains die &&
          decide (f.run.op < p.ops.length) && (!isStallOp o || !mine.isEmpty) && frameMoved s die f &&
          rowsReach s c p f die (haloRows s c p f o (posIn ds die)) then
        let h := haloCopy s c f o ds die
        let tiles := if isStallOp o then handTiles f.run.tiles.length die mine (dieTiles c p f o (posIn ds die)) else []
        let halo := mapPut f.run.halo die (haloRows s c p f o (posIn ds die))
        let run := { f.run with halo := halo, dies := f.run.dies ++ [die], stalls := f.run.stalls ++ (if isStallOp o then mine else []),
                                tiles := f.run.tiles ++ tiles }
        let fresh := fun (x : StallSt) =>
          { x with streamed := if c.guaranteed then x.streamed else [], hubWay := hubWays s die }
        let s1 := (if isStallOp o then mine else []).foldl (fun b g => modStall b g fresh) (setFrame h.1 { f with run := run })
        let a := askAll s1 f die (if isStallOp o then mine else [])
        raise a.1 (h.2 ++ a.2)
      else s
    | _, _ => s)

end Sys2Proof.Machine
end

