-- ==== Sys2Proof/Machine/Bev.lean ====
section
/-!
DEFINITION. BEV scatter (R344 to R347), selection (R352 to R359), suppression (R360) and ML zone occupancy (R361).
Conventions: log entry 52 (DEDUCED).
-/
namespace Sys2Proof.Machine

/-! ## BEV_SCATTER_TILE (R345 to R347) -/

/-- A value as a stage unit with FP32 input reads it (R283). -/
def fp32In (v : Val) : Val := v32 (fFP32.convert v)

def scatX (d : List Byte) : Nat := byteAt d 16
def scatY (d : List Byte) : Nat := byteAt d 17

/-- Pixel of a site, none outside the map (R345). -/
def sitePixel (p : PkgDecl) (d : List Byte) (t : Site) : Option Nat :=
  let m := u16 d 6
  let px := ((t.ix : Int) - i32 d 8) / (scatX d : Int)
  let py := ((t.iy : Int) - i32 d 12) / (scatY d : Int)
  if 0 ≤ px ∧ px < mapX p m ∧ 0 ≤ py ∧ py < mapY p m then some (py.toNat * mapX p m + px.toNat) else none

/-- Largest value, with a zero written as +0. -/
def maxVal (vs : List Val) : Val :=
  if vs.any Val.isNan then .nan
  else
    let m := vs.foldl (fun m v => if m.lt v then v else m) (.inf true)
    if m.isZero then Val.zero else m

/-- Exact sum of values, +0 for zero. -/
def exactSum (vs : List Val) : Val :=
  let s := vs.foldl Val.add Val.zero
  if s.isZero then Val.zero else s

/-- A finite value divided by n, rounded once to FP32. -/
def divNat (v : Val) (n : Nat) : Val :=
  match v with
  | .fin a m e => rne32 (.fin a (m * 2 ^ 64 / max 1 n * 2 + b2n (m * 2 ^ 64 % max 1 n != 0)) (e - 65))
  | x => x

/-- One channel of a pixel over its sites (R346). -/
def scatterVal (mode : Nat) (vs : List Val) : Val :=
  if mode = 0 then maxVal vs
  else if mode = 1 then rne32 (exactSum vs)
  else divNat (exactSum vs) vs.length

/-- A pixel's row. -/
def pixelRow (p : PkgDecl) (d : List Byte) (rows : List Row) : Row :=
  let m := u16 d 6
  let c := mapC p m
  let vals := (List.range c).map (fun i =>
    if rows = [] then v32 (u32 d 20) else scatterVal (byteAt d 2) (rows.map (fun r => fp32In (rowValue (tensFmt p (u16 d 4)) r i))))
  let r := packRow (mapFmt p m) vals
  ⟨r.1, r.2, if rows.any (fun r => rowFlagged r.tag) then 64 else 0⟩

/-- Sites of a frame with their pixels. -/
def sitePixels (p : PkgDecl) (f : Frame) (d : List Byte) : List (Nat × Option Nat) :=
  (enumFrom 0 (sitesOf f (byteAt d 3))).map (fun t => (t.1, sitePixel p d t.2))

/-- The scattered map. -/
def scatterMap (p : PkgDecl) (f : Frame) (d : List Byte) : List (Nat × Row) :=
  let m := u16 d 6
  let hits := sitePixels p f d
  (List.range (mapX p m * mapY p m)).map (fun i =>
    (i, pixelRow p d ((hits.filter (fun h => h.2 == some i)).map (fun h => rowOf f.tensors (u16 d 4) h.1))))

/-- The counters of a scattered map (R363). -/
def countScatter (s : State) (p : PkgDecl) (f : Frame) (d : List Byte) (rows : List (Nat × Row)) : State :=
  let hits := sitePixels p f d
  let add := fun (a : State) (n v : Nat) => ctxCnt a rBsuCtxCnt f.ctx n v
  let out := (hits.filter (fun h => h.2.isNone)).length
  let s1 := add (add s 0 (hits.length - out)) 1 out
  let s2 := add s1 2 ((List.range rows.length).filter (fun i => !(hits.any (fun h => h.2 == some i)))).length
  add s2 3 (rows.filter (fun r => rowFlagged r.2.tag)).length

/-- BEV_SCATTER_TILE: the next 4,096 sites a die owns. With the last tile of the last die the map is written. -/
def execBevScatterTile (ctx num die : Nat) (s : State) : Host.Outcome State Fault Refusal :=
  .next (
    match ctxOf s ctx, frameOf s ctx num with
    | some c, some f =>
      let ds := maskDies c.dieMask
      let p := declOf s c.pkg
      let d := (runOp s f).desc
      let total := fun x => (ownedRanks f (byteAt d 3) (posIn ds x)).length
      if stageServes s f die 0x0E && !itemsDone f.run.done die (total die) then
        let n := min (total die) (mapGet 0 f.run.done die + 4096)
        let s1 := if n = total die then returnLeave s f die (512 + 0x0E) else s
        let run := { f.run with done := mapPut f.run.done die n }
        if ds.all (fun x => itemsDone run.done x (total x)) then
          let rows := scatterMap p f d
          let f1 := { f with maps := mapPut f.maps (u16 d 6) rows }
          endRun (countScatter (storeMap s1 c f1 (stageWay f1) (u16 d 6)) p f d rows) f1 7
        else setFrame s1 { f with run := run }
      else s
    | _, _ => s)

/-! ## Selection (R352 to R358) -/

/-- Descriptor fields. -/
def selMap (d : List Byte) : Nat := u16 d 2
def selRowLen (d : List Byte) : Nat := max 1 (u32 d 16)
def selCap (d : List Byte) : Nat := u16 d 24

/-- A channel of a pixel as the SEL reads it: none for channel 0xFFFF. -/
def selChan (p : PkgDecl) (f : Frame) (d : List Byte) (px ch : Nat) : Option Val :=
  if ch = 0xFFFF then none else some (fp32In (rowValue (mapFmt p (selMap d)) (rowOf f.maps (selMap d) px) ch))

/-- An element's value. -/
def selVal (p : PkgDecl) (f : Frame) (d : List Byte) (px : Nat) : Val := (selChan p f d px (u16 d 4)).getD .nan

/-- Element a ranks before element b (R353). -/
def ranksBefore (a b : Nat × Val) : Bool := b.2.lt a.2 || (!(a.2.lt b.2) && decide (a.1 < b.1))

def rankInsert (e : Nat × Val) : List (Nat × Val) → List (Nat × Val)
  | [] => [e]
  | x :: l => if ranksBefore x e then x :: rankInsert e l else e :: x :: l

def rankSort (l : List (Nat × Val)) : List (Nat × Val) := l.foldl (fun a e => rankInsert e a) []

/-- Elements of a pixel list that may be selected: above the threshold, or not NaN. -/
def qualifying (p : PkgDecl) (f : Frame) (o : OpDecl) (px : List Nat) : List (Nat × Val) :=
  (px.map (fun i => (i, selVal p f o.desc i))).filter (fun e =>
    !e.2.isNan && (opCode o == cTopK || (v32 (u32 o.desc 20)).lt e.2))

/-- Elements in list order, cut to the capacity (R354, R355). -/
def cutList (o : OpDecl) (l : List (Nat × Val)) : List (Nat × Val) :=
  (if opCode o = cTopK then rankSort l else l).take (selCap o.desc)

/-- Rows a selection has, and the pixels of one. -/
def selRows (p : PkgDecl) (d : List Byte) : Nat := ceilDiv (mapX p (selMap d) * mapY p (selMap d)) (selRowLen d)

def selRowPixels (p : PkgDecl) (d : List Byte) (r : Nat) : List Nat :=
  let n := mapX p (selMap d) * mapY p (selMap d)
  (List.range (min (selRowLen d) (n - r * selRowLen d))).map (· + r * selRowLen d)

/-- Pixels a die holds: its band, which may be empty, and its halo rows (R343, R357). -/
def heldPixels (ws : List Nat) (p : PkgDecl) (m e : Nat) : List Nat :=
  let b := bandOf ws (mapY p m) e
  let lo := b.1 - mapHalo p m
  let hi := min (mapY p m) (b.2 + mapHalo p m)
  (List.range ((hi - lo) * mapX p m)).map (· + lo * mapX p m)

/-- A partition's list: per row of the selection, its first elements (R357). -/
def partitionList (p : PkgDecl) (f : Frame) (o : OpDecl) (px : List Nat) : List Nat :=
  let q := qualifying p f o px
  (((px.map (· / selRowLen o.desc)).eraseDups).flatMap (fun r =>
    cutList o (q.filter (fun e => e.1 / selRowLen o.desc == r)))).map (·.1)

/-- SELECTION_TILE: the next 4,096 elements a die holds, into one partition list. -/
def execSelectionTile (ctx num die : Nat) (s : State) : Host.Outcome State Fault Refusal :=
  .next (
    match ctxOf s ctx, frameOf s ctx num with
    | some c, some f =>
      let ds := maskDies c.dieMask
      let p := declOf s c.pkg
      let o := runOp s f
      let px := heldPixels (weightSums c f) p (selMap o.desc) (posIn ds die)
      if stageServes s f die 0x0F && (opCode o == cCompact || opCode o == cTopK) && !itemsDone f.run.done die px.length then
        let from_ := mapGet 0 f.run.done die
        let tile := (px.drop from_).take 4096
        let run := { f.run with done := mapPut f.run.done die (from_ + tile.length),
                                selParts := f.run.selParts ++ [(die, partitionList p f o tile)] }
        setFrame (cntUnits s rSelCtxCnt (ctx * 8) 1024 tile.length) { f with run := run }
      else s
    | _, _ => s)

/-! ## Sums and positions (R356, R358) -/

/-- One level of the sum tree. -/
def pairLevel : List Val → List Val
  | a :: b :: l => rne32 (a.add b) :: pairLevel l
  | l => l

def pairTree : Nat → List Val → Val
  | 0, l => l.headD Val.zero
  | n + 1, l => match l with
    | [] => Val.zero
    | [v] => v
    | _ => pairTree n (pairLevel l)

/-- Smallest power of 2 that is at least n, and its exponent. -/
def pow2Exp (n : Nat) : Nat := if n ≤ 1 then 0 else Nat.log2 (n - 1) + 1

/-- pairsum over the leaves of a row; those left out read +0. -/
def pairSum (leaves : List Val) : Nat :=
  let k := pow2Exp leaves.length
  f32 (pairTree k (leaves ++ List.replicate (2 ^ k - leaves.length) Val.zero))

/-- The map chain back to the BEV scatter: its descriptor and the product of strides (R358). -/
def mapChain (p : PkgDecl) : Nat → Nat → Nat → Option (List Byte × Nat)
  | 0, _, _ => none
  | n + 1, m, sigma =>
    match p.ops.find? (fun o => (opCode o == cScatter && u16 o.desc 6 == m) || (opCode o == cDense && convOut o == m) ||
        (opCode o == cMapAct && u16 o.desc 6 == m)) with
    | none => none
    | some o =>
      if opCode o = cScatter then some (o.desc, sigma)
      else if opCode o = cDense then mapChain p n (convIn o) (sigma * byteAt o.desc 4)
      else mapChain p n (u16 o.desc 4) sigma

def clampI32 (v : Int) : Int := max int32Min (min int32Max v)

/-- Nearest integer to v × 4,096; a NaN adds 0 and an infinity saturates. -/
def offsetInt (v : Val) : Int :=
  match v with
  | .nan => 0
  | .inf n => if n then -(2 : Int) ^ 40 else (2 : Int) ^ 40
  | x => (x.shift 12).round

/-- Centre of a scatter pixel on an axis. -/
def pixelCentre (v d : List Byte) (a px sigma : Nat) : Int :=
  let w := gridS v a * 2 ^ byteAt d 3
  let f := if a = 0 then scatX d else scatY d
  gridO v a + (w : Int) * (i32 d (8 + 4 * a) + (px * sigma * f : Nat)) + (w * f / 2 : Nat)

/-- Position of a pixel on x or y, with its offset channel. -/
def selPos (p : PkgDecl) (f : Frame) (d : List Byte) (px a : Nat) : Int :=
  let x := max 1 (mapX p (selMap d))
  match mapChain p p.ops.length (selMap d) 1 with
  | none => 0
  | some (sd, sigma) =>
    let off := ((selChan p f d px (u16 d (6 + 2 * a))).map offsetInt).getD 0
    clampI32 (pixelCentre (vhuDesc p) sd a (if a = 0 then px % x else px / x) sigma + off)

/-- An entry of a list. -/
def selEntry (p : PkgDecl) (f : Frame) (d : List Byte) (e : Nat × Val) : SelEntry :=
  let carry := fun ch => ((selChan p f d e.1 ch).map f32).getD 0
  ⟨e.1, f32 e.2, selPos p f d e.1 0, selPos p f d e.1 1, ((selChan p f d e.1 (u16 d 10)).map (fun v => clampI32 (offsetInt v))).getD 0,
    rowFlagged (rowOf f.maps (selMap d) e.1).tag, carry (u16 d 12), carry (u16 d 14)⟩

/-- One row's list, from the merged partition lists (R354 to R357). -/
def selRowList (p : PkgDecl) (f : Frame) (o : OpDecl) (emitted : List Nat) (r : Nat) : SelList :=
  let px := selRowPixels p o.desc r
  let q := qualifying p f o px
  let sel := cutList o (q.filter (fun e => emitted.contains e.1))
  let vals := px.map (fun i => (i, selVal p f o.desc i))
  let leaf := fun (keep : Bool) => vals.map (fun e =>
    if !e.2.isNan && (sel.any (fun x => x.1 == e.1) == keep) then e.2 else Val.zero)
  let es := sel.map (selEntry p f o.desc)
  ⟨r, selCap o.desc, es, q.length, opCode o == cCompact && decide (selCap o.desc < q.length), es.any (·.flagged), opCode o == cTopK,
    u16 o.desc 10 != 0xFFFF, pairSum (leaf true), pairSum (leaf false), (vals.filter (fun e => e.2.isNan)).length⟩

/-! ## Suppression and zone occupancy (R360, R361) -/

def listOf (f : Frame) (n : Nat) : List SelList := (mapFind f.lists n).getD []

def emptyList : SelList := ⟨0, 0, [], 0, false, false, false, false, 0, 0, 0⟩

/-- Entries in the order of R353. -/
def rankEntries (l : List SelEntry) : List SelEntry :=
  (rankSort ((enumFrom 0 l).map (fun e => (e.2.index, v32 e.2.value)))).filterMap (fun k => l.find? (fun e => e.index == k.1))

/-- Kept entries: none within the radius of one kept before. -/
def keepEntries (rho : Nat) (l : List SelEntry) : List SelEntry :=
  l.foldl (fun kept e =>
    if kept.any (fun k => decide ((k.x - e.x).natAbs ^ 2 + (k.y - e.y).natAbs ^ 2 ≤ rho ^ 2)) then kept else kept ++ [e]) []

/-- The suppressed list: the input's capacity and header flags; its slots behind the kept entries are not those of R355. -/
def suppressList (d : List Byte) (l : SelList) : SelList :=
  let kept := keepEntries (u32 d 4) (rankEntries l.entries)
  let leaf := fun (keep : Bool) => l.entries.map (fun e => if kept.contains e == keep then v32 e.value else Val.zero)
  { l with entries := kept, topK := false, selSum := pairSum (leaf true), leftSum := pairSum (leaf false) }

/-- A zone against an entry, at every height without z (R361). -/
def measureEntry (z : List Byte) (hasZ : Bool) (e : SelEntry) : Bool × Nat :=
  measure z e.x e.y (if hasZ then e.z else zLo z)

/-- The ML result over the zones of a context. -/
def zoneResult (zones : List (List Byte)) (l : SelList) : MlRes :=
  let ms := zones.map (fun z => l.entries.map (measureEntry z l.hasZ))
  ⟨ms.map (fun m => (m.filter (·.1)).length), ms.map (fun m => m.foldl (fun a x => min a x.2) 0xFFFFFFFF),
    l.overflow || l.entries.any (·.flagged)⟩

/-! ## SELECTION_MERGE -/

/-- The bytes of an entry (R358). -/
def selEntryBytes (e : SelEntry) : List Byte :=
  leBytes 4 e.index ++ leBytes 4 e.value ++ leBytes 4 (unsigned 32 e.x) ++ leBytes 4 (unsigned 32 e.y) ++
    leBytes 4 (unsigned 32 e.z) ++ leBytes 1 (b2n e.flagged) ++ leBytes 3 0 ++ leBytes 4 e.carryA ++ leBytes 4 e.carryB

/-- The header of a row's list. -/
def selHeadBytes (l : SelList) (cut : Bool) : List Byte :=
  leBytes 4 l.entries.length ++ leBytes 4 l.cap ++ leBytes 4 l.total ++
    leBytes 1 (b2n l.overflow + 2 * b2n l.flagged + 4 * b2n l.hasZ + 8 * b2n cut) ++ leBytes 3 0 ++
    leBytes 4 l.selSum ++ leBytes 4 l.leftSum ++ leBytes 4 l.nans ++ leBytes 4 l.row

/-- An empty slot of a top-k (R355). -/
def emptySlot : List Byte := leBytes 4 0xFFFFFFFF ++ leBytes 4 0xFF800000 ++ leBytes 24 0

/-- A list as it stands in the working space (R358): header, valid entries, and in a top-k the empty slots of R355. -/
def listBytes (l : SelList) : List Byte :=
  selHeadBytes l false ++ l.entries.flatMap selEntryBytes ++
    (if l.topK then (List.replicate (l.cap - l.entries.length) emptySlot).flatten else [])

/-- The lists of a number as the first die holds them in its working space. -/
def storeLists (s : State) (f : Frame) (d0 n : Nat) : State :=
  (listOf f n).foldl (fun a l => padMove a d0 11 (.frame f.ctx f.num) (.list f.ctx f.num n l.row) (listBytes l)) s


/-- The lists of a selection with their counters and event (R354, R357, R363, R365). -/
def mergeSelection (s : State) (p : PkgDecl) (f : Frame) (o : OpDecl) (d0 : Nat) : State × Frame × List Ev :=
  let emitted := f.run.selParts.flatMap (·.2)
  let ls := (List.range (selRows p o.desc)).map (selRowList p f o emitted.eraseDups)
  let add := fun (a : State) (n v : Nat) => ctxCnt a rSelCtxCnt f.ctx n v
  let overs := (ls.filter (·.overflow)).length
  let s1 := add (add (add (add s 1 ls.length) 2 overs) 3 (emitted.length - emitted.eraseDups.length)) 5 ((ls.map (·.nans)).sum)
  let f1 := { f with lists := mapPut f.lists (byteAt o.desc 26) ls }
  (storeLists s1 f1 d0 (byteAt o.desc 26), f1,
    List.replicate overs { code := 0x0F80, die := d0, loc := f.ctx, limited := true })

/-- What the operator of the selection unit leaves in the frame. -/
def selResult (s : State) (c : Ctx) (p : PkgDecl) (f : Frame) (o : OpDecl) (d0 : Nat) : State × Frame × List Ev :=
  if opCode o = cSuppress then
    let l := (listOf f (byteAt o.desc 2)).headD emptyList
    let k := suppressList o.desc l
    let f1 := { f with lists := mapPut f.lists (byteAt o.desc 3) [k] }
    (storeLists (ctxCnt (ctxCnt s rSelCtxCnt f.ctx 1 1) rSelCtxCnt f.ctx 4 (l.entries.length - k.entries.length)) f1 d0
      (byteAt o.desc 3), f1, [])
  else if opCode o = cZone then
    let r := zoneResult c.zones ((listOf f (byteAt o.desc 2)).headD emptyList)
    (ctxCnt s rSelCtxCnt f.ctx 6 (b2n r.untrusted), { f with ml := some r }, [])
  else mergeSelection s p f o d0

/-- Every die has scanned what it holds; suppression and zone occupancy work at d0 alone. -/
def selScanned (c : Ctx) (p : PkgDecl) (f : Frame) (o : OpDecl) (ds : List Nat) : Bool :=
  ds.all (fun d => f.run.dies.contains d) &&
    (opCode o == cSuppress || opCode o == cZone ||
      ds.all (fun d => itemsDone f.run.done d (heldPixels (weightSums c f) p (selMap o.desc) (posIn ds d)).length))

/-- SELECTION_MERGE: the SEL of the first die merges the partition lists, or runs suppression or zone occupancy. -/
def execSelectionMerge (ctx num : Nat) (s : State) : Host.Outcome State Fault Refusal :=
  .next (
    match ctxOf s ctx, frameOf s ctx num with
    | some c, some f =>
      let ds := maskDies c.dieMask
      let d0 := ds.headD 0
      let p := declOf s c.pkg
      let o := runOp s f
      if isSelOp o && stageServes s f d0 0x0F && selScanned c p f o ds then
        let r := selResult s c p f o d0
        let s1 := ds.foldl (fun a d => returnLeave a f d (512 + 0x0F)) r.1
        raise (endRun s1 r.2.1 8) r.2.2
      else s
    | _, _ => s)

end Sys2Proof.Machine
end

