-- ==== Sys2Proof/Machine/Checker.lean ====
section
/-!
DEFINITION. The zone checker's own deskew and verdict (R401 to R404), and the start of best-effort frames (R132).
Conventions: log entry 35 (DEDUCED), log entry 44 (DEDUCED).
-/
namespace Sys2Proof.Machine

/-! ## The checker's deskew (R401) -/

/-- Row r of the checker's rotation, its elements divided by 1,024. -/
def chkRow (e : List Int) (r : Nat) (p : Pt) : Int :=
  intAt e (3 * r) / 1024 * p.x + intAt e (3 * r + 1) / 1024 * p.y + intAt e (3 * r + 2) / 1024 * p.z

/-- chk_pose and chk_deskew; none for an EMPTY table. -/
def chkPlace (hold : Int) (tab : PoseTab) (p : Pt) : Option Placed :=
  if tab.mode = 0 then none
  else
    let t : Int := p.time
    let e := poseAt false tab t
    some ⟨chkRow e 0 p / 2 ^ 20 + intAt e 9, chkRow e 1 p / 2 ^ 20 + intAt e 10, chkRow e 2 p / 2 ^ 20 + intAt e 11,
      stalePose tab hold t⟩

/-- Every point that the checker store holds, as the checker deskews it. -/
def chkPlaced (s : State) (f : Frame) : List (Option Placed) :=
  let d := dskDesc (pkgOfFrame s f)
  (f.chkPts.filterMap (fun j => f.pts[j]?)).map (fun p => chkPlace (u32 d 8 * 1000) (snapTab f p.sensor) p)

/-! ## The verdict (R402, R403) -/

/-- Count and least distance of a zone over the placed points (R402). -/
def zoneTally (z : List Byte) (l : List Placed) : Nat × Nat :=
  l.foldl (fun a p =>
    let m := measure z p.x p.y p.z
    (a.1 + b2n m.1, min a.2 m.2)) (0, 0xFFFFFFFF)

def staleStop (s : State) : Bool := cfgFld s rZckCfg 0 19 19 == 1

/-- What the checker finds for a frame. -/
def chkResult (s : State) (c : Ctx) (f : Frame) : ChkRes :=
  let l := chkPlaced s f
  let ps := l.filterMap id
  let tally := c.zones.map (fun z => zoneTally z (ps.filter Placed.fits))
  ⟨tally.map (·.1), tally.map (·.2), l.any (·.isNone), ps.any (·.stale) && staleStop s⟩

/-- The causes of R403, as the bits of the verdict frame (R416): pose missing, stale pose, sensor silent, store held. -/
def chkCauses (f : Frame) : Nat :=
  (match f.chk with
   | some r => b2n r.noPose + 2 * b2n r.stale
   | none => 0) + 4 * b2n f.silent + 8 * b2n (f.psHeld || f.ckHeld)

/-- The checker's counters of a frame (R430). -/
def chkCount (s : State) (f : Frame) (r : ChkRes) : State :=
  let l := chkPlaced s f
  let ps := l.filterMap id
  let add := fun (a : State) (n k : Nat) => ctxCnt a rZckCtxCnt f.ctx n k
  add (add (add (add (add (add s 0 l.length) 1 (ps.filter (·.stale)).length) 2 (l.filter (·.isNone)).length)
    3 (ps.filter (fun p => !p.fits)).length) 4 1) 5 (b2n (chkCauses { f with chk := some r } != 0))

/-! ## CHECKER_VERDICT_READY (R404, R443 to R445) -/

/-- The frame's verdict is reported not ready. -/
def chkFails (s : State) (c : Ctx) (f : Frame) : Bool := f.chkBad || c.chkDead || s.zck.dead

/-- Every point of the frame has been taken. -/
def chkTaken (s : State) (c : Ctx) (f : Frame) : Bool :=
  decide (f.chkUpto ≤ (if c.guaranteed then s.zck.gTaken else s.zck.bTaken))

/-- An accepted guaranteed frame whose cut-off has passed waits for CUTOFF_EXPIRY. -/
def pastCutoff (s : State) (c : Ctx) (f : Frame) : Bool :=
  c.guaranteed && f.phase == .accepted && decide (f.cutoff < s.raw)

/-- Ends the checker's work on a frame: the half of its store is free, and a sealed frame is gone. -/
def chkDone (s : State) (f : Frame) (r : Option ChkRes) : State :=
  let is := fun (g : Frame) => g.ctx == f.ctx && g.num == f.num
  if f.phase = .sealed then { s with frames := s.frames.filter (fun g => !is g) }
  else { s with frames := s.frames.map (fun g => if is g then { g with chk := r, chkReady := true, ckHalf := false } else g) }

/-- CHECKER_VERDICT_READY: the verdict, or the report that it will not be ready. -/
def execCheckerVerdictReady (ctx num : Nat) (s : State) : Host.Outcome State Fault Refusal :=
  .next (
    match ctxOf s ctx, s.frames.find? (fun f => f.ctx == ctx && f.num == num && f.phase != .opened && !f.chkReady) with
    | some c, some f =>
      if (pastCutoff s c f && !f.poisoned) || !hubServes s 0x10 then s
      else if chkFails s c f then chkDone s f none
      else if chkTaken s c f then
        let r := chkResult s c f
        chkDone (chkCount s f r) f (some r)
      else s
    | _, _ => s)

/-! ## BEST_EFFORT_FRAME_START (R132) -/

/-- Frame a closed before frame b, ties in ascending context. -/
def closedBefore (a b : Frame) : Bool := a.close < b.close || (a.close == b.close && a.ctx < b.ctx)

/-- Best-effort frames that wait for a die, in close order. -/
def waitsFor (s : State) (d : Nat) : List Frame :=
  (s.frames.filter (fun f => f.phase == .waiting && frameOn s d f)).foldl
    (fun l f => l.takeWhile (fun g => closedBefore g f) ++ [f] ++ l.dropWhile (fun g => closedBefore g f)) []

/-- The frame is the die's best-effort frame. -/
def runsOn (s : State) (f : Frame) (d : Nat) : Bool := (dieOf s d).beRun == some (f.ctx, f.num)

/-- BEST_EFFORT_FRAME_START: the first waiting frame starts on a die, where its context's state moves into the paddocks, once the
state of the one before has left them; it runs once every die of it has started it. -/
def execBestEffortFrameStart (die : Nat) (s : State) : Host.Outcome State Fault Refusal :=
  .next (
    if (dieOf s die).beRun.isSome || !isDie s die || !movesDone s die (fun x => x.req == 12) then s
    else
      match waitsFor s die with
      | [] => s
      | f :: _ =>
        let s1 := modDie (stateIn s die f.ctx (.frame f.ctx f.num)) die (fun x => { x with beRun := some (f.ctx, f.num) })
        if (frameDies s1 f).all (runsOn s1 f) then
          modFrameAt s1 f.ctx f.num (fun g => { g with phase := .accepted })
        else s1)

end Sys2Proof.Machine
end

