-- ==== Sys2Proof/Machine/Debug.lean ====
section
/-!
DEFINITION. The test access port and the RISC-V debug interface (R507), and the board management port (R552, R553).
Conventions: log entry 23 (PRESUMED), log entry 55 (PRESUMED).
-/
namespace Sys2Proof.Machine

def modDbg (s : State) (f : Dbg → Dbg) : State := { s with dbg := f s.dbg }

/-- The debug interface is reached: the part runs, and the level grants the access (R507). -/
def dbgGrants (s : State) (level : Nat) : Bool := partOn s && decide (level ≤ s.sec.debug)

/-! ## IEEE 1149.1 -/

/-- The IDCODE of R507; the stepping digit of A0 is 0 (R51). -/
def idcodeVal (s : State) : Nat := (0x8800 + s.variant) * 2 ^ 12 + 0x05C * 2 + 1

/-- BYPASS: the one-bit bypass register captures 0. -/
def execBypass (s : State) : Host.Outcome State Fault Refusal :=
  .next (if partOn s then modDbg s (fun d => { d with ir := 0, dr := 0 }) else s)

/-- IDCODE. -/
def execIdcode (s : State) : Host.Outcome State Fault Refusal :=
  .next (if partOn s then modDbg s (fun d => { d with ir := 1, dr := idcodeVal s }) else s)

/-- SAMPLE/PRELOAD: the boundary register captures the pins, and its update stage takes what is shifted in. The spec gives neither
the register's order nor the row an operand, so both values are free (log entry 55). -/
def execSamplePreload (s : State) : Host.Outcome State Fault Refusal :=
  .next (if dbgGrants s 1 then
      let n := freeNat s
      let m := freeNat n.2
      modDbg m.2 (fun d => { d with ir := 2, dr := n.1, update := m.1 })
    else s)

/-- Level at the ball of an output whose boundary cell is `cell`: under EXTEST that of the update stage, else the functional one.
STOP_A, STOP_B and THERM_TRIP_N have cells that observe only (R507) and so no part in this. -/
def outputBall (s : State) (cell : Nat) (level : Bool) : Bool := if s.dbg.ir = 3 then bitOf s.dbg.update cell else level

/-- The balls PWR_REQ and CMP_EN; which cells are theirs the spec does not give. -/
def ballPwrReq (s : State) : Bool := outputBall s (Config.boundaryCell 0) s.pins.pwrReq
def ballCmpEn (s : State) : Bool := outputBall s (Config.boundaryCell 1) s.pins.cmpEn

/-- EXTEST: the boundary register captures the inputs, a free value, and the update stage drives the outputs; STOP_A, STOP_B and
THERM_TRIP_N keep their functional value. -/
def execExtest (s : State) : Host.Outcome State Fault Refusal :=
  .next (if dbgGrants s 2 then
      let n := freeNat s
      modDbg n.2 (fun d => { d with ir := 3, dr := n.1 })
    else s)

/-! ## RISC-V debug -/

/-- DEBUG_HALT: both lockstep cores halt together; their registers hold what the firmware left, which is free. -/
def execDebugHalt (s : State) : Host.Outcome State Fault Refusal :=
  .next (if dbgGrants s 2 && !s.dbg.halted then modDbg s (fun d => { d with halted := true, regs := [] }) else s)

/-- DEBUG_RESUME. -/
def execDebugResume (s : State) : Host.Outcome State Fault Refusal :=
  .next (if dbgGrants s 2 then modDbg s (fun d => { d with halted := false, regs := [] }) else s)

/-- Bytes of the hub's domain-0 memory: the firmware and data SRAM, target 1 of the hub (R448; log entry 55). -/
def hubMemBytes (s : State) : Nat := 64 * lineCount s 0 1

/-- Where an instruction of the firmware stores (log entry 23). -/
def debugStepAddr (s : State) : Nat := (freeNat s).1 % hubMemBytes s

/-- DEBUG_STEP: one instruction of the firmware retires; the spec does not give it, so every register is free after
it, and so is one byte of the hub's domain-0 memory, at a free address. -/
def execDebugStep (s : State) : Host.Outcome State Fault Refusal :=
  .next (if dbgGrants s 2 && s.dbg.halted then
      let b := freeBytes (freeNat s).2 1
      modDbg b.2 (fun d => { d with regs := [], hubMem := memWrite d.hubMem (debugStepAddr s) b.1 })
    else s)

/-- Abstract register number of x0, which reads 0 (PRESUMED, log entry 23). -/
def regX0 : Nat := 0x1000

/-- ABSTRACT_REGISTER_ACCESS on the halted cores. A register not accessed since the cores last ran holds a free
value. -/
def execAbstractRegisterAccess (reg : Nat) (write : Option (BitVec 64)) (s : State) : Host.Outcome State Fault Refusal :=
  .next (if dbgGrants s 2 && s.dbg.halted && decide (reg < 65536) then
      match write with
      | some v => if reg = regX0 then s else modDbg s (fun d => { d with regs := mapPut d.regs reg v.toNat })
      | none =>
        if reg = regX0 then modDbg s (fun d => { d with out := 0 })
        else match mapFind s.dbg.regs reg with
          | some v => modDbg s (fun d => { d with out := v })
          | none =>
            let n := freeNat s
            let v := n.1 % 2 ^ 64
            modDbg n.2 (fun d => { d with regs := mapPut d.regs reg v, out := v })
    else s)

/-- SYSTEM_BUS_ACCESS to domain-0 memory of the hub: reads from OBSERVE, writes at INTRUSIVE; nothing at an address beyond it. -/
def execSystemBusAccess (addr : Nat) (write : Option Byte) (s : State) : Host.Outcome State Fault Refusal :=
  .next (if hubMemBytes s ≤ addr then s else match write with
    | none => if dbgGrants s 1 then modDbg s (fun d => { d with out := (memGet d.hubMem addr).toNat }) else s
    | some v => if dbgGrants s 2 then modDbg s (fun d => { d with hubMem := memWrite d.hubMem addr [v] }) else s)

/-! ## Board management port -/

/-- The port answers: in every power state except OFF (R552). -/
def bmpOn (s : State) : Bool := partOn s && s.pwr.st != 0

def modBmp (s : State) (f : Bmp → Bmp) : State := { s with bmp := f s.bmp }

/-- BMP_FORCE_START: a write of 0xA5 to BMP_FORCE. -/
def execBmpForceStart (s : State) : Host.Outcome State Fault Refusal :=
  .next (if bmpOn s then modBmp s (fun b => { b with forced := true }) else s)

/-- BMP_FORCE_END: a write of 0x5A. -/
def execBmpForceEnd (s : State) : Host.Outcome State Fault Refusal :=
  .next (if bmpOn s then modBmp s (fun b => { b with forced := false }) else s)

/-- An address that can be assigned. -/
def dynOk (a : Nat) : Bool := decide (7 < a) && decide (a < 128) && a != 0x7E

/-- ENTDAA: the port takes a dynamic address if it has none. -/
def execEntdaa (addr : Nat) (s : State) : Host.Outcome State Fault Refusal :=
  .next (if bmpOn s && s.bmp.dyn.isNone && dynOk addr then modBmp s (fun b => { b with dyn := some addr }) else s)

/-- SETDASA: the same, for a port addressed by BMP_I3C_STATIC. -/
def execSetdasa (static addr : Nat) (s : State) : Host.Outcome State Fault Refusal :=
  .next (if bmpOn s && s.bmp.dyn.isNone && dynOk addr && static == cfgFld s rBmpCfg 0 6 0 then
      modBmp s (fun b => { b with dyn := some addr })
    else s)

/-- Toggling now, as BMP_STOP reports it. -/
def stopToggling (x : StopSt) : Bool := x.toggled && !x.dead

/-- The I3C register space (R552). -/
def bmpBytes (s : State) : List Byte :=
  let temp := fun d => if (dieOf s d).powered then (dieOf s d).therm.now else 0
  padTo 256 (leBytes 4 0x4C4E0880 ++ leBytes 1 s.variant ++ leBytes 1 (s.pwr.st + 128 * b2n s.pwr.changing) ++
    leBytes 1 s.boot.idBoot ++
    leBytes 1 (b2n (stopToggling s.zck.outA) + 2 * b2n (stopToggling s.zck.outB) + 4 * b2n s.bmp.forced +
      8 * b2n (forcedStop s)) ++
    (List.range 8).map (fun d => BitVec.ofNat 8 (temp d)) ++ leBytes 4 (s.log.next - 1) ++ leBytes 1 (b2n s.bmp.forced))

end Sys2Proof.Machine
end

