-- ==== Sys2Proof/Machine/HostPort.lean ====
section
/-!
DEFINITION. The host port (02): the aperture's layout, the identity page, reads, mode registers, the interface's
low-power states, training, and HINT_N.
Conventions: log entry 5 (DESIGN CHOICE), log entry 6 (DESIGN CHOICE), log entry 7 (DESIGN CHOICE), log entry 9
(DESIGN CHOICE), log entry 30 (DEDUCED), log entry 43 (DEDUCED), log entry 62 (DESIGN CHOICE), log entry 63 (DESIGN
CHOICE).
-/
namespace Sys2Proof.Machine

/-! ## The port -/

/-- The channel's port responds to commands (R45, R50, R53, R54). -/
def portLive (s : State) (ch : Nat) : Bool := chanRuns s ch && hubServes s 0x02

/-- Low-power state of a sub-channel's interface. -/
def lowOf (s : State) (ch sub : Nat) : PortPower := (chanOf s ch).low.getD sub .active

/-- Trained settings of a sub-channel. -/
def trainedOf (s : State) (ch sub : Nat) : Trained := (chanOf s ch).trained.getD sub {}

/-- A sub-channel responds and its interface is not in a low-power state (R46, R52). -/
def portReady (s : State) (ch sub : Nat) : Bool := portLive s ch && decide (sub < 2) && lowOf s ch sub == .active

/-- Counts a command ignored by R44. -/
def countUnsupported (s : State) (ch : Nat) : State :=
  modChan s ch (fun c => { c with unsupported := sat32 (c.unsupported + 1) })

/-- Offset of a burst: row, bank with group, column, sub-channel (R62). -/
def burstOff (row bank col sub : Nat) : Nat := row * 65536 + bank * 4096 + col * 64 + sub * 32

/-- Sub-channel, bank with group, and column of an offset (R62). -/
def subOfOff (off : Nat) : Nat := off / 32 % 2
def bankOfOff (off : Nat) : Nat := off / 4096 % 16
def colOfOff (off : Nat) : Nat := off / 64 % 64

def rowKey (sub bank : Nat) : Nat := sub * 16 + bank

/-- The offset an access of R62 decodes to, none with no open row. -/
def accessOff (c : Chan) (sub bank col : Nat) : Option Nat :=
  (mapFind c.rows (rowKey sub bank)).map (fun row => burstOff row bank col sub)

/-- The operands name a burst of the declared organisation (R62). -/
def burstOk (sub bank col : Nat) : Bool := sub < 2 && bank < 16 && col < 64

/-! ## Aperture layout (R57) -/

inductive Region where
  | identity
  | slots
  | ring
  | windows
  | ingest
  | unbacked
  deriving DecidableEq, Repr

def regionOf (off : Nat) : Region :=
  if off < 0x10000 then .identity
  else if 0x100000 ≤ off ∧ off < 0x300000 then .slots
  else if 0x300000 ≤ off ∧ off < 0x340000 then .ring
  else if 0x400000 ≤ off ∧ off < 0x580000 then .windows
  else if 0x580000 ≤ off ∧ off < 0x5B8000 then .ingest
  else .unbacked

/-- The aperture SRAM backs the offset (R57). -/
def backed (r : Region) : Bool := r != .identity && r != .unbacked

/-! ## The identity and status page (R58, R86) -/

/-- HPT_ID_PWR_STATE (R458). -/
def pwrStateByte (s : State) : Nat := s.pwr.st + 128 * b2n s.pwr.changing

/-- The bytes of a bit map over numbers 0 to 8n - 1. -/
def bitBytes (n : Nat) (p : Nat → Bool) : List Byte :=
  (List.range n).map (fun i => BitVec.ofNat 8 (maskOf 8 (fun j => p (i * 8 + j))))

/-- Page bytes 0x00 to 0x3F. -/
def idHead (s : State) (ch : Nat) : List Byte :=
  let c := chanOf s ch
  leBytes 4 0x4C4E0880 ++ leBytes 2 1 ++ leBytes 1 s.variant ++ leBytes 1 0x10 ++ leBytes 1 (nDies s) ++
    leBytes 1 (b2n s.pins.sampledSingle) ++ leBytes 1 ch ++ leBytes 1 (cfgGet s rHptCfg ch) ++ leBytes 4 c.rate ++
    leBytes 1 s.boot.idBoot ++ leBytes 1 (pwrStateByte s) ++ leBytes 14 0 ++ leBytes 4 c.unbacked ++
    leBytes 4 c.roWrites ++ leBytes 4 c.unsupported ++ leBytes 4 c.latencyErr ++ leBytes 4 c.sramUe ++ leBytes 12 0

/-- Page bytes 0x100 to 0x17F. -/
def idMailbox (s : State) (ch : Nat) : List Byte :=
  let c := chanOf s ch
  padTo 128 (leBytes 4 c.prod ++ leBytes 4 c.cons ++ leBytes 2 c.inflight.length ++ leBytes 2 (ringReserved s ch) ++
    leBytes 4 c.lost ++ leBytes 4 c.refused ++ leBytes 4 c.busySeals ++ leBytes 4 c.consumerInvalid ++
    leBytes 4 s.txn.id ++ leBytes 1 s.txn.st)

/-- Page bytes 0x180 to 0x1AF. -/
def idPages (s : State) (ch : Nat) : List Byte :=
  bitBytes 48 (fun n => (mapFind (chanOf s ch).pages n).isSome)

/-- Page bytes 0x400 to 0x7FF of MBX_SLOT_BUSY_MAP, from byte `i` on. -/
def idBusy (s : State) (ch i : Nat) : List Byte :=
  bitBytes 32 (fun n => slotBusy s (ch * 8192 + i * 8 + n))

/-- A 32-byte unit of the page, by its offset. -/
def idUnit (s : State) (ch off : Nat) : List Byte :=
  padTo 32 (if off < 0x40 then (idHead s ch).drop off
    else if 0x100 ≤ off ∧ off < 0x180 then (idMailbox s ch).drop (off - 0x100)
    else if 0x180 ≤ off ∧ off < 0x1B0 then (idPages s ch).drop (off - 0x180)
    else if 0x400 ≤ off ∧ off < 0x800 then idBusy s ch (off - 0x400)
    else [])

/-! ## Reads (R59, R63, R65) -/

/-- The data of a unit without an SRAM error. -/
def unitData (s : State) (ch off : Nat) : List Byte :=
  match regionOf off with
  | .identity => idUnit s ch off
  | .unbacked => leBytes 32 0
  | _ => memRead (chanOf s ch).mem off 32

/-- Metadata the device generates for data (R63). -/
def genMeta (s : State) (ch : Nat) (d : List Byte) : BitVec 32 :=
  if cfgFld s rHptCfg ch 0 0 = 1 then rsMeta d else 0

/-- The metadata of a unit read: stored for a host-written unit, generated otherwise; inverted at an uncorrectable
error, for a device-written unit in mode 1 only (R63, R65). -/
def unitMeta (s : State) (ch off : Nat) (ue : Bool) (d : List Byte) : BitVec 32 :=
  match mapFind (chanOf s ch).hostMeta (off / 32) with
  | some m => if ue then ~~~ m else m
  | none => if ue ∧ cfgFld s rHptCfg ch 0 0 = 1 then ~~~ (rsMeta d) else genMeta s ch d

/-- Counts and reports latency codes that have come to lie below the minimum since their last write (R47). -/
def reportLatency (s : State) (ch : Nat) : State :=
  let c := chanOf s ch
  let fresh := c.lowLat.filter (fun r => !c.lowRep.contains r)
  let s1 := modChan s ch (fun c =>
    { c with latencyErr := sat32 (c.latencyErr + fresh.length), lowRep := c.lowRep ++ fresh })
  raise s1 (fresh.map (fun _ => { code := 0x0202, die := 0, loc := ch }))

/-- A latency code of the sub-channel lies below the minimum (R47). -/
def latencyLow (s : State) (ch sub : Nat) : Bool := (chanOf s ch).lowLat.any (fun k => k / 256 == sub)

/-- A burst read of an offset: the port's outputs, and R65's reaction to an uncorrectable error. At a latency code
below the minimum the data is undefined: free bytes (R47). -/
def portRead (s : State) (ch off : Nat) (ue : Bool) (asRead : List Byte) : State :=
  let bad := ue && backed (regionOf off)
  let d := if bad then padTo 32 asRead else unitData s ch off
  let m := unitMeta s ch off bad d
  let s1 := reportLatency s ch
  let s2 := if latencyLow s1 ch (subOfOff off) = false then modChan s1 ch (fun c => { c with rdData := d, rdMeta := m })
    else
      let r := freeBytes s1 36
      modChan r.2 ch (fun c => { c with rdData := r.1.take 32, rdMeta := BitVec.ofNat 32 (leNat (r.1.drop 32)) })
  if bad then
    raise (cntAdd (modChan s2 ch (fun c => { c with sramUe := sat32 (c.sramUe + 1) })) rMgpSramCnt 2 1)
      [{ code := 0x0203, die := 0, loc := ch, detail := leBytes 4 off }]
  else s2

/-- HOST_READ (R59 to R65). -/
def execHostRead (ch sub bank col : Nat) (ue : Bool) (asRead : List Byte) (s : State) :
    Host.Outcome State Fault Refusal :=
  .next (if portReady s ch sub && burstOk sub bank col then
      match accessOff (chanOf s ch) sub bank col with
      | none => countUnsupported s ch
      | some off => portRead s ch off ue asRead
    else s)

/-! ## Activate, precharge, refresh (R44, R52, R62) -/

/-- ACTIVATE opens a row (R62). -/
def execActivate (ch sub bank row : Nat) (s : State) : Host.Outcome State Fault Refusal :=
  .next (if portReady s ch sub && burstOk sub bank 0 && decide (row < 32768) then
      modChan s ch (fun c => { c with rows := mapPut c.rows (rowKey sub bank) row })
    else s)

/-- PRECHARGE closes a bank's row, or those of all banks of the sub-channel (R62). -/
def execPrecharge (ch sub : Nat) (bank : Option Nat) (s : State) : Host.Outcome State Fault Refusal :=
  .next (if portReady s ch sub && burstOk sub (bank.getD 0) 0 then
      modChan s ch (fun c => { c with rows := match bank with
        | some b => mapDel c.rows (rowKey sub b)
        | none => c.rows.filter (fun e => e.1 / 16 != sub) })
    else s)

/-- REFRESH: accepted, no effect (R52). -/
def execRefresh (_ch : SubCh) (s : State) : Host.Outcome State Fault Refusal := .next s

/-! ## Power-down and self-refresh (R52) -/

/-- Moves a sub-channel's interface between two states. -/
def portLow (s : State) (ch sub : Nat) (a b : PortPower) : State :=
  if portLive s ch && decide (sub < 2) && lowOf s ch sub == a then
    modChan s ch (fun c => { c with low := updAt c.low sub (fun _ => b) })
  else s

def execPowerDownEntry (p : SubCh) (s : State) : Host.Outcome State Fault Refusal :=
  .next (portLow s p.ch p.sub .active .powerDown)

def execPowerDownExit (p : SubCh) (s : State) : Host.Outcome State Fault Refusal :=
  .next (portLow s p.ch p.sub .powerDown .active)

def execSelfRefreshEntry (p : SubCh) (s : State) : Host.Outcome State Fault Refusal :=
  .next (portLow s p.ch p.sub .active .selfRefresh)

def execSelfRefreshExit (p : SubCh) (s : State) : Host.Outcome State Fault Refusal :=
  .next (portLow s p.ch p.sub .selfRefresh .active)

/-! ## Mode registers (R51) and training (R44, R50) -/

/-- Registers whose class the spec fixes as read-only. -/
def modeFixed (mr : Nat) : Bool := 4 ≤ mr && mr ≤ 8

/-- Class of a mode register: 1 latency, 2 electrical, 3 training, otherwise read-only. -/
def modeClassOf (mr : Nat) : Nat := if modeFixed mr then 0 else Config.modeClass mr

def modeWritable (mr : Nat) : Bool := 1 ≤ modeClassOf mr && modeClassOf mr ≤ 3

/-- Key of a sub-channel's mode register. -/
def mrKey (sub mr : Nat) : Nat := sub * 256 + mr

/-- Value of a writable mode register: as last written; a latency register starts at the lowest bin. The spec gives the
electrical and training registers no reset value: the model reads 0 (log entry 62, DESIGN CHOICE). -/
def modeStored (c : Chan) (sub mr : Nat) : Byte :=
  (mapFind c.mr (mrKey sub mr)).getD (if modeClassOf mr = 1 then Config.lowestBin mr else 0)

/-- Value of a mode register (R51). -/
def modeValue (s : State) (ch sub mr : Nat) : Byte :=
  if mr = 4 then Config.modeReg4
  else if mr = 5 then 0x5C
  else if mr = 6 then 0x10
  else if mr = 7 then BitVec.ofNat 8 s.variant
  else if mr = 8 then Config.modeReg8
  else if modeWritable mr then modeStored (chanOf s ch) sub mr
  else 0

/-- MODE_REGISTER_READ. -/
def execModeRegisterRead (p : SubCh) (mr : Nat) (s : State) : Host.Outcome State Fault Refusal :=
  .next (if portReady s p.ch p.sub then modChan s p.ch (fun c => { c with mrOut := modeValue s p.ch p.sub mr }) else s)

/-- A write of a writable mode register; a low latency code is applied, counted and reported once (R47). -/
def modeStore (s : State) (ch sub mr : Nat) (value : Byte) (low : Bool) : State :=
  let isLow := low && modeClassOf mr == 1
  let k := mrKey sub mr
  let s1 := modChan s ch (fun c =>
    { c with mr := mapPut c.mr k value,
             lowLat := if isLow then c.lowLat.filter (· != k) ++ [k] else c.lowLat.filter (· != k),
             lowRep := c.lowRep.filter (· != k) })
  if isLow then reportLatency s1 ch else s1

/-- MODE_REGISTER_WRITE: applied, or ignored and counted for a read-only register. -/
def execModeRegisterWrite (p : SubCh) (mr : Nat) (value : BitVec 8) (latencyLow : Bool) (s : State) :
    Host.Outcome State Fault Refusal :=
  .next (if portReady s p.ch p.sub then
      if modeWritable mr then modeStore s p.ch p.sub mr value latencyLow
      else modChan s p.ch (fun c => { c with roWrites := sat32 (c.roWrites + 1) })
    else s)

/-- A training command sets its trained setting. -/
def train (s : State) (ch sub : Nat) (f : Trained → Trained) : State :=
  if portReady s ch sub then modChan s ch (fun c => { c with trained := updAt c.trained sub f }) else s

def execCommandBusTraining (p : SubCh) (s : State) : Host.Outcome State Fault Refusal :=
  .next (train s p.ch p.sub (fun t => { t with cbt := true }))

def execClockToWriteClockLevelling (p : SubCh) (s : State) : Host.Outcome State Fault Refusal :=
  .next (train s p.ch p.sub (fun t => { t with wck := true }))

/-- READ_CALIBRATION returns a pattern register. -/
def execReadCalibration (p : SubCh) (mr : Nat) (s : State) : Host.Outcome State Fault Refusal :=
  .next (if portReady s p.ch p.sub then
      modChan (train s p.ch p.sub (fun t => { t with rd := true })) p.ch (fun c => { c with mrOut := modeValue s p.ch p.sub mr })
    else s)

def execWriteDataTraining (p : SubCh) (s : State) : Host.Outcome State Fault Refusal :=
  .next (train s p.ch p.sub (fun t => { t with wr := true }))

def execZqCalibrationStart (p : SubCh) (s : State) : Host.Outcome State Fault Refusal :=
  .next (train s p.ch p.sub (fun t => { t with zqStarted := true, zqLatched := false }))

/-- ZQ_CALIBRATION_LATCH latches a calibration that was started. -/
def execZqCalibrationLatch (p : SubCh) (s : State) : Host.Outcome State Fault Refusal :=
  .next (train s p.ch p.sub (fun t => { t with zqLatched := t.zqStarted }))

/-- UNSUPPORTED_COMMAND: ignored and counted (R44). -/
def execUnsupportedCommand (p : SubCh) (s : State) : Host.Outcome State Fault Refusal :=
  .next (if portReady s p.ch p.sub then countUnsupported s p.ch else s)

/-! ## Data rate (R45, R69) and HINT_N (R66) -/

/-- Writes the out-of-range event of a channel once a ring can take it (R69, R85). -/
def flushRateEvent (s : State) (ch : Nat) : State :=
  let e : Ev := { code := 0x0201, die := 0, loc := ch }
  if (chanOf s ch).rateEvent then
    match eventChan s e with
    | none => s
    | some k =>
      let d := ((s.log.recs.reverse.find? (fun r => r.code == 0x0201 && r.whr == ch)).map (·.detail)).getD []
      looseP (modChan s ch (fun c => { c with rateEvent := false })) k ⟨3, 0, 0x0201, ch, 0, d⟩
  else s

/-- The port begins to answer: at a rate outside the range it does not respond, and the event is raised (R45, R50). -/
def portComesUp (s : State) : State :=
  raise s (((List.range 2).filter (fun ch => chanExists s ch && !rateOk (chanOf s ch).rate)).map
    (fun ch => { code := 0x0201, die := 0, loc := ch }))

/-- HOST_RATE_CHANGE: the measured rate; the event when it leaves the range (R45). -/
def execHostRateChange (ch rate : Nat) (low : List Nat) (s : State) : Host.Outcome State Fault Refusal :=
  .next (if chanExists s ch && decide (ch < 2) then
      let was := portLive s ch
      let s1 := modChan s ch (fun c =>
        { c with rate := rate, lowLat := low.filter (fun k => decide (k < 512) && modeClassOf (k % 256) == 1) })
      let s2 := if was && !rateOk rate then raise s1 [{ code := 0x0201, die := 0, loc := ch }] else s1
      flushRateEvent (flushRateEvent s2 0) 1
    else s)

/-- HINT_HOLDOFF_EXPIRY: HINT_N follows R66 at the instant the holdoff has passed. -/
def execHintHoldoffExpiry (s : State) : Host.Outcome State Fault Refusal := .next (hintUpdate s)

end Sys2Proof.Machine
end

