-- ==== Sys2Proof/Machine/Net.lean ====
section
/-!
DEFINITION. Ethernet frames: tags, IPv4, IPv6 and UDP headers as R142 checks them, and the frames a lane sends (R141,
R145, R170). The layouts are those of the standards the spec names (log entry 24).
Conventions: log entry 24 (PRESUMED), log entry 86 (DESIGN CHOICE).
-/
namespace Sys2Proof.Machine

/-- Big-endian field of a frame. -/
def be (l : List Byte) (off n : Nat) : Nat := beNat (slice l off n)

/-! ## Internet checksum -/

/-- One's-complement sum of 16-bit words, not folded; an odd last byte is the high half of a word. -/
def sum16 : List Byte → Nat
  | [] => 0
  | [a] => a.toNat * 256
  | a :: b :: l => a.toNat * 256 + b.toNat + sum16 l

/-- Folds a sum to 16 bits with end-around carry. -/
def fold16 (n : Nat) : Nat := if n = 0 then 0 else (n - 1) % 65535 + 1

/-- Internet checksum of a byte sequence. -/
def checksum (l : List Byte) : Nat := 65535 - fold16 (sum16 l)

/-- A sequence that includes its checksum is correct. -/
def sumOk (l : List Byte) : Bool := fold16 (sum16 l) == 65535

/-! ## Tags (R139) -/

/-- The MAC accepts the frame's tags: none, one of 0x8100, or 0x88A8 with an inner 0x8100. Whether a frame with two tags of 0x8100, or
with 0x8100 before 0x88A8, is dropped the spec does not say: the model takes it as one tag and an EtherType no parser knows
(log entry 86, DESIGN CHOICE). -/
def tagsOk (b : List Byte) : Bool := be b 12 2 != 0x88A8 || be b 16 2 == 0x8100

/-- Offset of the EtherType after the tags. -/
def typeOff (b : List Byte) : Nat :=
  if be b 12 2 = 0x8100 then 16 else if be b 12 2 = 0x88A8 then 20 else 12

/-- VLAN identifier of the innermost tag, none for an untagged frame. -/
def vlanOf (b : List Byte) : Option Nat :=
  if typeOff b = 12 then none else some (be b (typeOff b - 2) 2 % 4096)

def etherType (b : List Byte) : Nat := be b (typeOff b) 2

/-- The frame's payload, from after the EtherType to before the FCS. -/
def netBody (b : List Byte) : List Byte := (b.take (b.length - 4)).drop (typeOff b + 2)

/-! ## IP and UDP (R142) -/

/-- A UDP datagram as parsed: IP version (4 or 6), addresses, ports, payload. -/
structure Udp where
  ip : Nat
  src : List Byte
  dst : List Byte
  sport : Nat
  dport : Nat
  payload : List Byte
  deriving DecidableEq, Repr

/-- What R142 makes of a frame. -/
inductive Parsed where
  | bad
  | other
  | udp (u : Udp)
  deriving DecidableEq, Repr

/-- UDP within an IP payload; `pseudo` is the pseudo-header without the length. -/
def parseUdp (ip : Nat) (src dst d : List Byte) : Parsed :=
  let len := be d 4 2
  let sum := be d 6 2
  let pseudo := src ++ dst ++ beBytes 4 len ++ [0, 0, 0, 17]
  if len < 8 ∨ d.length < len then .bad
  else if sum = 0 then (if ip = 4 then .udp ⟨4, src, dst, be d 0 2, be d 2 2, (d.take len).drop 8⟩ else .bad)
  else if sumOk (pseudo ++ d.take len) then .udp ⟨ip, src, dst, be d 0 2, be d 2 2, (d.take len).drop 8⟩
  else .bad

/-- An IPv4 packet. -/
def parse4 (d : List Byte) : Parsed :=
  let ihl := byteAt d 0 % 16
  let total := be d 2 2
  if byteAt d 0 / 16 ≠ 4 ∨ ihl < 5 ∨ d.length < total ∨ total < ihl * 4 ∨ sumOk (d.take (ihl * 4)) = false then .bad
  else if be d 6 2 % 16384 ≠ 0 ∨ byteAt d 9 ≠ 17 then .other
  else parseUdp 4 (slice d 12 4) (slice d 16 4) ((d.take total).drop (ihl * 4))

/-- An IPv6 packet; only UDP directly after the fixed header is steered. -/
def parse6 (d : List Byte) : Parsed :=
  if byteAt d 0 / 16 ≠ 6 ∨ byteAt d 6 ≠ 17 then .other
  else parseUdp 6 (slice d 8 16) (slice d 24 16) ((d.drop 40).take (be d 4 2))

/-- A frame as R142 parses it. -/
def parseFrame (b : List Byte) : Parsed :=
  if etherType b = 0x0800 then parse4 (netBody b)
  else if etherType b = 0x86DD then parse6 (netBody b)
  else .other

/-! ## Frames a lane sends -/

/-- A frame from its destination address through the FCS, padded to 64 bytes. -/
def ethFrame (dst src : List Byte) (etype : Nat) (body : List Byte) : List Byte :=
  let h := dst ++ src ++ beBytes 2 etype ++ body
  let p := h ++ List.replicate (60 - h.length) 0
  p ++ leBytes 4 (crc32 p)

/-- An IPv4 header of 20 bytes. -/
def ipv4Head (tos id ttl proto : Nat) (src dst : List Byte) (len : Nat) : List Byte :=
  let a := [0x45, BitVec.ofNat 8 tos] ++ beBytes 2 (20 + len) ++ beBytes 2 id ++ [0, 0] ++
    [BitVec.ofNat 8 ttl, BitVec.ofNat 8 proto]
  a ++ beBytes 2 (checksum (a ++ src ++ dst)) ++ src ++ dst

/-- An IPv6 header. -/
def ipv6Head (tc next hop : Nat) (src dst : List Byte) (len : Nat) : List Byte :=
  [BitVec.ofNat 8 (0x60 + tc / 16), BitVec.ofNat 8 (tc % 16 * 16), 0, 0] ++ beBytes 2 len ++
    [BitVec.ofNat 8 next, BitVec.ofNat 8 hop] ++ src ++ dst

/-- A UDP datagram with its checksum; a sum of 0 is sent as 0xFFFF. -/
def udpData (src dst : List Byte) (sport dport : Nat) (payload : List Byte) : List Byte :=
  let len := 8 + payload.length
  let head := beBytes 2 sport ++ beBytes 2 dport ++ beBytes 2 len
  let c := checksum (src ++ dst ++ beBytes 4 len ++ [0, 0, 0, 17] ++ head ++ payload)
  head ++ beBytes 2 (if c = 0 then 65535 else c) ++ payload

/-! ## A lane's addresses (R145) -/

/-- The lane's MAC address, first octet on the wire first. -/
def macOf (s : State) (l : Nat) : List Byte := beBytes 6 (cfgFld s rPdeLaneCfg l 63 16)

/-- The lane's IPv4 address. -/
def ip4Of (s : State) (l : Nat) : List Byte := beBytes 4 (cfgFld s rPdeIp4 l 31 0)

/-- EUI-64 identifier of a MAC address. -/
def eui64 (m : List Byte) : List Byte := m.take 3 ++ [0xFF, 0xFE] ++ m.drop 3

/-- The lane's link-local IPv6 address. -/
def linkLocal (s : State) (l : Nat) : List Byte :=
  [0xFE, 0x80, 0, 0, 0, 0, 0, 0] ++ updAt (eui64 (macOf s l)) 0 (· ^^^ 0x02)

end Sys2Proof.Machine
end

