-- ==== Sys2Proof/Machine/Ingest.lean ====
section
/-!
DEFINITION. Ethernet lanes, receive steering, the firmware queue with its replies, STEER_SET, and the host ingest
windows (R138 to R146, R161 to R163, R173, R176).
Conventions: log entry 24 (PRESUMED), log entry 46 (DEDUCED), log entry 86 (DESIGN CHOICE).
-/
namespace Sys2Proof.Machine

def modLane (s : State) (l : Nat) (f : Lane → Lane) : State := { s with lanes := updAt s.lanes l f }

def laneCnt (s : State) (l n : Nat) : State := cntAdd s rPdeLaneCnt (l * 8 + n) 1

/-- PDE_LANE_EN. -/
def laneEnabled (s : State) (l : Nat) : Bool := l < 16 && cfgFld s rPdeLaneCfg l 15 15 == 1

/-! ## Lock (R173, R176) -/

/-- LANE_LOCK_GAINED: an enabled lane gains lock; the lanes run from STANDBY on (R458). -/
def execLaneLockGained (lane : Nat) (s : State) : Host.Outcome State Fault Refusal :=
  .next (if laneEnabled s lane && partOn s && decide (2 ≤ s.pwr.st) && !(laneOf s lane).locked then
      modLane s lane (fun l => { l with locked := true, lockRaw := s.raw })
    else s)

/-- LANE_LOCK_TIMER: lock held for 10 ms. -/
def execLaneLockTimer (lane : Nat) (s : State) : Host.Outcome State Fault Refusal :=
  .next (
    let l := laneOf s lane
    if l.locked && !l.up && decide (l.lockRaw + 10000000 ≤ s.raw) then
      raise (modLane s lane (fun l => { l with up := true })) [{ code := 0x0581, die := 0, loc := lane }]
    else s)

/-- LANE_LOCK_LOST. -/
def execLaneLockLost (lane : Nat) (s : State) : Host.Outcome State Fault Refusal :=
  .next (if (laneOf s lane).locked then
      let r := laneDown s lane
      raise r.1 r.2
    else s)

/-- REMOTE_FAULT_RECEIVED: a lane that is enabled starts or stops receiving remote fault. -/
def execRemoteFaultReceived (lane : Nat) (present : Bool) (s : State) : Host.Outcome State Fault Refusal :=
  .next (if laneEnabled s lane && partOn s then modLane s lane (fun l => { l with remoteFault := present }) else s)

/-! ## Reception (R139, R140) -/

/-- The MAC accepts the frame's destination and tags, and it is no MAC control frame. -/
def macAccepts (s : State) (l : Nat) (b : List Byte) : Bool :=
  decide (64 ≤ b.length) && (bitOf (byteAt b 0) 0 || b.take 6 == macOf s l) && tagsOk b && be b 12 2 != 0x8808

/-- Bytes in a lane's receive buffer. -/
def rxBytes (s : State) (l : Nat) : Nat := ((laneOf s l).rx.map (fun f => f.bytes.length)).sum

/-- A received frame: too long, with an error, or buffered if accepted and if it fits. -/
def receiveFrame (s : State) (l : Nat) (b : List Byte) (pcsError : Bool) : State :=
  if 9216 < b.length then laneCnt s l 7
  else if pcsError ∨ b.length < 4 ∨ crc32 (b.take (b.length - 4)) ≠ leNat (b.drop (b.length - 4)) then laneCnt s l 1
  else
    let s1 := laneCnt s l 0
    if macAccepts s1 l b then
      if rxBytes s1 l + b.length ≤ 65536 then
        modLane s1 l (fun x => { x with rx := x.rx ++ [⟨l, b, now s⟩] })
      else laneCnt s1 l 2
    else s1

/-- ETHERNET_FRAME_RECEIVED, on a lane that holds lock. -/
def execEthernetFrameReceived (lane : Nat) (frame : List Byte) (pcsError : Bool) (s : State) :
    Host.Outcome State Fault Refusal :=
  .next (if (laneOf s lane).locked then receiveFrame s lane frame pcsError else s)

/-! ## What the firmware answers or processes (R145, R169) -/

/-- An ARP request for the lane's address. -/
def isArp (s : State) (f : RxFrame) : Bool :=
  let d := netBody f.bytes
  etherType f.bytes == 0x0806 && be d 0 2 == 1 && be d 2 2 == 0x0800 && byteAt d 4 == 6 && byteAt d 5 == 4 &&
    be d 6 2 == 1 && decide (28 ≤ d.length) && cfgFld s rPdeIp4 f.lane 31 0 != 0 && slice d 24 4 == ip4Of s f.lane

/-- A neighbour solicitation for the lane's link-local address, with a correct checksum. -/
def isSolicit (s : State) (f : RxFrame) : Bool :=
  let d := netBody f.bytes
  let len := be d 4 2
  let m := (d.drop 40).take len
  etherType f.bytes == 0x86DD && byteAt d 0 / 16 == 6 && byteAt d 6 == 58 && byteAt d 7 == 255 &&
    decide (24 ≤ m.length) && byteAt m 0 == 135 && byteAt m 1 == 0 && slice m 8 16 == linkLocal s f.lane &&
    sumOk (slice d 8 32 ++ beBytes 4 len ++ [0, 0, 0, 58] ++ m)

def ptpLane (s : State) : Nat := cfgFld s rTmuCfg 0 23 20
def ptpTransport (s : State) : Nat := cfgFld s rTmuCfg 0 19 18

/-- The PTP message a frame carries, none where R169 ignores it: another lane, transport, domain, version or
address, or a source of time that is the host. -/
def ptpMessage (s : State) (f : RxFrame) : Option (List Byte) :=
  let good := fun (m : List Byte) =>
    decide (34 ≤ m.length) && byteAt m 1 % 16 == 2 && byteAt m 4 == cfgFld s rTmuCfg 0 30 24
  if cfgFld s rTmuCfg 0 31 31 ≠ 1 ∨ f.lane ≠ ptpLane s then none
  else if etherType f.bytes = 0x88F7 then
    (if ptpTransport s = 2 ∧ good (netBody f.bytes) = true then some (netBody f.bytes) else none)
  else match parseFrame f.bytes with
    | .udp u =>
      let port := u.dport == 319 || u.dport == 320
      let here := if u.ip = 4 then ptpTransport s == 0 && cfgFld s rPdeIp4 f.lane 31 0 != 0 &&
          (byteAt u.dst 0 / 16 == 14 || u.dst == ip4Of s f.lane)
        else ptpTransport s == 1 && (byteAt u.dst 0 == 255 || u.dst == linkLocal s f.lane)
      if port && here && good u.payload then some u.payload else none
    | _ => none

/-- Message type of a PTP message. -/
def ptpType (m : List Byte) : Nat := byteAt m 0 % 16

/-- A frame the firmware does anything with; every other frame it discards. -/
def fwHandles (s : State) (f : RxFrame) : Bool :=
  isArp s f || isSolicit s f ||
    (match ptpMessage s f with
     | some m => [0, 8, 9, 11].contains (ptpType m)
     | none => false)

/-- The firmware discards the frames at the head of its queue that it has no use for. -/
def discardOthers (s : State) : State := { s with fwq := s.fwq.dropWhile (fun f => !fwHandles s f) }

/-- A frame for the firmware enters the queue of 256 (R145). -/
def toFirmware (s : State) (f : RxFrame) : State :=
  let s1 := discardOthers s
  if s1.fwq.length < 256 then discardOthers { laneCnt s1 f.lane 4 with fwq := s1.fwq ++ [f] }
  else laneCnt s1 f.lane 5

/-- The head of the firmware queue after the frames of no use. -/
def fwHead (s : State) : Option RxFrame := (discardOthers s).fwq.head?

/-- Takes the head. -/
def fwTake (s : State) : State :=
  let s1 := discardOthers s
  discardOthers { s1 with fwq := s1.fwq.drop 1 }

/-- A frame queued behind the verdict frames of a lane that is up (R141, R417). -/
def sendFrame (s : State) (l : Nat) (b : List Byte) : State :=
  if (laneOf s l).up then modLane s l (fun x => { x with tx := x.tx ++ [⟨none, b⟩] }) else s

/-- The ARP reply (log entry 24). -/
def arpReply (s : State) (f : RxFrame) : List Byte :=
  let d := netBody f.bytes
  ethFrame (slice d 8 6) (macOf s f.lane) 0x0806
    ([0, 1, 8, 0, 6, 4, 0, 2] ++ macOf s f.lane ++ ip4Of s f.lane ++ slice d 8 6 ++ slice d 14 4)

/-- ARP_REQUEST: the head of the queue is an ARP request for the lane's address. -/
def execArpRequest (s : State) : Host.Outcome State Fault Refusal :=
  .next (
    match fwHead s with
    | some f => if isArp s f then sendFrame (fwTake s) f.lane (arpReply s f) else s
    | none => s)

/-- The neighbour advertisement: to the sender, or to all nodes where the sender has no address yet. -/
def advertisement (s : State) (f : RxFrame) : List Byte :=
  let d := netBody f.bytes
  let me := linkLocal s f.lane
  let anon := allZero (slice d 8 16)
  let dst := if anon then [0xFF, 2, 0, 0, 0, 0, 0, 0, 0, 0, 0, 0, 0, 0, 0, 1] else slice d 8 16
  let mac := if anon then [0x33, 0x33, 0, 0, 0, 1] else slice f.bytes 6 6
  let a := [136, 0]
  let b := [if anon then 0x20 else 0x60, 0, 0, 0] ++ me ++ [2, 1] ++ macOf s f.lane
  let c := checksum (me ++ dst ++ [0, 0, 0, 32, 0, 0, 0, 58] ++ a ++ b)
  ethFrame mac (macOf s f.lane) 0x86DD (ipv6Head 0 58 255 me dst 32 ++ a ++ beBytes 2 c ++ b)

/-- NEIGHBOUR_SOLICITATION. -/
def execNeighbourSolicitation (s : State) : Host.Outcome State Fault Refusal :=
  .next (
    match fwHead s with
    | some f => if isSolicit s f then sendFrame (fwTake s) f.lane (advertisement s f) else s
    | none => s)

/-! ## Steering (R142 to R144, R150) -/

/-- The leading `n` bits of two addresses are equal. -/
def leadEq (n : Nat) (a b : List Byte) : Bool :=
  let k := 8 * a.length
  beNat a / 2 ^ (k - n) == beNat (b.take a.length) / 2 ^ (k - n)

def vlanMatches (e : Steer) (v : Option Nat) : Bool :=
  e.vlan == 0xFFFF ||
    (match v with
     | none => e.vlan == 0xFFFE
     | some n => e.vlan == n)

/-- A steering entry matches a datagram (R144). -/
def steerMatches (e : Steer) (lane : Nat) (v : Option Nat) (u : Udp) : Bool :=
  ((e.kind == 1 && u.ip == 4) || (e.kind == 2 && u.ip == 6)) && bitOf e.mask lane && e.dport == u.dport &&
    (e.sport == 0 || e.sport == u.sport) && vlanMatches e v && leadEq e.plen u.src e.addr

/-- A steered packet starts decode, or is dropped whole by R150. -/
def startDecode (s : State) (lane : Nat) (k : Nat) (e : Steer) (u : Udp) (arrival : Nat) : State :=
  let d := (mapFind s.decs e.desc).getD []
  let s1 := laneCnt s lane 3
  if payloadOk d u.payload.length then
    modLane (cntAdd s1 rPdeSensorCnt (k * 8) 1) lane (fun l => { l with dec := some ⟨k, d, e.ctxs, u.payload, 0, arrival⟩ })
  else cntAdd s1 rPdeSensorCnt (k * 8 + 1) 1

/-- What becomes of a frame at the head of a lane's buffer. -/
def steerFrame (s : State) (lane : Nat) (f : RxFrame) : State :=
  match parseFrame f.bytes with
  | .bad => laneCnt s lane 6
  | .other => toFirmware s f
  | .udp u =>
    if u.dport = 319 ∨ u.dport = 320 then toFirmware s f
    else match s.steer.find? (fun e => steerMatches e.2 lane (vlanOf f.bytes) u) with
      | some e => startDecode s lane e.1 e.2 u f.arrival
      | none => toFirmware s f

/-- PACKET_STEER: the oldest frame of a lane's buffer, once no packet is in decode on the lane. -/
def execPacketSteer (lane : Nat) (s : State) : Host.Outcome State Fault Refusal :=
  .next (
    match (laneOf s lane).dec, if hubServes s 0x05 then (laneOf s lane).rx else [] with
    | none, f :: l => steerFrame (modLane s lane (fun x => { x with rx := l })) lane f
    | _, _ => s)

/-! ## STEER_SET (R143, R146) -/

/-- The context numbers of the operands. -/
def steerCtxs (b : List Byte) : List Nat := (List.range (byteAt b 29)).map (fun i => u16 b (48 + 2 * i))

def noRepeats : List Nat → Bool
  | [] => true
  | a :: l => !l.contains a && noRepeats l

/-- Prefix length in range for its kind. -/
def plenOk (kind n : Nat) : Bool := n ≤ (if kind = 1 then 32 else if kind = 2 then 128 else 0)

/-- The checks of R146 that come first. -/
def steerOk (s : State) (b : List Byte) : Bool :=
  let kind := byteAt b 18
  decide (u16 b 16 ≤ 255) && decide (kind ≤ 3) && (kind != 0 || allZero (slice b 19 157)) && plenOk kind (byteAt b 19) &&
    (decide (u16 b 26 ≤ 4094) || u16 b 26 == 0xFFFE || u16 b 26 == 0xFFFF) && decide (byteAt b 28 ≤ 63) &&
    decide (byteAt b 29 ≤ 64) && allZero (slice b (48 + 2 * byteAt b 29) (128 - 2 * byteAt b 29)) &&
    (kind != 3 || (decide (u16 b 20 < 16384) && u16 b 22 == 0 && byteAt b 28 == 0 && allZero (slice b 32 16) &&
      (chanExists s 1 || decide (u16 b 20 < 128)))) &&
    (!(kind == 1 || kind == 2) || (mapFind s.decs (byteAt b 28)).isSome) && noRepeats (steerCtxs b)

/-- The entry of the operands. -/
def steerEntry (b : List Byte) : Steer :=
  { kind := byteAt b 18, plen := byteAt b 19, mask := u16 b 20, dport := u16 b 22, sport := u16 b 24, vlan := u16 b 26,
    desc := byteAt b 28, ctxs := steerCtxs b, addr := slice b 32 16 }

def steerSetCmd (c : Cmd) (s : State) : State × CmdRes :=
  let b := c.bytes
  if steerOk s b = false then fail s 0x0502
  else if (steerCtxs b).any (fun x => (ctxOf s x).isNone) then fail s 0x040D
  else
    let e := steerEntry b
    let k := u16 b 16
    let l := if e.kind = 0 then mapDel s.steer k else mapPut s.steer k e
    let s1 := { s with steer := l }
    let s2 := if e.kind = 0 then modSensor s1 k (fun x => { x with listed := none }) else s1
    (refreshListed s2, .done 0 [])

/-- STEER_SET. -/
def execSteerSet (slot : Nat) (s : State) : Host.Outcome State Fault Refusal :=
  .next (withCmd 0x0041 slot s steerSetCmd)

/-! ## Host ingest windows (R161 to R163) -/

/-- Channel offset of a window. -/
def winOff (w : Nat) : Nat := 0x580000 + w * 0x8000

/-- A published window: busy, or ignored if it is busy already. -/
def publishWindow (s : State) (ch w : Nat) : State :=
  let h := memRead (chanOf s ch).mem (winOff w) 32
  if u16 h 0 ≠ 0x1A7E then s
  else if s.hiw.any (fun b => b.ch == ch && b.win == w) then
    raise s [{ code := 0x0583, die := 0, loc := ch * 7 + w }]
  else { s with hiw := s.hiw ++ [⟨ch, w, h, s.raw⟩] }

/-- The next window served: order of publish, at one instant ascending global window number (R163). -/
def nextWindow (s : State) : Option HiwBusy :=
  match s.hiw with
  | [] => none
  | b :: l => some (l.foldl (fun m x => if x.at_ == m.at_ && decide (x.ch * 7 + x.win < m.ch * 7 + m.win) then x else m) b)

def winExpected (s : State) (b : HiwBusy) : Nat := mapGet 1 (chanOf s b.ch).winSeq b.win

/-- Units 1 to count of a window. -/
def winRecords (s : State) (b : HiwBusy) : List Byte :=
  memRead (chanOf s b.ch).mem (winOff b.win + 32) (32 * u16 b.header 2)

/-- The first failing check of R162 after the busy check, 0 if none. -/
def winStatus (s : State) (b : HiwBusy) : Nat :=
  let h := b.header
  if u16 h 6 ≠ winExpected s b then 0x0510
  else if u16 h 2 < 1 ∨ 1023 < u16 h 2 then 0x0513
  else if crc32 (winRecords s b) ≠ u32 h 8 then 0x0511
  else if byteAt h 5 ≠ 0 ∨ u32 h 12 ≠ 0 then 0x0512
  else match mapFind s.steer (byteAt h 4) with
    | some e => if e.kind = 3 ∧ bitOf e.mask (b.ch * 7 + b.win) = true then 0 else 0x0514
    | none => 0x0514

/-- A host record with the header's sensor number (R155, R161); none for a time outside the range. -/
def hostRecord (sensor : Nat) (r : List Byte) : PtRes :=
  if i64 r 16 < 0 then .invalid
  else .ok ⟨i32 r 0, i32 r 4, i32 r 8, u16 r 12, sensor, byteAt r 15, u64 r 16⟩

/-- The records of a window, with one count of sensor counter 0 per block of up to 128. -/
def takeRecords (s : State) (sensor count : Nat) (d : List Byte) : State :=
  let ctxs := ((mapFind s.steer sensor).map steerLists).getD []
  let s1 := cntAdd s rPdeSensorCnt (sensor * 8) (ceilDiv count 128)
  ((List.range count).map (fun i => hostRecord sensor (slice d (32 * i) 32))).foldl (takePoint ctxs sensor) s1

/-- Valid records among those of a window. -/
def validRecords (count : Nat) (d : List Byte) : Nat :=
  ((List.range count).filter (fun i => decide (0 ≤ i64 (slice d (32 * i) 32) 16))).length

/-- The answer header. -/
def winAnswer (s : State) (b : HiwBusy) (status taken : Nat) : List Byte :=
  leBytes 2 0 ++ slice b.header 2 14 ++ leBytes 2 status ++ leBytes 2 (winExpected s b) ++ leBytes 4 taken ++
    leBytes 4 (now32 s) ++ leBytes 4 0

/-- HOST_WINDOW_ANSWER: the window reader serves the next busy window; it is off in RETENTION (R458). -/
def execHostWindowAnswer (s : State) : Host.Outcome State Fault Refusal :=
  .next (
    match if hubServes s 0x05 && decide (2 ≤ s.pwr.st) then nextWindow s else none, blockMayStart s 16 with
    | none, _ => s
    | some _, false => s
    | some b, true =>
      let st := winStatus s b
      let d := winRecords s b
      let n := u16 b.header 2
      let s1 := { s with hiw := s.hiw.filter (· != b) }
      if st ≠ 0 then apertureWrite s1 b.ch (winOff b.win) (winAnswer s1 b st 0)
      else
        let s2 := takeRecords (blockStarts s1 16) (byteAt b.header 4) n d
        let s3 := modChan s2 b.ch (fun c => { c with winSeq := mapSet 1 c.winSeq b.win (nextSeq (winExpected s b)) })
        apertureWrite s3 b.ch (winOff b.win) (winAnswer s3 b 0 (validRecords n d)))

/-! ## Transmission (R141, R417) -/

/-- VERDICT_FRAME_TRANSMITTED: the frame at the head of a lane's transmit queue has left. -/
def execVerdictFrameTransmitted (lane : Nat) (s : State) : Host.Outcome State Fault Refusal :=
  .next (
    match (laneOf s lane).tx with
    | [] => s
    | t :: l => modLane s lane (fun x => { x with tx := l, sent := t.bytes }))

end Sys2Proof.Machine
end

