-- ==== Sys2Proof/Machine/Power.lean ====
section
/-!
DEFINITION. Power states (R458 to R464), pace levels (R465, R466), gating (R467 to R470), and the clearing of fences
(R533, R534).
Conventions: log entry 30 (DEDUCED), log entry 78 (DEDUCED).
-/
namespace Sys2Proof.Machine

/-- One of the commands of R464 executes. -/
def powerBusy (s : State) : Bool :=
  s.pwr.changing || s.pwr.paceTo.isSome || s.pwr.gate.isSome || s.pwr.clear.isSome

def modPwr (s : State) (f : Pwr → Pwr) : State := { s with pwr := f s.pwr }

/-- Commands in flight other than the slot's. -/
def otherSlots (s : State) (slot : Nat) : List Nat :=
  (s.chans.flatMap (fun c => c.inflight.map (·.slot))).filter (· != slot)

/-! ## Power states (R459 to R462) -/

/-- The first failing check of PWR_STATE_SET, 0 if none; `busy` says that another command of R464 executed at its
acceptance. -/
def pwrCheck (s : State) (t : Nat) (busy : Bool) : Nat :=
  if 4 < t then 0x1401
  else if t < 3 ∧ anyTrain s = true then 0x1403
  else if busy then 0x1402 else 0

/-- The transition of a PWR_STATE_SET begins: commands accepted before it are those in flight (R460, R462). -/
def beginChange (s : State) (slot t : Nat) : State :=
  modPwr s (fun p => { p with changing := true, from_ := p.st, target := t, slot := some slot,
                              before := otherSlots s slot, stepAt := s.raw })

/-- PWR_STATE_SET; a transition that began at the acceptance goes on. -/
def pwrStateSetCmd (c : Cmd) (s : State) : State × CmdRes :=
  let t := byteAt c.bytes 16
  if c.note = some 2 then (s, .stay)
  else
    let st := pwrCheck s t (powerBusy s || c.note == some 1)
    if st ≠ 0 then fail s st
    else if t = s.pwr.st then (modPwr s (fun p => { p with target := t }), .done 0 [])
    else (beginChange s c.slot t, .stay)

def execPwrStateSet (slot : Nat) (s : State) : Host.Outcome State Fault Refusal :=
  .next (withCmd 0x0050 slot s pwrStateSetCmd)

/-- Every lane goes down (R458, R176). -/
def lanesDown (s : State) : State × List Ev :=
  let up := (List.range 16).filter (fun l => (laneOf s l).up)
  ({ s with lanes := List.replicate 16 Lane.reset, fwq := [] },
    up.map (fun l => { code := 0x0580, die := 0, loc := l }))

/-- Whether main memory of a range of dies is in self-refresh. -/
def selfRefresh (s : State) (p : Nat → Bool) (v : Bool) : State :=
  { s with dies := (enumFrom 0 s.dies).map (fun d =>
      if p d.1 then { d.2 with mmc := d.2.mmc.map (fun m => { m with selfRefresh := v }) } else d.2) }

/-- A life-log power record of a state change (R479). -/
def powerRecord (s : State) (a b : Nat) : State × List Ev := lifeEvent s 10 255 [a, b, s.pwr.level, 0]

/-- Closes an OBSERVE unlock (R511). -/
def closeObserve (s : State) : State × List Ev :=
  if s.sec.debug = 1 then
    ({ s with sec := { s.sec with debug := 0, until_ := none } }, [{ code := 0x1583, die := 0, loc := 0 }])
  else (s, [])

/-- The self-test of a compute die stops: its slice and its partial test are gone. -/
def stopSelfTest (s : State) (d : Nat) : State :=
  modSelf s d (fun t => { t with running := none, slices := 0, discard := false })

/-- A new rotation starts (R527). -/
def newRotation (s : State) (d : Nat) : State :=
  modSelf s d (fun t => { t with done := 0, slices := 0, running := none, discard := false, rotStart := s.raw,
                                 through := upMask s d, overdueRaised := false })

/-- Entry to STANDBY from READY (R461): pens gated, with what their stalls hold lost; compute channels in self-refresh. -/
def enterStandby (s : State) : State :=
  (computeDies s).foldl (fun a d => modDie (stopSelfTest a d) d (fun x =>
    { x with paceWins := [], lowRun := 0, stalls := x.stalls.map stallPowerLost }))
    (selfRefresh s (fun d => d != 0) true)

/-- What a die loses with its compute SRAM: paddocks, loft and the other arrays, what its units had still to move, what its
stalls and engines hold. -/
def sramLost (x : Die) : Die :=
  { x with pads := x.pads.map (fun _ => []), loft := [], sram := [], xfers := [], linePass := [],
           engines := x.engines.map (fun _ => Engine.reset), stalls := x.stalls.map stallPowerLost }

/-- A compute die loses its power with its save area written (R458, R461). -/
def dieDown (x : Die) : Die := sramLost { saveDie x with powered := false }

/-- It is powered again: the save area is restored, and the weights of the packages resident there are reloaded, which is
done before STANDBY (R461). A die that start-up has not found stays without power. -/
def diesUp (s : State) : State :=
  (computeDies s).foldl (fun a d =>
    if (dieOf a d).up then
      reloadWeights .direct (modDie a d (fun x => { restoreDie x with powered := true })) d
    else a) s

/-- Entry to RETENTION (R458, R461, R479, R511). -/
def enterRetention (s : State) : State × List Ev :=
  let a := andThen (andThen (closeObserve s) lanesDown) (fun t => writeCheckpoint t (!t.life.flashBad))
  let s1 := selfRefresh ((computeDies a.1).foldl (fun t d => modDie t d dieDown) a.1) (fun _ => true) true
  let s2 := { s1 with pins := { s1.pins with cmpEn := false },
                      sec := { s1.sec with keyReady := false, chal := none },
                      tmu := { s1.tmu with servo := 1, good := 0, master := none, pendSync := none, delayReq := none,
                                           stepHeld := false },
                      dies := s1.dies.map (fun x => { x with paceWins := [], lowRun := 0 }) }
  (s2, a.2)

/-- SEC_TRNG_FAIL (R514). -/
def trngFailEv : Ev := { code := 0x1586, die := 0, loc := 0 }

/-- The start-up test passes: the source runs (R514). -/
def entropyPass (s : State) : State := cntAdd { s with sec := { s.sec with trng := 1, trngFails := 0 } } rSecTrngCnt 3 1

/-- The start-up test on leaving RETENTION, of a source that has not failed: whether its 4,096 samples pass the health tests,
and which test fails, is the noise source's and free. A failure raises SEC_TRNG_FAIL, and the test runs again after 1 ms
(R514). -/
def entropyStart (s : State) : State × List Ev :=
  if s.sec.trng = 3 then (s, [])
  else
    let n := freeNat s
    if n.1 % 2 = 0 then (entropyPass n.2, [])
    else
      (cntAdd { n.2 with sec := { n.2.sec with trng := 2, trngFails := 1, trngAt := n.2.raw } } rSecTrngCnt (n.1 / 2 % 2) 1,
        [trngFailEv])

/-- A channel that fails training fails as R444 gives and fences its die (R523). -/
def channelFails (d : Nat) (a : State × List Ev) (c : Nat) : State × List Ev :=
  andThen a (fun s =>
    let s1 := modDie s d (fun x => { x with mmc := updAt x.mmc c (fun m => { m with failed := true, trained := false }) })
    let f := fenceDie s1 d .channel
    (f.1, { code := 0x1281, die := d, loc := c, limited := true } :: f.2))

/-- The channels of the compute dies are retrained on leaving RETENTION; which of them fail, as they do where VDD_CMP is late
(R547), is free. -/
def retrain (s : State) : State × List Ev :=
  (computeDies s).foldl (fun a d =>
    andThen a (fun t =>
      if (dieOf t d).up then
        let n := freeNat t
        ((List.range 4).filter (fun c => bitOf n.1 c && (mmcOf n.2 d c).trained)).foldl (channelFails d) (n.2, [])
      else (t, []))) (s, [])

/-- Return to STANDBY (R461, R500, R514): the compute dies come back. -/
def leaveRetention (s : State) : State × List Ev :=
  let a := entropyStart (selfRefresh s (fun d => d == 0) false)
  let b := andThen ({ a.1 with pins := { a.1.pins with cmpEn := true } }, a.2) retrain
  (diesUp { b.1 with sec := { b.1.sec with keyReady := b.1.nv.seed.isSome } }, b.2)

/-- The 100 us of pace windows of R461 have passed on every die that runs. -/
def paceMeasured (s : State) : Bool :=
  (computeDies s).all (fun d => dieOff s d || !(dieOf s d).powered || decide (10 ≤ (dieOf s d).paceWins.length))

/-- Return to READY: pens ungated as gating last set them (R461, R470). -/
def leaveStandby (s : State) : State :=
  (computeDies s).foldl newRotation (selfRefresh s (fun d => d != 0 && !dieOff s d) false)

/-- The device is OFF: only the backup domain, the one-time-programmable fields and the flash keep their contents. -/
def enterOff (s : State) : State :=
  let s1 := deviceReset s s.backup.cause none
  { s1 with pins := { s1.pins with pwrReq := false }, boot := { s1.boot with phase := .off }, pwr := { s1.pwr with st := 0, from_ := 0, target := 0 } }

/-- The transition's state becomes `b`; at the target it completes with OK. -/
def arrive (s : State) (b : Nat) : State :=
  if b = s.pwr.target then
    let s1 := modPwr s (fun p => { p with st := b, changing := false, slot := none, before := [], from_ := b,
                                          stepAt := s.raw })
    match s.pwr.slot with
    | some k => completeSlot s1 k 0 []
    | none => s1
  else modPwr s (fun p => { p with st := b, stepAt := s.raw })

/-- The next step of the transition, with its wait over (R460 to R462): its events are raised, the state record is
written. -/
def stepTo (s : State) (b : Nat) (a : State × List Ev) : State :=
  let w := andThen a (fun t => powerRecord t s.pwr.st b)
  arrive (raise w.1 w.2) b

/-- Frames accepted and without their pennant. -/
def framesOut (s : State) : Bool := s.frames.any isAccepted

/-- A step down. -/
def stepDown (s : State) : State :=
  if s.pwr.st = 4 then (if framesOut s then s else stepTo s 3 (s, []))
  else if s.pwr.st = 3 then stepTo s 2 (enterStandby s, [])
  else if s.pwr.st = 2 then
    (if s.sec.debug = 2 then deviceReset s 3 none else stepTo s 1 (enterRetention s))
  else if s.pwr.before.any (fun k => (cmdOf s k).isSome) then s
  else enterOff (stepTo s 0 (writeCheckpoint s (!s.life.flashBad)))

/-- A step up. -/
def stepUp (s : State) : State :=
  if s.pwr.st = 1 then stepTo s 2 (leaveRetention s)
  else if s.pwr.st = 2 then
    (if s.pwr.stepAt + 100000 ≤ s.raw ∧ paceMeasured s = true then stepTo s 3 (leaveStandby s, []) else s)
  else stepTo s 4 (s, [])

/-- The command that began at its acceptance has started (R80), or it is gone. -/
def begun (s : State) (slot : Nat) : Bool := (cmdOf s slot).all (·.started)

/-- POWER_STEP. -/
def execPowerStep (s : State) : Host.Outcome State Fault Refusal :=
  .next (if s.pwr.changing && partOn s && s.pwr.slot.all (begun s) then
      (if s.pwr.target < s.pwr.st then stepDown s else stepUp s)
    else s)

/-! ## Pace levels (R129, R465, R466) -/

/-- Base power and reservations of every compute die fit its budget at a level, with `n d` pens powered. -/
def leaveFits (s : State) (d l base : Nat) : Bool := decide (base + leaveRes s d l ≤ leaveBudget s d)

/-- A guaranteed context's bound at caps exceeds its deadline at a level (R129). -/
def paceNoFit (s : State) (l : Nat) : Bool :=
  s.ctxs.any (fun c => c.guaranteed && exceeds (boundAtCaps s c l) c.deadline)

/-- Accepted and unsealed frames. -/
def acceptedFrames (s : State) : List (Nat × Nat) := (s.frames.filter isAccepted).map (fun f => (f.ctx, f.num))

/-- Drives the voltage-select outputs (R545). -/
def driveLevel (s : State) (l : Nat) : State :=
  { s with pins := { s.pins with vsel := l }, pwr := { s.pwr with paceDriven := some s.raw } }

/-- The first failing check of PACE_SET, 0 if none. -/
def paceCheck (s : State) (l : Nat) (busy : Bool) : Nat :=
  if busy then 0x1402
  else if 2 < l then 0x1401
  else if l = s.pwr.level then 0
  else if paceNoFit s l then 0x0412
  else if (computeDies s).any (fun d => !leaveFits s d l (baseLeave s d l)) then 0x1404
  else 0

/-- A change of level begins at the acceptance of its PACE_SET (R466): a raise drives the level at once, a lower waits for the
frames accepted before. -/
def beginPace (s : State) (slot l : Nat) : State :=
  let wait := if l < s.pwr.level then acceptedFrames s else []
  let s1 := modPwr s (fun p => { p with paceTo := some l, paceSlot := slot, paceDriven := none, paceWait := wait })
  if wait = [] then driveLevel s1 l else s1

/-- PACE_SET; a change that began at the acceptance goes on. -/
def paceSetCmd (c : Cmd) (s : State) : State × CmdRes :=
  let l := byteAt c.bytes 16
  if c.note = some 2 then (s, .stay)
  else
    let st := paceCheck s l (powerBusy s || c.note == some 1)
    if st ≠ 0 then fail s st
    else if l = s.pwr.level then fail s 0
    else (beginPace s c.slot l, .stay)

def execPaceSet (slot : Nat) (s : State) : Host.Outcome State Fault Refusal :=
  .next (withCmd 0x0051 slot s paceSetCmd)

/-- PACE_CHANGE_STEP: drives the new level once no frame is left to wait for, or ends the change 600 us later. -/
def execPaceChangeStep (s : State) : Host.Outcome State Fault Refusal :=
  .next (
    match s.pwr.paceTo with
    | none => s
    | some l =>
      match s.pwr.paceDriven with
      | none =>
        if s.pwr.paceWait.any (fun k => (acceptedFrames s).contains k) then s else driveLevel s l
      | some t =>
        if t + 600000 ≤ s.raw ∧ begun s s.pwr.paceSlot = true then
          completeSlot (modPwr s (fun p => { p with level := l, paceTo := none, paceDriven := none, paceWait := [] }))
            s.pwr.paceSlot 0 []
        else s)

/-! ## Gating (R129, R467 to R470) -/

/-- Pens of a mask. -/
def maskPens (m : Nat) : List Nat := (List.range 4).filter (bitOf m)

/-- Gates a pen's management view off; a fence of the pen is kept (R42, R468). -/
def penGate (d : Nat) (s : State) (p : Nat) : State :=
  match (dieOf s d).pens[p]? with
  | some u =>
    if u.mgmt = .off then s
    else
      let kept := u.mgmt == .fenced || u.mgmt == .faulted
      modDie (setPen s d p (fun u => { u with mgmt := .off, unack := true })) d (fun x =>
        { x with fencedOff := if kept then x.fencedOff ++ [p] else x.fencedOff })
  | none => s

def gatePens (s : State) (d mask : Nat) : State := (maskPens mask).foldl (penGate d) s

/-- The pens leave the rotation, their tiles go to others, and the role leaves them. -/
def pensLeave (s : State) (d mask : Nat) : State × List Ev :=
  let up := (maskPens mask).filter (penUp s d)
  let r := up.foldl (fun a p => andThen a (fun t => penLeaves t d p)) (gatePens s d mask, [])
  (handOver r.1 d, r.2)

/-- GATE_SET that R129 refuses. -/
def gateNoFit (s : State) (d mask act : Nat) : Bool :=
  if act = 0 then decide (32 * stallsAvail (gatePens s d mask) d < shareRes s d)
  else act == 2 && !(guarOn s d).isEmpty

/-- A best-effort context or a map table uses the die (R467). -/
def dieInUse (s : State) (d : Nat) : Bool :=
  s.ctxs.any (fun c => !c.guaranteed && bitOf c.dieMask d) ||
    s.tables.any (fun t => (t.st != 0 && bitOf t.dies d) ||
      (match t.load with | some l => bitOf l.dies d | none => false))

/-- Pens powered after an action that powers some. -/
def pensAfter (s : State) (d mask act : Nat) : Nat :=
  if act = 3 then 4
  else ((enumFrom 0 (dieOf s d).pens).filter (fun p => p.2.mgmt != .off || bitOf mask p.1)).length

/-- The first failing check of R467, 0 if none. -/
def gateCheck (s : State) (d mask act : Nat) (busy : Bool) : Nat :=
  let l := leaveLevel s
  if busy then 0x1402
  else if isDie s d = false ∨ 3 < act ∨ (2 ≤ act ∧ mask ≠ 0) ∨ (act < 2 ∧ dieOff s d = true) then 0x1401
  else if gateNoFit s d mask act then 0x0413
  else if act = 2 ∧ dieInUse s d = true then 0x1405
  else if (act = 1 ∨ act = 3) ∧ leaveFits s d l (basePens l (pensAfter s d mask act)) = false then 0x1404
  else 0

/-- Die off: pens gated, SRAM lost, channels in self-refresh (R470). -/
def turnDieOff (s : State) (d : Nat) : State × List Ev :=
  let r := pensLeave s d 15
  let s1 := modDie (selfRefresh r.1 (fun x => x == d) true) d (fun x =>
    { sramLost x with pens := x.pens.map (fun u => { u with data := .off, unack := false }), paceWins := [], lowRun := 0 })
  let s2 := stopSelfTest (modPwr s1 (fun p => { p with diesOff := natInsert d p.diesOff })) d
  (s2, r.2 ++ capacityEvents s2 d)

/-- GATE_SET. Die on of a die that is not off ungates its four pens as pens on does (R470; log entry 78, DEDUCED). -/
def gateSetCmd (c : Cmd) (s : State) : State × CmdRes :=
  let d := byteAt c.bytes 16
  let mask := byteAt c.bytes 17 % 16
  let act := byteAt c.bytes 18
  let st := gateCheck s d mask act (powerBusy s || c.note == some 1)
  if st ≠ 0 then fail s st
  else if act = 2 ∧ dieOff s d = true then fail s 0
  else if act = 2 then
    let r := turnDieOff s d
    (raise r.1 r.2, .done 0 [])
  else
    let r := if act = 0 then pensLeave s d mask else (s, [])
    let on := act == 3 && !dieOff s d
    (modPwr (raise r.1 r.2) (fun p => { p with gate := some (c.slot, d, if on then 15 else mask, if on then 1 else act, s.raw) }),
      .stay)

def execGateSet (slot : Nat) (s : State) : Host.Outcome State Fault Refusal :=
  .next (withCmd 0x0052 slot s gateSetCmd)

/-- The stalls of the pens of a mask have finished their started tiles (R251, R468). -/
def tilesFinished (s : State) (d mask : Nat) : Bool :=
  (List.range 40).all (fun i => !bitOf mask (penOf i) || !finishes s d i)

/-- A pen without power: it reads OFF, and what its stalls held is lost (R230). -/
def penPowerLost (d : Nat) (s : State) (p : Nat) : State :=
  modDie (setPen s d p (fun u => { u with data := .off, unack := false })) d (fun x =>
    { x with stalls := (enumFrom 0 x.stalls).map (fun t => if penOf t.1 = p then stallPowerLost t.2 else t.2) })

/-- PENS_OFF_COMPLETE: the named pens have finished their tiles and read OFF, and the capacity is recomputed (R468). -/
def execPensOffComplete (s : State) : Host.Outcome State Fault Refusal :=
  .next (
    match s.pwr.gate with
    | some (slot, d, mask, 0, _) =>
      if tilesFinished s d mask = false then s
      else
      let s1 := (maskPens mask).foldl (penPowerLost d)
        (modPwr s (fun p => { p with gate := none }))
      completeSlot (raise s1 (capacityEvents s1 d)) slot 0 []
    | _ => s)

/-- One named pen is powered and tested by one slice: READY, or fenced (R469). A pen that was not OFF keeps its state if it
passes; a fence in force stays (R42). -/
def penOn (d passed : Nat) (a : State × List Ev) (p : Nat) : State × List Ev :=
  andThen a (fun s0 =>
    let s := cntAdd s0 rDcuStCnt (d * 8) 1
    match (dieOf s d).pens[p]? with
    | none => (s, [])
    | some u =>
      if u.mgmt = .fenced ∨ u.mgmt = .faulted then (s, [])
      else if (dieOf s d).fencedOff.contains p then
        (modDie (setPen s d p (fun u => { u with mgmt := .faulted, data := .fenced })) d
          (fun x => { x with fencedOff := x.fencedOff.filter (· != p) }), [])
      else if bitOf passed p then (setPen s d p (fun u => if u.mgmt = .off then u.both .ready else u), [])
      else
        let f := fencePen (cntAdd s rDcuStCnt (d * 8 + 4) 1) d p 0x0160
        (f.1, { code := 0x0160, die := d, loc := p } :: f.2))

/-- Pens that read READY. -/
def readyMask (s : State) (d : Nat) : Nat :=
  maskOf 4 (fun p => match (dieOf s d).pens[p]? with | some u => u.mgmt == .ready | none => false)

/-- The role pen reads TEST; the role goes to an unfenced pen if it stands on none. -/
def placeRole (s : State) (d : Nat) : State :=
  let p := (dieOf s d).selftest.pen
  if penUp s d p then setPen s d p (UnitSt.swap .ready .test) else moveRole s d

/-- Ends a pens-on or die-on: the mask of READY pens in the body, and the capacity recomputed (R469); a rotation that no pen has
to complete any more is complete (R527). -/
def pensOnEnd (slot d : Nat) (a : State × List Ev) : State :=
  let r := rotationCheck (placeRole (modPwr a.1 (fun p => { p with gate := none })) d) d
  let s1 := r.1
  let s2 := raise s1 (a.2 ++ r.2 ++ capacityEvents s1 d)
  completeSlot s2 slot 0 (leBytes 1 (readyMask s2 d))

/-- PENS_ON_TEST_COMPLETE. -/
def execPensOnTestComplete (passed : Nat) (s : State) : Host.Outcome State Fault Refusal :=
  .next (
    match s.pwr.gate with
    | some (slot, d, mask, 1, t) =>
      if t + 400000 ≤ s.raw then pensOnEnd slot d ((maskPens mask).foldl (penOn d passed) (s, [])) else s
    | _ => s)

/-- DIE_ON_COMPLETE: channels retrained, all four pens ungated (R470). -/
def execDieOnComplete (passed trained : Nat) (s : State) : Host.Outcome State Fault Refusal :=
  .next (
    match s.pwr.gate with
    | some (slot, d, _, 3, _) =>
      let s1 := selfRefresh (modPwr s (fun p => { p with diesOff := p.diesOff.filter (· != d) })) (fun x => x == d) false
      let a := ((List.range 4).filter (fun c => !bitOf trained c)).foldl (channelFails d) (s1, [])
      let b := (List.range 4).foldl (penOn d passed) a
      pensOnEnd slot d (newRotation b.1 d, b.2)
    | _ => s)

/-! ## Clearing fences (R533, R534) -/

/-- A stall of the pen is fenced one by one (R40). -/
def penHasStall (s : State) (d p : Nat) : Bool :=
  (enumFrom 0 (dieOf s d).stalls).any (fun t => penOf t.1 == p && !unitUp t.2.view)

def penFenced (s : State) (d p : Nat) : Bool :=
  match (dieOf s d).pens[p]? with
  | some u => u.mgmt == .fenced || u.mgmt == .faulted || (unitUp u && penHasStall s d p)
  | none => false

/-- The first failing status of R533, 0 if none. -/
def fenceClearCheck (s : State) (d kind p : Nat) (busy : Bool) : Nat :=
  if isDie s d = false ∨ 1 < kind ∨ 3 < p ∨ (kind = 1 ∧ p ≠ 0) then 0x1410
  else if busy then 0x1402
  else if (if kind = 0 then penFenced s d p else dieFenced s d) = false then 0x1411
  else if (if kind = 0 then dieFenced s d else (dieOf s d).fences.any forGood) then 0x1412
  else 0

/-- FENCE_CLEAR. -/
def fenceClearCmd (c : Cmd) (s : State) : State × CmdRes :=
  let d := byteAt c.bytes 16
  let kind := byteAt c.bytes 17
  let p := byteAt c.bytes 18
  let st := fenceClearCheck s d kind p (powerBusy s || c.note == some 1)
  if st ≠ 0 then fail s st
  else (modPwr (modSelf s d (fun t => { t with clearRun := none, clearSlices := 0, clearFailed := false, clearFault := false }))
    (fun x => { x with clear := some (c.slot, d, kind, p, s.raw) }), .stay)

def execFenceClear (slot : Nat) (s : State) : Host.Outcome State Fault Refusal :=
  .next (withCmd 0x0060 slot s fenceClearCmd)

def clearView (u : UnitSt) : UnitSt := { u.both .ready with mism := 0 }

/-- The contexts of a die are followed for 16 frames (R413, R534). -/
def followDie (s : State) (d : Nat) : State :=
  { s with ctxs := s.ctxs.map (fun c => if bitOf c.dieMask d then { c with follow := max 16 c.follow } else c) }

/-- A pen and its stalls return to READY. -/
def penCleared (s : State) (d p : Nat) : State :=
  placeRole (modDie (setPen s d p clearView) d (fun x =>
    { x with cutPens := x.cutPens.filter (· != p), stalls := (enumFrom 0 x.stalls).map (fun t =>
        if penOf t.1 = p then { t.2 with view := clearView t.2.view } else t.2) })) d

/-- A die's units are reset and its fences end. What its arrays hold after the test is not the spec's: they are empty but for the
weights resident there and the contexts' copies of adaptable tensors, which the memory port moves there again (log entry 78,
DESIGN CHOICE). -/
def dieCleared (s : State) (d : Nat) : State :=
  let s1 := modDie s d (fun x => { sramLost x with fences := [], units := [], ports := [], misses := [] })
  let s2 := reloadWeights (.unit 12 .other) { s1 with arbs := s1.arbs.filter (fun a => arbDie a.1 != d) } d
  let s3 := (guarOn s2 d).foldl (fun a c => placeAdapted (.unit 12 .other) c (declOf s2 c.pkg) a d) s2
  newRotation (placeRole s3 d) d

/-- A pen that fails in a die's test is FAULTED and fenced (R524). -/
def clearPen (d : Nat) (pens : Nat) (a : State × List Ev) (p : Nat) : State × List Ev :=
  andThen a (fun s =>
    if bitOf pens p || !penUp s d p then (s, [])
    else
      let f := fencePen (cntAdd s rDcuStCnt (d * 8 + 4) 1) d p 0x0160
      (f.1, { code := 0x0160, die := d, loc := p } :: f.2))

/-- A pass: FENCE_CLEARED, the recomputation of R128 and the following of R413. The pens of a die are tested with it. -/
def clearPasses (s : State) (slot d kind p pens : Nat) : State :=
  let a := if kind = 0 then rotationCheck (penCleared s d p) d else (List.range 4).foldl (clearPen d pens) (dieCleared s d, [])
  let s1 := followDie a.1 d
  completeSlot (raise s1 ({ code := 0x0165, die := d, loc := p } :: a.2 ++ capacityEvents s1 d)) slot 0 []

/-- A failure: the unit stays fenced; a pen is FAULTED and SELFTEST_FAIL raised. -/
def clearFails (s : State) (slot d kind p : Nat) : State :=
  let s1 := if kind = 0 then
      (let f := fencePen (cntAdd s rDcuStCnt (d * 8 + 4) 1) d p 0x0160
       raise f.1 ({ code := 0x0160, die := d, loc := p } :: f.2))
    else s
  completeSlot s1 slot 0x1413 []

/-- FENCE_TEST_COMPLETE: a pen's ten slices, or a die's test. A new fault that fenced the unit during its test fails it. -/
def execFenceTestComplete (r : FenceResult) (s : State) : Host.Outcome State Fault Refusal :=
  .next (
    match s.pwr.clear with
    | none => s
    | some (slot, d, kind, p, _) =>
      let t := (dieOf s d).selftest
      if kind = 0 ∧ t.clearSlices < 10 ∧ t.clearFailed = false ∧ t.clearFault = false then s
      else
        let s1 := modPwr (modSelf s d (fun t => { t with clearRun := none })) (fun x => { x with clear := none })
        if t.clearFault ∨ (dieOf s d).fences.any forGood = true ∨ (kind = 0 ∧ dieFenced s d = true) then
          completeSlot s1 slot 0x1413 []
        else if r.pass && !t.clearFailed then clearPasses s1 slot d kind p r.pens else clearFails s1 slot d kind p)

/-! ## Acceptance (R460, R464, R466) -/

/-- What the acceptance of a command of R464 does before it starts: another that executes is noted; a PWR_STATE_SET or a
PACE_SET that passes its checks begins its change. -/
def acceptPower (s : State) (c : Cmd) : State :=
  let v := byteAt c.bytes 16
  if powerBusy s then setNote s c.slot 1
  else if c.code = 0x0050 ∧ pwrCheck s v false = 0 ∧ v ≠ s.pwr.st then setNote (beginChange s c.slot v) c.slot 2
  else if c.code = 0x0051 ∧ paceCheck s v false = 0 ∧ v ≠ s.pwr.level then setNote (beginPace s c.slot v) c.slot 2
  else s

end Sys2Proof.Machine
end

