-- ==== Sys2Proof/Machine/HostWrite.lean ====
section
/-!
DEFINITION. Host writes: one store of a 32-byte unit, and what the units of slots, of the consumer position and of
host window headers set off (R59, R60, R73, R83, R162).
Conventions: log entry 46 (DEDUCED).
-/
namespace Sys2Proof.Machine

/-- The bytes of a unit under a write mask. -/
def maskedUnit (old data : List Byte) (mask : BitVec 32) : List Byte :=
  (List.range 32).map (fun i => if mask.getLsbD i then data.getD i 0 else old.getD i 0)

/-- Stores a unit with its metadata (R60, R63). -/
def storeUnit (s : State) (ch off : Nat) (data : List Byte) (mask : BitVec 32) (md : BitVec 32) : State :=
  modChan s ch (fun c =>
    { c with mem := memWrite c.mem off (maskedUnit (memRead c.mem off 32) data mask),
             hostMeta := mapPut c.hostMeta (off / 32) md })

/-- What the acceptance of a command does before it starts (R115, R116, R118, R460, R464, R466). -/
def acceptEffect (s : State) (slot : Nat) : State :=
  match cmdOf s slot with
  | none => s
  | some c => if [0x0050, 0x0051, 0x0052, 0x0060].contains c.code then acceptPower s c else acceptCtx s c

/-- Evaluates a seal write; an accepted command has the effects of its acceptance. -/
def sealTaken (s : State) (slot : Nat) : State :=
  let s1 := sealEval s slot
  if slotBusy s slot || !slotBusy s1 slot then s1 else acceptEffect s1 slot

/-- What a stored unit sets off. -/
def afterStore (s : State) (ch off : Nat) (mask : BitVec 32) : State :=
  if regionOf off = .slots ∧ off % 256 = 224 ∧ mask.getLsbD 31 = true then
    sealTaken s (ch * 8192 + (off - 0x100000) / 256)
  else if off = 0x400000 ∧ mask.toNat % 16 ≠ 0 then takeConsumer s ch (leNat (memRead (chanOf s ch).mem off 4))
  else if regionOf off = .ingest ∧ off % 0x8000 = 0 ∧ mask.getLsbD 0 = true then
    publishWindow s ch ((off - 0x580000) / 0x8000)
  else s

/-- A host write of the unit at an aligned offset (R59, R60). -/
def portStore (s : State) (ch off : Nat) (data : List Byte) (mask : BitVec 32) (md : BitVec 32) : State :=
  match regionOf off with
  | .identity => modChan s ch (fun c => { c with roWrites := sat32 (c.roWrites + 1) })
  | .ring => modChan s ch (fun c => { c with roWrites := sat32 (c.roWrites + 1) })
  | .unbacked => modChan s ch (fun c => { c with unbacked := sat32 (c.unbacked + 1) })
  | _ => afterStore (storeUnit s ch off data mask md) ch off mask

/-- A burst write: of the unit at the bank's open row; ignored and counted with no row open (R62). -/
def portBurst (s : State) (ch sub bank col : Nat) (data : List Byte) (mask : BitVec 32) (md : BitVec 32) : State :=
  if portReady s ch sub && burstOk sub bank col then
    match accessOff (chanOf s ch) sub bank col with
    | none => countUnsupported s ch
    | some off => portStore s ch off data mask md
  else s

/-- The burst write that the host issues for an offset, on the sub-channel, bank and column of its mapping (R62). -/
def offsetBurst (s : State) (ch off : Nat) (data : List Byte) (mask : BitVec 32) (md : BitVec 32) : State :=
  portBurst s ch (subOfOff off) (bankOfOff off) (colOfOff off) data mask md

/-- HOST_WRITE: a burst at the open row of its bank (R62). -/
def execHostWrite (ch sub bank col : Nat) (data : List Byte) (mask : BitVec 32) (md : BitVec 32) (s : State) :
    Host.Outcome State Fault Refusal :=
  .next (portBurst s ch sub bank col data mask md)

/-- SEAL_WRITE: a host write of a slot's last unit. -/
def execSealWrite (slot : Nat) (data : List Byte) (mask : BitVec 32) (md : BitVec 32) (s : State) :
    Host.Outcome State Fault Refusal :=
  .next (offsetBurst s (slot / 8192) (slotOff slot + 224) data mask md)

/-- PEN_CONSUMER_WRITE: a host write of the 4 bytes of MBX_PEN_CONSUMER. -/
def execPenConsumerWrite (ch : Nat) (value : BitVec 32) (md : BitVec 32) (s : State) :
    Host.Outcome State Fault Refusal :=
  .next (offsetBurst s ch 0x400000 (padTo 32 (leBytes 4 value.toNat)) 0xF md)

/-- HOST_WINDOW_PUBLISH: a host write of a window's header unit. -/
def execHostWindowPublish (ch win : Nat) (data : List Byte) (mask : BitVec 32) (md : BitVec 32) (s : State) :
    Host.Outcome State Fault Refusal :=
  .next (if decide (win < 7) then offsetBurst s ch (winOff win) data mask md else s)

end Sys2Proof.Machine
end

