-- ==== Sys2Proof/Machine/Arbiters.lean ====
section
/-!
DEFINITION. The gate arbiters (R241 to R246): paddock bank ports, main-memory channels, links and halyard nodes.
Conventions: log entry 51 (DEDUCED).
-/
namespace Sys2Proof.Machine

/-! ## Gate arbiters (R241 to R246) -/

/-- Key of an arbiter. -/
def arbKey (a : ArbId) : Nat :=
  match a with
  | .bank d c b => bankKey d c b
  | .mem d ch => 4096 + d * 4 + ch
  | .link d l => 8192 + d * 8 + l
  | .halyard n => 12288 + n

/-- The arbiter exists: of the halyard one at each node, by the node's key (R25). -/
def arbExists (s : State) (a : ArbId) : Bool :=
  match a with
  | .bank d c b => isDie s d && decide (c < 5) && decide (b < 64)
  | .mem d ch => chanOfDie s d ch
  | .link d l => linkExists s d l
  | .halyard n => decide (n / 64 ≤ nDies s) && (n % 64 == 0 || (isDie s (n / 64) && decide (n % 64 < 45)))

/-- Die-level units of a die that send on a channel or a link, block and instance, in the order in which the model numbers them
as requesters (log entry 51, DESIGN CHOICE: the spec does not number them): of a compute die its 7 stage units, 5 cluster
ports, loft controller and link ports, and for a link its memory controllers before those; of the hub its units, memory
controllers and link ports. -/
def dieRequesters (s : State) (d : Nat) (link : Bool) : List (Nat × Nat) :=
  let many := fun (blk : Nat) => (List.range (unitInstances s d blk)).map (fun i => (blk, i))
  if d = 0 then
    (if link then [0x02, 0x03, 0x04, 0x05, 0x06, 0x10, 0x11, 0x14, 0x15, 0x16, 0x17].map (fun b => (b, 0)) ++ many 0x12 else []) ++
      many 0x13
  else
    [0x07, 0x08, 0x09, 0x0A, 0x0D, 0x0E, 0x0F].map (fun b => (b, 0)) ++ many 0x0B ++ [(0x0C, 0)] ++
      (if link then many 0x12 else []) ++ many 0x13

/-- The unit that makes a requester's accesses at an arbiter: at a bank port the paddock controller of the engine's cluster and the
loft controller; the others have none that R43 names. -/
def reqUnit (s : State) (a : ArbId) (r : Nat) : Option (Nat × Nat) :=
  match a with
  | .bank _ c _ => if r = 8 then some (0x0B, c) else if r = 10 then some (0x0C, 0) else none
  | .mem d _ => (dieRequesters s d false)[r]?
  | .link d _ => (dieRequesters s d true)[r]?
  | .halyard _ => none

/-- Requesters of an arbiter in the order of R241's table; of a halyard node its two ports and its local sender. -/
def arbRequesters (s : State) (a : ArbId) : Nat :=
  match a with
  | .bank _ _ _ => 13
  | .mem d _ => (dieRequesters s d false).length
  | .link d _ => (dieRequesters s d true).length
  | .halyard _ => 3

/-- Rank order at reset: of a bank the register's, of the others their requesters in order. -/
def arbReset (s : State) (a : ArbId) : ArbSt :=
  let order := match a with
    | .bank d c _ => rankList (cfgGet s rPdkArbOrder (d * 5 + c))
    | _ => List.range (arbRequesters s a)
  ⟨order, [], 0, none, 0⟩

/-- Burst limit of a requester (R241). -/
def burstLimit (a : ArbId) (req : Nat) : Nat :=
  match a with
  | .bank _ _ _ => if req ≤ 8 then 16 else 64
  | .mem _ _ => 64
  | .link _ _ => 64
  | .halyard _ => 1

/-- Die and cluster of an arbiter, as an event names them. -/
def arbPlace (a : ArbId) : Nat × Nat :=
  match a with
  | .bank d c _ => (d, c)
  | .mem d _ => (d, 0)
  | .link d _ => (d, 0)
  | .halyard n => (n / 64, 0)

/-- A requester's port at an arbiter is not cut: by its pen's gates, by its die's fence, or with its unit at fault (R24, R244). -/
def portOpen (s : State) (a : ArbId) (r : Nat) : Bool :=
  match a with
  | .bank d c _ => if r < 8 then !portCut s d (c * 8 + r) else !dieFenced s d
  | x => !dieFenced s (arbPlace x).1 &&
      (match reqUnit s x r with
       | some u => (unitOf s (arbPlace x).1 u.1 u.2).mgmt != .faulted
       | none => true)

def arbOf (s : State) (a : ArbId) : ArbSt := (mapFind s.arbs (arbKey a)).getD (arbReset s a)

def setArb (s : State) (a : ArbId) (x : ArbSt) : State := { s with arbs := mapPut s.arbs (arbKey a) x }

/-- Requests that arrive at one instant: ordered by rank, each requester once. -/
def arbArrive (x : ArbSt) (l : List Nat) : ArbSt :=
  let new := x.order.filter (fun r => l.contains r && !(x.waiting.any (fun w => w.req == r)) && x.owner != some r)
  { x with waiting := x.waiting ++ new.map (fun r => ⟨r, 0⟩) }

/-- The winner of a decision: first arrival at every eighth grant, otherwise the highest rank. -/
def arbWinner (x : ArbSt) : Option Nat :=
  if (x.n + 1) % 8 = 0 then x.waiting.head?.map (·.req)
  else x.order.find? (fun r => x.waiting.any (fun w => w.req == r))

/-- decide() of R243. -/
def decideArb (x : ArbSt) (w : Nat) : ArbSt :=
  { order := x.order.filter (· != w) ++ [w], waiting := x.waiting.filter (fun y => y.req != w), n := x.n + 1,
    owner := some w, used := 0 }

/-- Counters of a grant at a bank port (R254). -/
def countGrant (s : State) (a : ArbId) (x : ArbSt) (w : Nat) : State :=
  match a with
  | .bank d c _ =>
    let i := (d * 5 + c) * 8
    let s1 := if (x.n + 1) % 8 = 0 then cntAdd s rPdkClusterCnt (i + 5) 1 else s
    let waited := ((x.waiting.find? (fun y => y.req == w)).map (·.slots)).getD 0
    if w < 8 then cntMax s1 rPdkClusterCnt (i + 4) waited else s1
  | _ => s

/-- Requests that drop: they leave the arbiter, and the owner's grant ends; one that is asserted again arrives anew
(R243, R244). -/
def arbDrop (x : ArbSt) (l : List Nat) : ArbSt :=
  { x with waiting := x.waiting.filter (fun w => !l.contains w.req), owner := x.owner.filter (fun r => !l.contains r) }

/-- A die-level requester is faulted with its unit, where R43 gives it one. -/
def faultRequester (s : State) (a : ArbId) (req : Nat) : State :=
  match reqUnit s a req with
  | some u => faultUnit s (arbPlace a).1 u.1 u.2
  | none => s

/-- The port of a requester is cut: its request drops and its grant ends. -/
def cutRequester (s : State) (a : ArbId) (req : Nat) : State :=
  match mapFind s.arbs (arbKey a) with
  | some x => setArb s a (arbDrop x [req])
  | none => s

/-- An access past the limit: counted at a bank port, raised, the requester faulted and fenced (R244): a stall with its pen, a
die-level requester with its die. The hub is fenced by no rule; there the requester's port alone is cut. At a memory channel, a
link or a node `where` holds cluster 0 and the requester's number at that arbiter (log entry 51, DESIGN CHOICE: R255 gives a
cluster, and a number of R242 or a stall, only). -/
def burstOver (s : State) (a : ArbId) (req : Nat) : State × List Ev :=
  let d := (arbPlace a).1
  let cluster := (arbPlace a).2
  let bank := match a with | .bank _ _ _ => true | _ => false
  if bank && decide (req < 8) then
    let i := cluster * 8 + req
    let g := stallIdx d i
    let s1 := cntAdd (modDie s d (fun x => { x with stalls := updAt x.stalls i (fun t =>
      { t with view := { t.view with mgmt := .faulted } }) })) rDcuStallCnt (g * 8 + 7) 1
    let f := fencePen s1 d (penOf i) 0x0B80
    (f.1, { code := 0x0B80, die := d, loc := cluster * 1024 + 512 + g } :: f.2)
  else
    let s1 := cutRequester (faultRequester s a req) a req
    let s2 := if bank then cntAdd s1 rPdkClusterCnt ((d * 5 + cluster) * 8 + 7) 1 else s1
    let f := fenceDie s2 d .burst
    (f.1, { code := 0x0B80, die := d, loc := cluster * 1024 + req } :: f.2)

/-- The owner of a port makes an access under its grant; one past the limit ends it (R244). -/
def arbUse (s : State) (a : ArbId) (req : Nat) : State × List Ev :=
  let x := arbOf s a
  if x.owner == some req then
    let s1 := setArb s a { x with used := x.used + 1 }
    if burstLimit a req < x.used + 1 then burstOver (setArb s1 a { x with used := x.used + 1, owner := none }) a req else (s1, [])
  else (s, [])

/-- The owner makes accesses under its grant, at a link or a node. -/
def arbServe (s : State) (a : ArbId) (x : ArbSt) (served : Nat) : State × List Ev :=
  match x.owner with
  | none => (setArb s a x, [])
  | some r =>
    let s1 := setArb s a { x with used := x.used + served, owner := if burstLimit a r < x.used + served then none else some r }
    if burstLimit a r < x.used + served then burstOver s1 a r else (s1, [])

/-- The accesses that ARBITER_DECIDE itself makes: a bank port's are PADDOCK_ACCESS commands, a memory channel's MMC_READ and
MMC_WRITE. -/
def servedHere (a : ArbId) (served : Nat) : Nat :=
  match a with
  | .bank _ _ _ => 0
  | .mem _ _ => 0
  | _ => served

/-- ARBITER_DECIDE: the owner has made `served` accesses, requests drop, others arrive, and a free port is granted. -/
def execArbiterDecide (arb : ArbId) (turn : ArbTurn) (s : State) :
    Host.Outcome State Fault Refusal :=
  .next (
    if partOn s && arbExists s arb then
      let b := arbServe s arb (arbOf s arb) (servedHere arb turn.served)
      let x := (turn.arrivals.map (fun l => l.filter (portOpen b.1 arb))).foldl arbArrive (arbDrop (arbOf b.1 arb) turn.drops)
      match x.owner, arbWinner x with
      | none, some w => raise (setArb (countGrant b.1 arb x w) arb (decideArb x w)) b.2
      | _, _ => raise (setArb b.1 arb x) b.2
    else s)

end Sys2Proof.Machine
end

