-- ==== Sys2Proof/Machine/MainMemory.lean ====
section
/-!
DEFINITION. Main-memory channels and their burst code (R434 to R444), SRAM words (R445), poisoned frames (R446) and the
firewalls (R447 to R451).
Conventions: log entry 33 (DEDUCED), log entry 54 (DESIGN CHOICE), log entry 57 (DESIGN CHOICE), log entry 82
(DEDUCED).
-/
namespace Sys2Proof.Machine

/-! ## What a failed read entails (R443, R446) -/

def modFrame (s : State) (x num : Nat) (f : Frame → Frame) : State :=
  { s with frames := s.frames.map (fun g => if g.ctx == x && g.num == num && g.phase != .sealed then f g else g) }

/-- The frame is poisoned (R446). -/
def poison (s : State) (x num : Nat) : State := modFrame s x num (fun f => { f with poisoned := true })

/-- The frame's checker verdict is not ready (R443). -/
def checkerBad (s : State) (x num : Nat) : State := modFrame s x num (fun f => { f with chkBad := true })

/-- The first n held updates of a table are discarded and counted, one per frame's update (R381, R443). -/
def dropUpdates (s : State) (t n : Nat) : State :=
  match tableOf s t with
  | none => s
  | some x =>
    let s1 := (x.upd.take n).foldl (fun a u => ctxCnt a rMtuCtxCnt u.ctx 6 1) s
    { s1 with tables := s1.tables.map (fun y => if y.id == t then { y with upd := y.upd.drop n } else y) }

/-- A flip that has not switched is abandoned with its held updates: after its cut-off those that it included, as later ones are
held for the next (R391). -/
def abandonFlip (s : State) (t : Nat) : State :=
  match tableOf s t with
  | none => s
  | some x =>
    if x.flip.isSome then
      let s1 := dropUpdates s t ((x.flip.bind (·.taken)).getD x.upd.length)
      { s1 with tables := s1.tables.map (fun y => if y.id == t then { y with flip := none, flipHeldRaised := false } else y) }
    else s

/-- Staged values that only a command's waiting writes put there leave the staged set with them. -/
def dropStagedOf (s : State) (slot : Nat) : State :=
  let rest := s.cfg.waits.filter (fun w => w.slot != slot)
  let gone := (s.cfg.waits.filter (fun w => w.slot == slot)).flatMap (fun w => (copies s w.reg w.idx).map (cfgKey w.reg))
  let kept := rest.flatMap (fun w => (copies s w.reg w.idx).map (cfgKey w.reg))
  { s with cfg := { s.cfg with waits := rest, staged := s.cfg.staged.filter (fun e => !gone.contains e.1 || kept.contains e.1) } }

/-- What a command in progress holds is given up: its staged writes, its load of a map table with the contexts paused for it,
its commit, its firmware image, its transition, which ends in the state reached, and a destroy (R443). A table that a first load
had made LOADING is ABSENT again; a bundle's commit leaves no transaction (R498). -/
def dropWork (s0 : State) (slot : Nat) : State :=
  let s := dropStagedOf s0 slot
  let mine := fun (t : MapTable) => t.load.any (fun l => l.slot == some slot)
  let paused := (s.tables.filter mine).flatMap (fun t => (t.load.map (·.paused)).getD [])
  { s with
    tables := s.tables.map (fun t => if mine t then { t with load := none, st := if t.st = 3 then 2 else if t.st = 1 then 0 else t.st } else t),
    ctxs := s.ctxs.map (fun c =>
      let c1 := if paused.contains c.id ∧ c.st = 3 then { c with st := if c.pausedDegraded then 4 else 2, pausedDegraded := false } else c
      if c1.destroy = some slot then { c1 with destroy := none } else c1),
    txn := { s.txn with commits := s.txn.commits.filter (fun k => k.slot != slot),
                        st := if s.txn.commits.any (fun k => k.slot == slot) then
                            (if s.txn.commits.any (fun k => k.slot == slot && k.bundle) then 0 else 1) else s.txn.st },
    sec := if s.sec.updSlot = some slot then { s.sec with upd := none, updSlot := none, updImage := none } else s.sec,
    pwr := { s.pwr with
      slot := if s.pwr.slot = some slot then none else s.pwr.slot,
      changing := s.pwr.changing && s.pwr.slot != some slot,
      paceTo := if s.pwr.paceTo.isSome ∧ s.pwr.paceSlot = slot then none else s.pwr.paceTo,
      gate := s.pwr.gate.filter (fun g => g.1 != slot), clear := s.pwr.clear.filter (fun g => g.1 != slot) } }

/-- A command whose execution read a bad burst or was refused completes with a status; nothing that it would have
created or reserved remains. -/
def failCommand (s : State) (slot st : Nat) : State :=
  match cmdOf s slot with
  | some c => if c.started || (startable s slot c.code).isSome then complete (dropWork s slot) c st [] else s
  | none => s

/-- Codes of the commands that the security engine carries out (R447, R495 to R515). -/
def secCommand (code : Nat) : Bool := [0x0030, 0x0032, 0x0070, 0x0071, 0x0072, 0x0073, 0x0074].contains code

/-- What follows an uncorrectable burst (R443, R495). -/
def readFails (s : State) (r : ReadFor) : State :=
  match r with
  | .frame x n => poison s x n
  | .checker x n => checkerBad s x n
  | .command k => failCommand s k (if (cmdOf s k).any (fun c => secCommand c.code) then 0x1511 else 0x1201)
  | .flip t => abandonFlip s t
  | .patrol => s
  | .other => s

/-! ## Channels (R434 to R444) -/

/-- Byte address of a channel offset in its die's space (R437). -/
def dieAddr (d ch off : Nat) : Nat :=
  if d = 0 then off / 256 * 512 + ch * 256 + off % 256 else off / 256 * 1024 + ch * 256 + off % 256

/-- The burst of a channel offset, and whether the channel has it. -/
def memBurst (addr : Nat) : Nat := addr / 32 * 32

def burstExists (s : State) (d ch off : Nat) : Bool :=
  chanOfDie s d ch && decide (off % 32 = 0) && decide (off + 32 ≤ chanBytes (mmcOf s d ch))

/-- A requester has the grant of the channel's scheduler (R241, R439). -/
def granted (s : State) (d ch req : Nat) : Bool := (arbOf s (.mem d ch)).owner == some req

/-- The channel runs. -/
def channelRuns (s : State) (d ch : Nat) : Bool :=
  partOn s && unitServes s d 0x12 ch && (mmcOf s d ch).trained && !(mmcOf s d ch).selfRefresh

def modMmc (s : State) (d ch : Nat) (f : MemChan → MemChan) : State :=
  modDie s d (fun x => { x with mmc := updAt x.mmc ch f })

def mmcCnt (s : State) (d ch n k : Nat) : State := cntAdd s rMmcChCnt ((d * 4 + ch) * 8 + n) k

/-- Bursts counted in units of 2^20. -/
def mmcBursts (s : State) (d ch n k : Nat) : State := cntUnits s rMmcChCnt ((d * 4 + ch) * 8 + n) 1048576 k

/-- The newest write of a burst that waits. -/
def queued (m : MemChan) (off : Nat) : Option (List Byte) :=
  ((m.wq ++ m.held).reverse.find? (fun e => e.1 == off)).map (·.2)

/-- A burst as the devices hold it. -/
def storedBurst (s : State) (d ch off : Nat) : List Byte := memRead (dieOf s d).mem (dieAddr d ch off) 32

/-- A burst as a requester sees it. -/
def burstData (s : State) (d ch off : Nat) : List Byte :=
  (queued (mmcOf s d ch) off).getD (storedBurst s d ch off)

def storeBurst (s : State) (d ch off : Nat) (data : List Byte) : State :=
  modDie s d (fun x => { x with mem := memWrite x.mem (dieAddr d ch off) (padTo 32 data) })

/-- Byte positions at which two bursts differ, as a mask. -/
def diffMask (a b : List Byte) : Nat := maskOf 36 (fun i => a.getD i 0 != b.getD i 0)

/-- The life log's counts of a channel: by kind, symbol positions, lowest and highest row (R479). -/
def chanLog (s : State) (d ch kind mask off : Nat) : State :=
  let old := mapGet [0, 0, 0, 0, Config.memoryRow off, Config.memoryRow off] s.life.chans (d * 4 + ch)
  let cnt := updAt old kind (· + 1)
  let new := if kind = 2 then cnt
    else [cnt.getD 0 0, cnt.getD 1 0, cnt.getD 2 0, cnt.getD 3 0 ||| mask, min (cnt.getD 4 0) (Config.memoryRow off),
          max (cnt.getD 5 0) (Config.memoryRow off)]
  { s with life := { s.life with chans := mapPut s.life.chans (d * 4 + ch) new } }

/-- A corrected burst: counted and written back; no write to it has entered the queue since the read (R441, R442). -/
def burstCorrected (s : State) (d ch off k : Nat) (recv fixed : List Byte) (patrol : Bool) : State :=
  let s1 := chanLog (mmcCnt s d ch (k - 1) 1) d ch (k - 1) (diffMask recv fixed) off
  let s2 := mmcBursts (storeBurst s1 d ch off (fixed.take 32)) d ch 5 1
  if patrol then mmcCnt s2 d ch 3 1 else s2

/-- A channel with more than 16 uncorrectable bursts within 1 s fails (R444). -/
def channelCheck (s : State) (d ch : Nat) : State × List Ev :=
  let m := mmcOf s d ch
  if m.failed ∨ m.ueTimes.length ≤ 16 then (s, [])
  else
    let s1 := modMmc s d ch (fun m => { m with failed := true })
    let e : Ev := { code := 0x1281, die := d, loc := ch, limited := true }
    if d = 0 then ({ s1 with zck := { s1.zck with dead := true } }, [e])
    else
      let f := fenceDie s1 d .channel
      (f.1, e :: f.2)

/-- An uncorrectable burst (R443, R444). -/
def burstBad (s : State) (d ch off : Nat) (r : ReadFor) : State :=
  let s1 := chanLog (mmcCnt s d ch 2 1) d ch 2 0 off
  let s2 := modMmc s1 d ch (fun m =>
    { m with ueTimes := m.ueTimes.filter (fun t => within 1000000000 t s.raw) ++ [s.raw] })
  let a := channelCheck s2 d ch
  readFails (raise a.1 ({ code := 0x1280, die := d, loc := ch, limited := true } :: a.2)) r

/-- A burst as its requester gets it: the newest data if a write to it waits in the queue, otherwise as it was read. -/
def deliverBurst (s : State) (d ch off : Nat) (data : List Byte) : State :=
  modMmc s d ch (fun m => { m with out := (queued m off).getD (data.take 32) })

/-- A read of a burst with an error pattern over its 36 received bytes (R441); an uncorrectable one is delivered as
received (R443). -/
def readBurst (s : State) (d ch off : Nat) (err : List Byte) (r : ReadFor) (patrol : Bool) : State :=
  let s1 := mmcBursts s d ch 4 1
  let data := storedBurst s1 d ch off
  let recv := (List.zipWith (· ^^^ ·) (data ++ rsCheck data) (padTo 36 err))
  let give := fun (b : List Byte) => if patrol then s1 else deliverBurst s1 d ch off b
  match rsDecode recv with
  | some (0, _) => give data
  | some (k, fixed) => burstCorrected (give fixed) d ch off k recv fixed patrol
  | none => burstBad (give recv) d ch off r

/-- A write that waits takes the entry that has become free (R439). -/
def admitHeld (s : State) (d ch : Nat) : State :=
  modMmc s d ch (fun m =>
    if m.wq.length < 64 then { m with wq := m.wq ++ m.held.take 1, held := m.held.drop 1 } else m)

/-- The devices take the oldest queued bursts; writes that wait take their entries. -/
def drainQueue : Nat → State → Nat → Nat → State
  | 0, s, _, _ => s
  | n + 1, s, d, ch =>
    match (mmcOf s d ch).wq with
    | [] => s
    | e :: l =>
      drainQueue n (mmcBursts (admitHeld (modMmc (storeBurst s d ch e.1 e.2) d ch (fun m => { m with wq := l })) d ch) d ch 5 1)
        d ch

/-- Bursts that the scheduler writes before its next read: those above MMC_WQ_HIGH with the writes that wait for an entry
(R439, R452). -/
def writesAhead (s : State) (d ch : Nat) : Nat :=
  (mmcOf s d ch).wq.length + (mmcOf s d ch).held.length - cfgFld s rMmcCfg 0 23 18

/-- An access of a channel under its requester's grant, with what follows from one past the burst limit (R244). -/
def chanAccess (s : State) (d ch req : Nat) (f : State → State) : State :=
  let r := arbUse (f s) (.mem d ch) req
  raise r.1 r.2

/-- MMC_READ: the burst at a channel offset, for the owner of the scheduler's grant. Writes go ahead while the queue holds more than
MMC_WQ_HIGH. -/
def execMmcRead (die chan addr : Nat) (err : List Byte) (user : MemUser) (s : State) : Host.Outcome State Fault Refusal :=
  .next (
    let off := memBurst addr
    if channelRuns s die chan && burstExists s die chan off && granted s die chan user.req then
      chanAccess s die chan user.req (fun t => readBurst (drainQueue (writesAhead t die chan) t die chan) die chan off err user.for_ false)
    else s)

/-- PATROL_READ: the next burst of the patrol, once no write waits in the queue, and the position advances (R442). -/
def execPatrolRead (die chan : Nat) (err : List Byte) (s : State) : Host.Outcome State Fault Refusal :=
  .next (
    if chanOfDie s die chan && channelRuns s die chan && cfgFld s rMmcCfg 0 15 0 != 0 then
      let off := (mmcOf s die chan).patrol
      let s0 := drainQueue ((mmcOf s die chan).wq.length + (mmcOf s die chan).held.length) s die chan
      let s1 := readBurst s0 die chan off err .patrol true
      modMmc s1 die chan (fun m => { m with patrol := (off + 32) % chanBytes m })
    else s)

/-- A write enters the queue, or waits until an entry frees; as the queue comes to hold more than MMC_WQ_HIGH bursts,
writes take priority, which is counted (R439). -/
def enqueueWrite (s : State) (d ch off : Nat) (data : List Byte) : State :=
  if (mmcOf s d ch).wq.length < 64 then
    let s1 := modMmc s d ch (fun m => { m with wq := m.wq ++ [(off, padTo 32 data)] })
    if (mmcOf s1 d ch).wq.length = cfgFld s rMmcCfg 0 23 18 + 1 then mmcCnt s1 d ch 6 1 else s1
  else modMmc s d ch (fun m => { m with held := m.held ++ [(off, padTo 32 data)] })

/-- MMC_WRITE: the devices take `drain` queued bursts, then the write of the grant's owner enters the queue or waits. -/
def execMmcWrite (die chan addr : Nat) (data : List Byte) (user : MemWriter) (s : State) : Host.Outcome State Fault Refusal :=
  .next (
    let off := memBurst addr
    if channelRuns s die chan && burstExists s die chan off && granted s die chan user.req then
      chanAccess s die chan user.req (fun t => enqueueWrite (drainQueue user.drain t die chan) die chan off data)
    else s)

/-- MMC_REFRESH: a per-bank refresh; no stored value changes (R435). -/
def execMmcRefresh (die chan bank : Nat) (s : State) : Host.Outcome State Fault Refusal :=
  .next (if chanOfDie s die chan && decide (bank < 16) && channelRuns s die chan then
      modMmc s die chan (fun m => { m with refreshes := m.refreshes + 1 })
    else s)

/-- MMC_ZQ_CALIBRATION (R435). -/
def execMmcZqCalibration (die chan : Nat) (s : State) : Host.Outcome State Fault Refusal :=
  .next (if chanOfDie s die chan && channelRuns s die chan then modMmc s die chan (fun m => { m with zqCals := m.zqCals + 1 })
    else s)

/-! ## SRAM words (R445) -/

/-- An SRAM counter of a target. -/
def sramCnt (s : State) (d t n : Nat) : State :=
  if d = 0 then cntAdd s rMgpSramCnt (t * 8 + n) 1 else cntAdd s rDcuSramCnt ((d * 16 + t) * 8 + n) 1

/-- The life log's counts of a bank: one-bit, two-bit, uncorrectable, and the mask of corrected bits (R479). -/
def bankLog (s : State) (d t bank kind mask : Nat) : State :=
  let old := mapGet [0, 0, 0, 0] s.life.banks (bankLogKey d t bank)
  let cnt := updAt (updAt old kind (· + 1)) 3 (· ||| mask)
  { s with life := { s.life with banks := mapPut s.life.banks (bankLogKey d t bank) cnt } }

/-- The work a bad word was read for: a frame is poisoned, a checker verdict not ready (R445, R446), a command of the security
engine fails (R495). -/
def wordVictim (s : State) (r : ReadFor) : State :=
  match r with
  | .frame x n => poison s x n
  | .checker x n => checkerBad s x n
  | .command k => if (cmdOf s k).any (fun c => secCommand c.code) then failCommand s k 0x1511 else s
  | _ => s

/-- Contexts in the steering entry that a frame of a lane's buffer meets (R144). -/
def steeredTo (s : State) (lane : Nat) (f : RxFrame) : List Nat :=
  match parseFrame f.bytes with
  | .udp u => ((s.steer.find? (fun e => steerMatches e.2 lane (vlanOf f.bytes) u)).map (fun e => e.2.ctxs)).getD []
  | _ => []

/-- The open frames of some contexts lose their checker verdicts. -/
def loseVerdicts (s : State) (ctxs : List Nat) : State :=
  { s with frames := s.frames.map (fun f =>
      if f.phase = .opened && ctxs.contains f.ctx then { f with chkBad := true } else f) }

/-- The packet in decode on a lane is dropped, or else the first of its buffer, and the open frames of the contexts in
its sensor's steering entry lose their checker verdicts (R445). -/
def dropStaged (s : State) (lane : Nat) : State :=
  match (laneOf s lane).dec, (laneOf s lane).rx with
  | some p, _ => loseVerdicts { s with lanes := updAt s.lanes lane (fun l => { l with dec := none }) } p.ctxs
  | none, f :: l => loseVerdicts { s with lanes := updAt s.lanes lane (fun x => { x with rx := l }) } (steeredTo s lane f)
  | none, [] => s

/-- The context whose descriptor a bad word belongs to. -/
def victimCtx (r : ReadFor) : Option Nat :=
  match r with
  | .frame x _ => some x
  | .checker x _ => some x
  | _ => none

def sramEvent (d t : Nat) : Ev := { code := 0x0140, die := d, loc := t, limited := true }

/-- Reaction of a compute die to an uncorrectable word. -/
def wordBadCompute (s : State) (d t bank : Nat) : State × List Ev :=
  if t ≤ 4 then bankFails s d t bank .bank
  else if t = 5 then
    let f := fenceDie (faultUnit s d 0x0C 0) d .loft
    (f.1, { code := 0x0C80, die := d, loc := 0 } :: f.2)
  else if t = 10 then
    let f := fencePen (setStall s d bank (fun u => { u with mgmt := .faulted })) d (penOf bank) 0x0140
    (f.1, sramEvent d t :: f.2)
  else
    let key := (if t = 6 then 0x08 else if t = 7 then 0x09 else 0x0D) * 128
    let f := fenceDie (setUnit s d key { mapGet readyUnit (dieOf s d).units key with mgmt := .faulted }) d .sram
    (f.1, sramEvent d t :: f.2)

/-- Reaction of the hub. -/
def wordBadHub (s : State) (t bank : Nat) (r : ReadFor) : State :=
  if t = 0 then s
  else
    let s1 := raise s [sramEvent 0 t]
    if t = 1 then { s1 with boot := { s1.boot with idBoot := 2, halted := true } }
    else if t = 3 then dropStaged s1 bank
    else if t = 4 then
      { s1 with ctxs := s1.ctxs.map (fun c => if victimCtx r = some c.id then { c with chkDead := true } else c) }
    else s1

/-- What a scrubber finds in a word. -/
def scrubWord (s : State) (d t bank : Nat) (err : SramErr) (r : ReadFor) : State :=
  match err with
  | .none => s
  | .one a => bankLog (sramCnt s d t 0) d t bank 0 (2 ^ (a % 79))
  | .two a b => bankLog (sramCnt s d t 1) d t bank 1 (2 ^ (a % 79) ||| 2 ^ (b % 79))
  | .uncorrectable =>
    let s1 := wordVictim (bankLog (sramCnt s d t 2) d t bank 2 0) r
    if d = 0 then wordBadHub s1 t bank r
    else
      let a := wordBadCompute s1 d t bank
      raise a.1 a.2

/-- Raw time of a bank's last full scrub or counted second; 0 before the first. -/
def scrubbedAt (s : State) (d t bank : Nat) : Nat := mapGet 0 (dieOf s d).scrubs (t * 4096 + bank)

def scrubMark (s : State) (d t bank at_ : Nat) : State :=
  modDie s d (fun x => { x with scrubs := mapSet 0 x.scrubs (t * 4096 + bank) at_ })

/-- SRAM_SCRUB. `last` says that the word completes a pass over its bank. -/
def execSramScrub (die target bank : Nat) (err : SramErr) (victim : ReadFor) (last : Bool) (s : State) :
    Host.Outcome State Fault Refusal :=
  .next (if dieOn s die && sramTarget (die == 0) target then
      let s1 := scrubWord s die target bank err victim
      if last then scrubMark (sramCnt s1 die target 3) die target bank s.raw else s1
    else s)

/-- SRAM_SCRUB_OVERDUE: a bank not fully scrubbed for a second is counted, once per such second. -/
def execSramScrubOverdue (die target bank : Nat) (s : State) : Host.Outcome State Fault Refusal :=
  .next (if dieOn s die && sramTarget (die == 0) target && decide (scrubbedAt s die target bank + 1000000000 ≤ s.raw) then
      scrubMark (sramCnt s die target 4) die target bank (scrubbedAt s die target bank + 1000000000)
    else s)

/-! ## Firewalls (R447 to R449) -/

/-- A descriptor permits an access of a domain to a byte range (R449). -/
def fwAllows (s : State) (d t k domain addr len : Nat) (write : Bool) : Bool :=
  let p := fwPerm s d t k
  let r := fwRange s d t k
  p.1 && bitOf (if write then p.2.2 else p.2.1) domain && decide (r.1 * 64 ≤ addr) &&
    decide (addr + len ≤ (r.2 + 1) * 64)

/-- One enabled descriptor covers the access for its domain. -/
def fwPermits (s : State) (d t domain addr len : Nat) (write : Bool) : Bool :=
  (List.range 64).any (fun k => fwAllows s d t k domain addr len write)

/-- Entry of a loft byte, and its place there (R266). -/
def loftByte (l : List (Nat × Nat)) (a : Nat) : Byte := BitVec.ofNat 8 (mapGet 0 l (a / 16) / 256 ^ (a % 16))

/-- A byte put into the loft. -/
def loftPut (l : List (Nat × Nat)) (a : Nat) (b : Byte) : List (Nat × Nat) :=
  let old := mapGet 0 l (a / 16)
  let p := 256 ^ (a % 16)
  mapSet 0 l (a / 16) (old - old / p % 256 * p + b.toNat * p)

/-- Channel and offset of a byte of a die's main memory (R437). -/
def chanAt (d a : Nat) : Nat × Nat :=
  let w := if d = 0 then 512 else 1024
  (a % w / 256, a / w * 256 + a % 256)

/-- A byte of a die's main memory as a requester sees it. -/
def memoryByte (s : State) (d a : Nat) : Byte :=
  let c := chanAt d a
  (burstData s d c.1 (c.2 / 32 * 32)).getD (c.2 % 32) 0

/-- A byte written to a die's main memory: its burst enters the write queue, from which the devices take one if it is
full. -/
def memoryPut (d : Nat) (s : State) (e : Nat × Byte) : State :=
  let c := chanAt d e.1
  let off := c.2 / 32 * 32
  let data := overlay (padTo 32 (burstData s d c.1 off)) (c.2 % 32) [e.2]
  if (mmcOf s d c.1).held = [] ∧ (((mmcOf s d c.1).wq.getLast?).map (·.1)) = some off then
    modMmc s d c.1 (fun m => { m with wq := m.wq.dropLast ++ [(off, data)] })
  else enqueueWrite (if (mmcOf s d c.1).wq.length < 64 then s else drainQueue 1 s d c.1) d c.1 off data

/-! The hash store and the words beside it (R192, R194, R217) hold what voxelisation and curve order keep of a frame's cells. -/

/-- First byte of a context's hash partition on a die, or of its words: its allocation, or for a best-effort frame what remains
(R132, R192). -/
def hashBase (s : State) (d t x : Nat) : Nat :=
  64 * ((((spansOf s d t (ownHash x)).head?).map (·.1)).getD (zoneTail s d t 12).1)

/-- The cell of a frame whose slot of w bytes covers an address, the latest frame's if several stand there. -/
def slotCell (s : State) (d t w a : Nat) : Option (Frame × Cell) :=
  s.frames.reverse.findSome? (fun f =>
    let b := hashBase s d t f.ctx
    (f.cells.find? (fun c => c.die == d && decide (b + w * c.slot ≤ a) && decide (a < b + w * (c.slot + 1)))).map (fun c => (f, c)))

/-- A hash entry, and the word beside it. -/
def hashEntry (f : Frame) (c : Cell) : Nat :=
  2 ^ 255 + c.key * 2 ^ 192 + f.ctx * 2 ^ 180 + c.count * 2 ^ 158 + c.su * 2 ^ 125 + c.sv * 2 ^ 92 + c.sw * 2 ^ 59 +
    c.inten * 2 ^ 43 + c.sweep * 2 ^ 27 + c.age
def slotWord (c : Cell) : Nat := c.rank * 2 ^ 32 + c.mask

/-- Bytes of a cell's place in a store. -/
def slotWidth (t : Nat) : Nat := if t = 6 then 32 else 8

/-- What a cell's place in a store holds. -/
def slotBytes (f : Frame) (c : Cell) (t : Nat) : List Byte := leBytes (slotWidth t) (if t = 6 then hashEntry f c else slotWord c)

/-- A byte of the hash store (target 6) or of the sort and rulebook store (target 7), the one of its memory where no cell stands. -/
def storeByte (s : State) (d t a : Nat) : Byte :=
  match slotCell s d t (slotWidth t) a with
  | some (f, c) => (slotBytes f c t).getD ((a - hashBase s d t f.ctx) % slotWidth t) 0
  | none => (memRead ((mapFind (dieOf s d).sram t).getD []) a 1).headD 0

/-- Bytes `new` at address `b` of `old` bytes at address `a`, where they overlap. -/
def overwrite (a : Nat) (old : List Byte) (b : Nat) (new : List Byte) : List Byte :=
  (enumFrom a old).map (fun e => if b ≤ e.1 then new.getD (e.1 - b) e.2 else e.2)

/-- The places of cells in a store that a write of some bytes meets: the frame, the cell and its address. -/
def slotsMet (s : State) (d t addr len : Nat) : List (Frame × Cell × Nat) :=
  s.frames.flatMap (fun f => f.cells.filterMap (fun c =>
    let a := hashBase s d t f.ctx + slotWidth t * c.slot
    if c.die = d ∧ addr < a + slotWidth t ∧ a < addr + len ∧ slotCell s d t (slotWidth t) a = some (f, c) then some (f, c, a) else none))

/-- A cell as its written place says (R194, R217); none where its occupied bit is cleared. -/
def cellFrom (t : Nat) (c : Cell) (v : Nat) : Option Cell :=
  if t = 7 then some { c with rank := v / 2 ^ 32, mask := v % 2 ^ 27 }
  else if v / 2 ^ 255 = 0 then none
  else some { c with
    key := v / 2 ^ 192 % 2 ^ 63, count := v / 2 ^ 158 % 2 ^ 22, su := v / 2 ^ 125 % 2 ^ 33, sv := v / 2 ^ 92 % 2 ^ 33,
    sw := v / 2 ^ 59 % 2 ^ 33, inten := v / 2 ^ 43 % 2 ^ 16, sweep := v / 2 ^ 27 % 2 ^ 16, age := v % 2 ^ 27 }

/-- A write to a store of a frame's cells: those that it meets become what their places then say, and the memory beneath keeps what
the places hold. -/
def storeWrite (s : State) (d t addr : Nat) (data : List Byte) : State :=
  let met := slotsMet s d t addr data.length
  let under := fun (m : Memory) => met.foldl (fun m e => memWrite m e.2.2 (slotBytes e.1 e.2.1 t)) m
  let s1 := modDie s d (fun x => { x with sram := mapPut x.sram t (memWrite (under ((mapFind x.sram t).getD [])) addr data) })
  { s1 with frames := s1.frames.map (fun f => { f with cells := f.cells.filterMap (fun c =>
      match met.find? (fun e => e.1 == f && e.2.1 == c) with
      | some e => cellFrom t c (leNat (overwrite e.2.2 (slotBytes f c t) addr data))
      | none => some c) }) }

def sramOf (s : State) (d t : Nat) : Memory := (mapFind (dieOf s d).sram t).getD []

/-- What a target of a die holds (R448). -/
def targetRead (s : State) (d t addr len : Nat) : List Byte :=
  if t = 9 then (List.range len).map (fun i => memoryByte s d (addr + i))
  else if d ≠ 0 ∧ t ≤ 4 then memRead ((dieOf s d).pads.getD t []) addr len
  else if d ≠ 0 ∧ t = 5 then (List.range len).map (fun i => loftByte (dieOf s d).loft (addr + i))
  else if d ≠ 0 ∧ (t = 6 ∨ t = 7) then (List.range len).map (fun i => storeByte s d t (addr + i))
  else if d = 0 ∧ t = 0 then memRead (chanOf s 0).mem addr len
  else if d = 0 ∧ t = 1 then memRead s.dbg.hubMem addr len
  else memRead (sramOf s d t) addr len

/-- The effect of a permitted write. -/
def targetWrite (s : State) (d t addr : Nat) (data : List Byte) : State :=
  if t = 9 then ((enumFrom addr data)).foldl (memoryPut d) s
  else if d ≠ 0 ∧ t ≤ 4 then modDie s d (fun x => { x with pads := updAt x.pads t (fun m => memWrite m addr data) })
  else if d ≠ 0 ∧ t = 5 then
    modDie s d (fun x => { x with loft := (enumFrom addr data).foldl (fun l e => loftPut l e.1 e.2) x.loft })
  else if d ≠ 0 ∧ (t = 6 ∨ t = 7) then storeWrite s d t addr data
  else if d = 0 ∧ t = 0 then modChan s 0 (fun c => { c with mem := memWrite c.mem addr data })
  else if d = 0 ∧ t = 1 then { s with dbg := { s.dbg with hubMem := memWrite s.dbg.hubMem addr data } }
  else modDie s d (fun x => { x with sram := mapPut x.sram t (memWrite ((mapFind x.sram t).getD []) addr data) })

/-- Records a refusal (SEC_FW_STATUS). -/
def fwRecord (s : State) (d t domain addr : Nat) (write : Bool) : State :=
  let i := d * 16 + t
  let n := ((mapFind s.fwStat i).map (·.count)).getD 0
  { s with fwStat := mapPut s.fwStat i ⟨domain, write, addr / 64, min 0x3FFFFFFF (n + 1)⟩ }

/-- What follows a refusal: the frame is poisoned, or its checker verdict not ready, or the security engine's
operation fails (R446, R449, R495). -/
def refusedFor (s : State) (domain : Nat) (r : ReadFor) : State :=
  match r with
  | .frame x n => if domain = 1 then checkerBad s x n else poison s x n
  | .checker x n => checkerBad s x n
  | .command k => if domain = 2 then failCommand s k 0x1511 else s
  | _ => s

/-- Domains that an access made for some work can carry (R447): a frame's that of its context, or 1 for the verdict unit's
copies; the checker's 1; a command's 0, or 2 where the security engine carries it out; a flip's 0; any of the hub's own
otherwise. -/
def domainsOf (s : State) (r : ReadFor) : List Nat :=
  match r with
  | .frame x _ => [((ctxOf s x).map (·.domain)).getD 0, 1]
  | .checker _ _ => [1]
  | .command k => if (cmdOf s k).any (fun c => secCommand c.code) then [0, 2] else [0]
  | .flip _ => [0]
  | .patrol => [0]
  | .other => [0, 1, 2]

/-- Domain of an access that a compute die's units make for some work. -/
def domainOf (s : State) (r : ReadFor) : Nat := ((domainsOf s r).head?).getD 0

/-- A refused access: recorded, raised, and what follows for its work (R449). -/
def fwRefuse (s : State) (d t domain addr : Nat) (write : Bool) (r : ReadFor) : State :=
  refusedFor (raise (fwRecord s d t domain addr write) [{ code := 0x1580, die := d, loc := t, limited := true }]) domain r

/-- The channels of a die write what goes ahead of its next reads (R439). -/
def writeAhead (s : State) (d : Nat) : State :=
  (List.range (dieOf s d).mmc.length).foldl (fun a c => drainQueue (writesAhead a d c) a d c) s

/-- A read past a target's firewall: the data, or zeros where it is refused. -/
def fwRead (s : State) (d t domain addr len : Nat) (r : ReadFor) : List Byte × State :=
  if fwPermits s d t domain addr len false then (targetRead s d t addr len, if t = 9 then writeAhead s d else s)
  else (List.replicate len 0, fwRefuse s d t domain addr false r)

/-- A write past a target's firewall: not performed where it is refused. -/
def fwWrite (s : State) (d t domain addr : Nat) (data : List Byte) (r : ReadFor) : State :=
  if fwPermits s d t domain addr data.length true then targetWrite s d t addr data
  else fwRefuse s d t domain addr true r

/-- MEMORY_ACCESS: the data of a read comes back on the die's bus. An access past the end of its target is covered by no descriptor,
so that it is refused (R449). -/
def execMemoryAccess (die target domain addr len : Nat) (write : Option (List Byte)) (for_ : ReadFor) (s : State) :
    Host.Outcome State Fault Refusal :=
  .next (if targetExists s die target && decide (0 < len) && dieOn s die && (domainsOf s for_).contains domain then
      match write with
      | some w => fwWrite s die target domain addr (padTo len w) for_
      | none =>
        let r := fwRead s die target domain addr len for_
        modDie r.2 die (fun x => { x with busOut := r.1 })
    else s)

end Sys2Proof.Machine
end

