-- ==== Sys2Proof/Machine/MapTable.lean ====
section
/-!
DEFINITION. Cell map tables: rows and classes (R366 to R368), lookups (R371 to R376), map updates (R384 to R387), loading
and replacing (R378 to R383), and flips (R388 to R392).
Conventions: log entry 34 (DEDUCED), log entry 53 (DEDUCED), log entry 57 (DESIGN CHOICE), log entry 76 (DESIGN
CHOICE), log entry 77 (DEDUCED), log entry 86 (DESIGN CHOICE).
-/
namespace Sys2Proof.Machine

/-! ## Rows (R367) -/

/-- FP32 value of element e of a stored row: hot BF16, warm E4M3, cold MXFP4 in blocks of 16 element bytes and a scale. -/
def mapRowVal (r : MapRow) (e : Nat) : Val :=
  if r.cls = 0 then rne32 (fBF16.value (u16 r.data (2 * e)))
  else if r.cls = 1 then rne32 (fE4M3.value (byteAt r.data e))
  else if r.cls = 2 then
    let b := byteAt r.data (17 * (e / 32) + e % 32 / 2)
    rne32 (mxScale (byteAt r.data (17 * (e / 32) + 16)) (fE2M1.value (if e % 2 = 0 then b % 16 else b / 16)))
  else Val.zero

/-- A cold block: scale byte and 32 element codes. -/
def coldBlock (scale : Nat) (codes : List Nat) : List Byte :=
  (List.range 16).map (fun i => BitVec.ofNat 8 (codes.getD (2 * i) 0 + 16 * codes.getD (2 * i + 1) 0)) ++ [BitVec.ofNat 8 scale]

/-- A row of values stored in a class (R273, R274). -/
def storeMapRow (cls : Nat) (vs : List Val) : MapRow :=
  if cls = 0 then ⟨0, vs.flatMap (fun v => leBytes 2 (fBF16.convert v))⟩
  else if cls = 1 then ⟨1, vs.map (fun v => BitVec.ofNat 8 (fE4M3.convert v))⟩
  else if cls = 2 then
    let n := ceilDiv vs.length 32
    let all := vs ++ List.replicate (n * 32 - vs.length) Val.zero
    ⟨2, (blocks32 n all).flatMap (fun b => let x := mxBlock 11 b; coldBlock x.1 x.2)⟩
  else ⟨3, []⟩

def missingRow : MapRow := ⟨3, []⟩

/-- The rows a frame is bound to (R390). -/
def boundRows (t : MapTable) (f : Frame) : List MapRow :=
  let e := ((f.epochs.find? (fun x => x.1 == t.id)).map (·.2)).getD t.epoch
  match t.oldRows with
  | some o => if o.1 = e then o.2 else t.rows
  | none => t.rows

/-- Some copy of the table's rows is left: a LOST table has none, nor a small one that lost every die (R393). -/
def tableIntact (t : MapTable) : Bool := t.st != 4 && !(t.small && t.lostCopies == t.dies)

/-- Value of an element as a frame reads it. -/
def tableVal (t : MapTable) (rows : List MapRow) (r e : Nat) : Val :=
  if tableIntact t then mapRowVal (rows.getD r missingRow) e else v32 (Config.lostRow t.id r e)

/-! ## Taps (R371, R372) -/

/-- A tap looked up: site rank, tap number, weight, and its row; no row is an invalid corner. -/
structure Tap where
  site : Nat
  tap : Nat
  w : Val
  row : Option Nat
  deriving DecidableEq, Repr

/-- Corner and fraction of a site on an axis. -/
def tapAxis (v : List Byte) (level shift : Nat) (t : Site) (a : Nat) : Int × Nat :=
  let d := gridS v a * 2 ^ (level + shift)
  let m := siteC t a - gridO v a
  let c := m / (d : Int)
  (c, ((m - c * d) * 65536 / (d : Int)).toNat)

/-- Row of a corner, none if it is invalid. -/
def tapRow (table r : Nat) (c : Int × Int × Int) : Option Nat :=
  let ok := fun (x : Int) => decide (0 ≤ x) && decide (x < (2 : Int) ^ 21)
  if ok c.1 && ok c.2.1 && ok c.2.2 then
    some (mix (voxKey c.1.toNat c.2.1.toNat c.2.2.toNat) (4096 + table) % 2 ^ 32 * r / 2 ^ 32)
  else none

/-- The taps of a site for a table; taps of weight +0 are not looked up. -/
def siteTaps (v d : List Byte) (table shift r rank : Nat) (t : Site) : List Tap :=
  let ax := fun a => tapAxis v (byteAt d 4) shift t a
  let x := ax 0
  let y := ax 1
  let z := ax 2
  if byteAt d 3 = 0 then [⟨rank, 0, one, tapRow table r (x.1, y.1, z.1)⟩]
  else (List.range 8).filterMap (fun n =>
    let om := fun (q : Int × Nat) (b : Nat) => if b = 0 then 65536 - q.2 else q.2
    let bx := n / 4
    let bY := n / 2 % 2
    let bz := n % 2
    let w := rne32 (.fin false (om x bx * om y bY * om z bz) (-48))
    if w.isZero then none
    else some ⟨rank, n, w, tapRow table r (x.1 + (bx : Nat), y.1 + (bY : Nat), z.1 + (bz : Nat))⟩)

/-- The taps that a die looks up in a table, in ascending rank and tap (R375). -/
def dieTaps (p : PkgDecl) (f : Frame) (d : List Byte) (tb : Nat × Nat × Nat) (rows : Nat) (ranks : List Nat) : List Tap :=
  ranks.flatMap (fun r =>
    siteTaps (vhuDesc p) d tb.1 tb.2.1 rows r ((sitesOf f (byteAt d 4)).getD r emptySite))

/-- Windows of a list of taps. -/
def windowCount (n : Nat) : Nat := ceilDiv n 64

/-! ## Windows (R375, R376) -/

/-- The die that serves a row to a requesting die. -/
def sourceDie (t : MapTable) (rows : List MapRow) (r d : Nat) : Nat :=
  let left := if t.small then t.dies - (t.dies &&& t.lostCopies) else t.dies
  if t.small then (if bitOf left d then d else (maskDies left).headD 0)
  else if (rows.getD r missingRow).cls = 0 ∧ bitOf t.dies d = true then d
  else homeDie t.shards t.dies r

/-- The tap is dropped for a missing row. -/
def tapMissing (rows : List MapRow) (t : Tap) : Bool :=
  match t.row with
  | some r => (rows.getD r missingRow).cls == 3
  | none => false

/-- Taps that contribute: looked up and not dropped. -/
def liveTaps (rows : List MapRow) (l : List Tap) : List Tap := l.filter (fun t => t.row.isSome && !tapMissing rows t)

/-- A window's counters and hit counts (R389, R394). -/
def countWindow (s : State) (ctx d : Nat) (t : MapTable) (rows : List MapRow) (l : List Tap) : State :=
  let live := liveTaps rows l
  let fetched := (live.filterMap (·.row)).eraseDups
  let s1 := cntUnits s rMtuCtxCnt (ctx * 8) 1024 l.length
  let s2 := ctxCnt (ctxCnt s1 rMtuCtxCnt ctx 1 fetched.length) rMtuCtxCnt ctx 2 (l.filter (·.row.isNone)).length
  let s3 := ctxCnt s2 rMtuCtxCnt ctx 3 (l.filter (tapMissing rows)).length
  let s4 := ctxCnt s3 rMtuCtxCnt ctx 4 (fetched.filter (fun r => sourceDie t rows r d != d)).length
  let hits := (live.filterMap (·.row)).foldl (fun m r => mapPut m r (min 255 (mapGet 0 m r + 1))) t.hits
  { s4 with tables := s4.tables.map (fun x => if x.id == t.id then { x with hits := hits } else x) }

/-- A table of a lookup with its rows for the frame. -/
def boundTable (s : State) (f : Frame) (n : Nat) : Option (MapTable × List MapRow) :=
  (tableOf s n).map (fun t => (t, boundRows t f))

/-- The windows of a die over the tables of a lookup: table position and taps. -/
def dieWindows (s : State) (p : PkgDecl) (f : Frame) (d : List Byte) (tbs : List (Nat × Nat × Nat)) (e : Nat) :
    List (Nat × List Tap) :=
  tbs.flatMap (fun tb =>
    match boundTable s f tb.1 with
    | none => []
    | some (_, rows) =>
      let l := dieTaps p f d tb rows.length (ownedRanks f (byteAt d 4) e)
      (List.range (windowCount l.length)).map (fun i => (tb.1, (l.drop (64 * i)).take 64)))

/-! ## Results (R373, R386) -/

/-- Element e of the pooled vector over a site's taps. -/
def pooled (t : MapTable) (rows : List MapRow) (l : List Tap) (e : Nat) : Val :=
  rne32 (exactPool ((liveTaps rows l).map (fun x => x.w.mul (tableVal t rows (x.row.getD 0) e))))
where
  /-- Exact sum, +0 for zero. -/
  exactPool (vs : List Val) : Val :=
    let s := vs.foldl Val.add Val.zero
    if s.isZero then Val.zero else s

/-- The output row of a site. -/
def lookupRow (s : State) (p : PkgDecl) (f : Frame) (o : OpDecl) (rank : Nat) (t : Site) : Row :=
  let vals := (lookupTables o).flatMap (fun tb =>
    match boundTable s f tb.1 with
    | none => List.replicate tb.2.2 Val.zero
    | some (x, rows) =>
      let l := siteTaps (vhuDesc p) o.desc tb.1 tb.2.1 rows.length rank t
      (List.range tb.2.2).map (pooled x rows l))
  let r := packRow (tensFmt p (u16 o.desc 6)) vals
  ⟨r.1, r.2, 0⟩

/-- Gradient row of a site for a map update, none if its tag is flagged. R386 names no input format for it: the row's exact values
under their tag are taken, without a conversion of R273 (log entry 86, DESIGN CHOICE). -/
def gradRow (p : PkgDecl) (f : Frame) (o : OpDecl) (rank : Nat) : Option (List Val) :=
  let t := u16 o.desc 4
  let r := rowOf f.tensors t rank
  if rowFlagged r.tag then none else some ((List.range (tensC p t)).map (rowValue (tensFmt p t) r))

/-- Adds a contribution to the combined gradient of a row. -/
def addGrad (m : List (Nat × List Val)) (row : Nat) (c : List Val) : List (Nat × List Val) :=
  mapPut m row (match mapFind m row with
    | some g => List.zipWith (fun a b => rne32 (a.add b)) g c
    | none => c.map (fun v => rne32 (Val.zero.add v)))

/-- The combined gradients of a frame for one table (R386). -/
def tableGrads (p : PkgDecl) (f : Frame) (o lk : OpDecl) (tb : Nat × Nat × Nat) (off : Nat) (rows : List MapRow) :
    List (Nat × List Val) :=
  (enumFrom 0 (sitesOf f (byteAt lk.desc 4))).foldl (fun m t =>
    match gradRow p f o t.1 with
    | none => m
    | some g =>
      (liveTaps rows (siteTaps (vhuDesc p) lk.desc tb.1 tb.2.1 rows.length t.1 t.2)).foldl (fun m x =>
        addGrad m (x.row.getD 0) ((List.range tb.2.2).map (fun e => rne32 (x.w.mul (g.getD (off + e) Val.zero))))) m) []

/-- Bytes of the combining buffer of each die. -/
def combineBytes (s : State) : Nat := cfgFld s rMtuCfg 0 51 44 * 1048576

/-- Keeps a frame's gradients of a table if they fit every die's free combining buffer; otherwise none of the table's are
kept (R387). -/
def keepGrads (s : State) (f : Frame) (t : Nat) (gs : List Grad) : State × Frame × List Ev :=
  if f.gradsOff.contains t then (s, f, [])
  else
    let full := (computeDies s).filter (fun d => decide (combineBytes s < combineUsed s d + (gs.map (gradBytes s d)).sum))
    match full with
    | [] => (s, { f with grads := f.grads ++ gs }, [])
    | d :: _ => (ctxCnt s rMtuCtxCnt f.ctx 6 1,
        { f with grads := f.grads.filter (fun g => g.table != t), gradsOff := f.gradsOff ++ [t] },
        [{ code := 0x0D80, die := d, loc := f.ctx, limited := true }])

/-- Offsets of a lookup's tables in its channels. -/
def tableOffsets (tbs : List (Nat × Nat × Nat)) : List Nat := (runSums (tbs.map (·.2.2))).dropLast

/-- What a map update leaves: its gradients by table, and the rows skipped for their tag. -/
def updateResult (s : State) (p : PkgDecl) (f : Frame) (o : OpDecl) : State × Frame × List Ev :=
  let lk := lookupOf p o
  let n := (sitesOf f (byteAt lk.desc 4)).length
  let skipped := ((List.range n).filter (fun r => (gradRow p f o r).isNone)).length
  ((lookupTables lk).zip (tableOffsets (lookupTables lk))).foldl (fun a x =>
    let s1 := setFrame a.1 a.2.1
    match boundTable s1 a.2.1 x.1.1 with
    | none => a
    | some (_, rows) =>
      let gs := (tableGrads p a.2.1 o lk x.1 x.2 rows).map (fun g => (⟨x.1.1, g.1, g.2.map f32, u32 o.desc 8⟩ : Grad))
      let k := keepGrads s1 a.2.1 x.1.1 gs
      (k.1, k.2.1, a.2.2 ++ k.2.2)) (ctxCnt s rMtuCtxCnt f.ctx 7 skipped, f, [])

/-! ## MAP_LOOKUP_WINDOW -/

/-- The windows of a die for the operator; a map update has none outside a background frame. -/
def opWindows (s : State) (p : PkgDecl) (f : Frame) (o : OpDecl) (e : Nat) : List (Nat × List Tap) :=
  let lk := lookupOf p o
  if opCode o = cMapUpdate ∧ f.background = false then [] else dieWindows s p f lk.desc (lookupTables lk) e

/-- The operator's result once every window of every die is done. -/
def mtuResult (s : State) (p : PkgDecl) (f : Frame) (o : OpDecl) : State × Frame × List Ev :=
  if opCode o = cMapLookup then
    let rows := (enumFrom 0 (sitesOf f (byteAt o.desc 4))).map (fun t => (t.1, lookupRow s p f o t.1 t.2))
    let f1 := { f with tensors := mapPut f.tensors (u16 o.desc 6) rows }
    (match ctxOf s f.ctx with
     | some c => storeTensor s c f1 (stageWay f1) (u16 o.desc 6)
     | none => s, f1, [])
  else if f.background then updateResult s p f o else (s, f, [])

/-- A window of a lookup is counted; a window of an update is not. -/
def windowCounts (s : State) (f : Frame) (o : OpDecl) (ctx die : Nat) (w : Option (Nat × List Tap)) :
    State :=
  match w.bind (fun w => (boundTable s f w.1).map (fun t => (t, w.2))) with
  | some (t, l) => if opCode o = cMapLookup then countWindow s ctx die t.1 t.2 l else s
  | none => s

/-- MAP_LOOKUP_WINDOW: the next window of a die. -/
def execMapLookupWindow (ctx num die : Nat) (s : State) : Host.Outcome State Fault Refusal :=
  .next (
    match ctxOf s ctx, frameOf s ctx num with
    | some c, some f =>
      let ds := maskDies c.dieMask
      let p := declOf s c.pkg
      let o := runOp s f
      let total := fun x => (opWindows s p f o (posIn ds x)).length
      let at_ := mapGet 0 f.run.done die
      if stageServes s f die 0x0D && !itemsDone f.run.done die (total die) then
        let w := (opWindows s p f o (posIn ds die))[at_]?
        let s1 := windowCounts s f o ctx die w
        let n := min (total die) (at_ + 1)
        let s2 := if n = total die then returnLeave s1 f die (512 + 0x0D) else s1
        let f1 := { f with run := { f.run with done := mapPut f.run.done die n } }
        if ds.all (fun x => itemsDone f1.run.done x (total x)) then
          let r := mtuResult s2 p f1 o
          raise (endRun r.1 r.2.1 6) r.2.2
        else setFrame s2 f1
      else s
    | _, _ => s)

/-! ## MAPTABLE_REPLACE (R378 to R382) -/

def modTable (s : State) (t : Nat) (g : MapTable → MapTable) : State :=
  { s with tables := s.tables.map (fun x => if x.id == t then g x else x) }

/-- Contexts whose package names a table in a lookup, with the width it names. -/
def tableUsers (s : State) (t : Nat) : List (Ctx × Nat) :=
  s.ctxs.flatMap (fun c => ((declOf s c.pkg).ops.filter (fun o => opCode o == cMapLookup)).flatMap (fun o =>
    ((lookupTables o).filter (fun x => x.1 == t)).map (fun x => (c, x.2.2))))

/-- Fields of a first part's header. -/
def thW (b : List Byte) : Nat := u16 b 0
def thR (b : List Byte) : Nat := u32 b 4
def thS (b : List Byte) : Nat := byteAt b 8
def thMask (b : List Byte) : Nat := byteAt b 9

/-- The header is in range (R366, R379). -/
def headerOk (s : State) (b : List Byte) : Bool :=
  [8, 16, 32, 64, 128, 256].contains (thW b) && decide (1 ≤ thR b) && decide (thR b ≤ 4194304) && decide (1 ≤ thS b) &&
    decide (thS b ≤ (maskDies (thMask b)).length) && (maskDies (thMask b)).all (isDie s) && allZero (slice b 2 2) &&
    allZero (slice b 10 6)

/-- Records of 4 + 2W bytes, each with a class code and reserved bytes of 0. -/
def records (w : Nat) : Nat → List Byte → List (List Byte)
  | 0, _ => []
  | n + 1, b => if b = [] then [] else b.take (4 + 2 * w) :: records w n (b.drop (4 + 2 * w))

def recordOk (r : List Byte) : Bool := decide (byteAt r 0 ≤ 3) && allZero (slice r 1 3)

/-- A record as a row of its class. -/
def recordRow (w : Nat) (r : List Byte) : MapRow :=
  storeMapRow (byteAt r 0) ((List.range w).map (fun e => fBF16.value (u16 r (4 + 2 * e))))

/-- The part's bytes form whole records that are in range. -/
def recordsOk (w : Nat) (b : List Byte) : Bool :=
  b.length % (4 + 2 * w) == 0 && (records w b.length b).all recordOk

/-- Largest row of a width. -/
def maxRow (w : Nat) : Nat := max (rowBytes w 0) (rowBytes w 2)

/-- Footprint of a table of `n` rows of which some are placed, by their classes: every later row counts at the largest a row
can take. -/
def footOf (w n : Nat) (classes : List Nat) : Nat :=
  (classes.map (rowBytes w)).sum + (n - classes.length) * maxRow w

/-- Footprint a first part is judged by. -/
def declFootprint (b : List Byte) : Nat :=
  footOf (thW b) (thR b) ((records (thW b) b.length (b.drop 16)).map (fun r => byteAt r 0))

/-- A footprint makes a table small (R368, R394). -/
def isSmall (s : State) (foot : Nat) : Bool :=
  let k := cfgFld s rMtuCfg 0 43 32
  k != 0 && decide (foot ≤ k * 1024)

/-- Placement for a context (R383). -/
def placementOk (small : Bool) (mask : Nat) (c : Ctx) : Bool :=
  if small then c.dieMask &&& mask == c.dieMask else c.dieMask &&& mask == mask

/-- Checks 4 to 6 of a first part (R380). -/
def firstChecks (s : State) (t : Nat) (b : List Byte) : Nat :=
  let foot := declFootprint b
  let small := isSmall s foot
  let users := tableUsers s t
  let room := cfgFld s rMtuCfg 0 63 52 * 1048576 - combineBytes s
  if users.any (fun u => u.2 != thW b) then 0x0D05
  else if users.any (fun u => u.1.guaranteed && !placementOk small (thMask b) u.1) then 0x0D06
  else if (maskDies (thMask b)).any (fun d => decide (room < regionUsed s d + foot)) then 0x0D04
  else 0

/-- The table, or an ABSENT one. -/
def tableOr (s : State) (t : Nat) : MapTable :=
  (tableOf s t).getD
    { id := t, st := 0, width := 0, shards := 0, dies := 0, small := false, lostCopies := 0, epoch := 0, rows := [],
      oldRows := none, hits := [], since := 0, upd := [], load := none, flip := none, flipHeldRaised := false }

/-- A part's checks in order, 0 if none fails. `b` are the staged bytes. -/
def partStatus (s : State) (t : Nat) (first last : Bool) (row : Nat) (b : List Byte) : Nat :=
  let l := (tableOr s t).load
  let w := if first then thW b else ((l.map (·.width)).getD 0)
  let body := if first then b.drop 16 else b
  if first && (decide (b.length < 16) || !headerOk s b || !recordsOk w body) then 0x0D02
  else if !first && l.isSome && !recordsOk w body then 0x0D02
  else if first && l.isSome then 0x0D03
  else match (if first then some (0, thR b) else l.map (fun x => (x.rows.length, x.rowCount))) with
    | none => 0x0D03
    | some (placed_, r) =>
      let n := (records w body.length body).length
      if row ≠ placed_ ∨ r < placed_ + n ∨ (last = true ∧ placed_ + n ≠ r) ∨ (l.bind (·.slot)).isSome then 0x0D03
      else if first then firstChecks s t b else 0

/-- Acceptance of a first part (R381). Every update that the table holds is discarded with the flip, included in it or not
(log entry 77, DEDUCED). -/
def openLoad (s : State) (t : Nat) (b : List Byte) : State :=
  let x := tableOr s t
  let users := ((tableUsers s t).map (·.1)).filter (fun c => c.st == 2 || c.st == 4)
  let ids := (users.map (·.id)).eraseDups
  let s1 := dropUpdates (abandonFlip { s with tables := s.tables.filter (fun y => y.id != t) ++ [x] } t) t x.upd.length
  let ld : MapLoad := ⟨thW b, thR b, thS b, thMask b, [], false, [], none, ids⟩
  let s2 := modTable s1 t (fun y => { y with load := some ld, st := (if y.st = 2 then 3 else 1) })
  { s2 with ctxs := s2.ctxs.map (fun c => if ids.contains c.id then { c with st := 3, pausedDegraded := c.st == 4 } else c) }

/-- Contexts paused by a table resume, unless another table they use is being replaced, which then pauses them (R382). -/
def resumeCtxs (s : State) (t : Nat) (ids : List Nat) : State :=
  ids.foldl (fun a i =>
    match a.tables.find? (fun y => y.id != t && y.load.isSome && (tableUsers a y.id).any (fun u => u.1.id == i)) with
    | some y => modTable a y.id (fun z => { z with load := z.load.map (fun l => { l with paused := l.paused ++ [i] }) })
    | none => modCtx a i (fun c =>
        if c.st = 3 then { c with st := if c.pausedDegraded then 4 else 2, pausedDegraded := false } else c)) s

/-- Abort: the new rows are discarded and the old table stays in force (R380). A last part's command that waits for the
switch completes with MTU_PART_ORDER, a status the spec does not give (log entry 76, DESIGN CHOICE). -/
def abortLoad (s : State) (t : Nat) : State :=
  match (tableOr s t).load with
  | none => s
  | some l =>
    let back := fun (y : MapTable) => if y.st = 3 then 2 else if y.st = 1 then (if y.rows = [] then 0 else 4) else y.st
    let s1 := modTable s t (fun y => { y with load := none, st := back y })
    let s2 := resumeCtxs s1 t l.paused
    match l.slot with
    | some k => completeSlot s2 k 0x0D03 []
    | none => s2

/-- A row in another class (R389). -/
def reclassRow (w cls : Nat) (r : MapRow) : MapRow :=
  if r.cls = cls then r else storeMapRow cls ((List.range w).map (mapRowVal r))

/-- Free hot-cache bytes of a die, with the present hot rows of a table counted as free. -/
def hotFree (s : State) (d : Nat) (own : Nat) : Nat := 3145728 + own - hotUsed s d

/-- Hot rows a mask of dies can hold: the least over them. -/
def hotRoom (s : State) (t : MapTable) (mask w own : Nat) : Nat :=
  ((maskDies mask).map (fun d => hotFree s d (if bitOf t.dies d then own else 0) / (2 * w))).foldl min 4194304

/-- The rows of a load as they are placed, and whether the table is small so far: hot rows of a large table beyond the hot
cache free on a die of the mask become warm, highest rows first (R379). -/
def placedRows (s : State) (t : MapTable) (l : MapLoad) : List MapRow × Bool :=
  if isSmall s (footOf l.width l.rowCount (l.rows.map (·.cls))) then (l.rows, true)
  else
    let room := hotRoom (modTable s t.id (fun y => { y with load := none })) t l.dies l.width 0
    ((l.rows.foldl (fun (a : List MapRow × Nat) r =>
      if r.cls = 0 then (if a.2 < room then (a.1 ++ [r], a.2 + 1) else (a.1 ++ [reclassRow l.width 1 r], a.2))
      else (a.1 ++ [r], a.2)) ([], 0)).1, false)

/-- A part's rows join the load; `slot` is the last part's command. -/
def placePart (s : State) (t : Nat) (new : List MapRow) (slot : Option Nat) : State :=
  match (tableOr s t).load with
  | none => s
  | some l =>
    let l1 := { l with rows := l.rows ++ new }
    let r := placedRows s (tableOr s t) l1
    modTable s t (fun y => { y with load := some { l1 with placed := r.1, small := r.2, slot := slot } })

/-- MAPTABLE_REPLACE. -/
def maptableReplaceCmd (c : Cmd) (s : State) : State × CmdRes :=
  let t := u16 c.bytes 16
  let flags := byteAt c.bytes 18
  let count := u32 c.bytes 24
  let ch := c.slot / 8192
  let b := staged s ch (u16 c.bytes 20) count
  if pagesOk s ch (u16 c.bytes 20) (pageCount count) = false then fail s pageReservedErr
  else if 255 < t ∨ 8 ≤ flags ∨ byteAt c.bytes 19 ≠ 0 ∨ u16 c.bytes 22 ≠ 0 then fail s 0x0D02
  else if bitOf flags 2 then
    (if (tableOr s t).load.isSome then (abortLoad s t, .done 0 []) else fail s 0x0D03)
  else
    let first := bitOf flags 0
    let last := bitOf flags 1
    let st := partStatus s t first last (u32 c.bytes 28) b
    if st ≠ 0 then fail s st
    else
      let s1 := if first then openLoad s t b else s
      let w := (((tableOr s1 t).load).map (·.width)).getD 0
      let body := if first then b.drop 16 else b
      let new := (records w body.length body).map (recordRow w)
      let s2 := placePart s1 t new (if last then some c.slot else none)
      let n := (((tableOr s2 t).load).map (·.rows.length)).getD 0
      if last then (s2, .stay) else (s2, .done 0 (leBytes 4 n))

def execMaptableReplace (slot : Nat) (s : State) : Host.Outcome State Fault Refusal :=
  .next (withCmd 0x0033 slot s maptableReplaceCmd)

/-- TABLE_SWITCH: the last part is placed and no frame is bound to the old table. Updates that the old table still held are
discarded and counted (log entry 77, DEDUCED). -/
def execTableSwitch (table : Nat) (s : State) : Host.Outcome State Fault Refusal :=
  .next (
    match tableOf s table with
    | none => s
    | some t =>
      match t.load with
      | none => s
      | some l =>
        match l.slot with
        | none => s
        | some slot =>
          if boundTo s table t.epoch || t.oldRows.isSome then s
          else
            let s1 := modTable (dropUpdates s table t.upd.length) table (fun y =>
              { y with st := 2, width := l.width, shards := l.shards, dies := l.dies, small := l.small, lostCopies := 0,
                       epoch := y.epoch + 1, rows := l.placed, hits := [], since := 0, load := none, flip := none,
                       flipHeldRaised := false })
            completeSlot (resumeCtxs s1 table l.paused) slot 0 (leBytes 4 l.rows.length ++ leBytes 2 (t.epoch + 1)))

/-! ## Flips (R388 to R392) -/

/-- A re-class is due. -/
def reclassDue (s : State) (t : MapTable) : Bool :=
  let n := cfgFld s rMtuCfg 0 31 16
  n != 0 && decide (n ≤ t.since)

/-- Inserts a row by descending hit count, then ascending row. -/
def hitInsert (x : Nat × Nat) : List (Nat × Nat) → List (Nat × Nat)
  | [] => [x]
  | y :: l => if x.2 ≤ y.2 then y :: hitInsert x l else x :: y :: l

/-- Rows that become hot (R389). -/
def hotRows (s : State) (t : MapTable) : List Nat :=
  let hot := cfgFld s rMtuCfg 0 15 8
  let own := ((t.rows.filter (fun r => r.cls == 0)).length) * 2 * t.width
  let cand := ((enumFrom 0 t.rows).filter (fun r => r.2.cls != 3 && decide (hot ≤ mapGet 0 t.hits r.1))).foldl
    (fun a r => hitInsert (r.1, mapGet 0 t.hits r.1) a) []
  let l := cand.map (·.1)
  if t.small then l else l.take (hotRoom s t t.dies t.width own)

/-- The rows after the re-class. -/
def reclassed (s : State) (t : MapTable) : List MapRow :=
  let hot := cfgFld s rMtuCfg 0 15 8
  let warm := cfgFld s rMtuCfg 0 7 0
  let chosen := hotRows s t
  (enumFrom 0 t.rows).map (fun r =>
    let h := mapGet 0 t.hits r.1
    let cls := if chosen.contains r.1 then 0 else if hot ≤ h then 1 else if warm ≤ h then 1 else 2
    if r.2.cls = 3 then r.2 else reclassRow t.width cls r.2)

/-- The copies that the flip of a table adds find free slots on each die of its mask: a die's region or hot cache that the flip
takes nothing more of is not asked for room (R391, R392). -/
def copiesFit (s : State) (t : MapTable) : Bool :=
  let room := cfgFld s rMtuCfg 0 63 52 * 1048576 - combineBytes s
  let old := modTable s t.id (fun y => { y with flip := none })
  (maskDies t.dies).all (fun d =>
    (decide (regionUsed s d ≤ regionUsed old d) || decide (regionUsed s d ≤ room)) &&
    (decide (hotUsed s d ≤ hotUsed old d) || decide (hotUsed s d ≤ 3145728)))

/-- A flip that finds no free slots is held, and says so once (R392). -/
def holdFlip (s : State) (t : MapTable) : State :=
  if t.flipHeldRaised then s
  else raise (modTable s t.id (fun y => { y with flipHeldRaised := true }))
    [{ code := 0x0D81, die := (maskDies t.dies).headD 0, loc := t.id, limited := true }]

/-- FLIP_START: a READY table with held updates or a re-class due copies the rows that change. -/
def execFlipStart (table : Nat) (s : State) : Host.Outcome State Fault Refusal :=
  .next (
    match tableOf s table with
    | none => s
    | some t =>
      let due := reclassDue s t
      if t.st == 2 && t.flip.isNone && (due || !t.upd.isEmpty) then
        let rows := if due then reclassed s t else t.rows
        let s1 := modTable s table (fun y =>
          { y with flip := some ⟨rows, none⟩, hits := if due then [] else y.hits, since := if due then 0 else y.since })
        if copiesFit s1 t then s1 else holdFlip s t
      else s)

/-- One element of an update: the generator, the element's new value or none if it keeps its own (R388). -/
def newElem (eta : Nat) (old : Val) (g : Nat) : Option Val :=
  let x := rne32 (old.add (rne32 ((v32 eta).mul (v32 g))).neg)
  if (v32 g).isFinite && x.isFinite then some x else none

/-- The codes of the elements of a block in a format, with a draw for each that is stored; the others are converted as
they stand. -/
def drawCodes (fmt : FFmt) (k : Int) (gen : Nat) (l : List (Val × Option Val)) : Nat × List Nat :=
  l.foldl (fun a e =>
    match e.2 with
    | some v =>
      let d := srDraw a.1
      (d.1, a.2 ++ [stochastic fmt (v.shift (-k)) d.2])
    | none => (a.1, a.2 ++ [fmt.convert (e.1.shift (-k))])) (gen, [])

/-- A cold block of an update: scale by R274 over its new values; a block with nothing stored stays as it is. -/
def drawBlock (gen : Nat) (old : List Byte) (l : List (Val × Option Val)) : Nat × List Byte :=
  if l.all (·.2.isNone) then (gen, old)
  else
    let vs := l.map (fun e => e.2.getD e.1)
    let scale := (mxBlock 11 (vs ++ List.replicate (32 - vs.length) Val.zero)).1
    let r := drawCodes fE2M1 ((scale : Int) - 127) gen l
    (r.1, coldBlock scale (if vs.all Val.isZero then r.2.map (fun _ => 0) else r.2))

/-- A row under an update: generator, row, elements kept (R388). -/
def updateRow (w eta gen : Nat) (r : MapRow) (gs : List Nat) : Nat × MapRow × Nat :=
  let l := (List.range w).map (fun e =>
    let old := mapRowVal r e
    (old, newElem eta old (gs.getD e 0)))
  let kept := (l.filter (·.2.isNone)).length
  if r.cls = 0 then
    let c := drawCodes fBF16 0 gen l
    (c.1, ⟨0, c.2.flatMap (leBytes 2)⟩, kept)
  else if r.cls = 1 then
    let c := drawCodes fE4M3 0 gen l
    (c.1, ⟨1, c.2.map (BitVec.ofNat 8)⟩, kept)
  else
    let b := (List.range (ceilDiv w 32)).foldl (fun (a : Nat × List Byte) i =>
      let x := drawBlock a.1 (slice r.data (17 * i) 17) ((l.drop (32 * i)).take 32)
      (x.1, a.2 ++ x.2)) (gen, [])
    (b.1, ⟨r.cls, b.2⟩, kept)

/-- Inserts a gradient by row. -/
def gradInsert (g : Grad) : List Grad → List Grad
  | [] => [g]
  | x :: l => if x.row ≤ g.row then x :: gradInsert g l else g :: x :: l

/-- Applies one held update to the copied rows of a table. -/
def applyUpdate (w : Nat) (a : State × List MapRow) (u : HeldUpd) : State × List MapRow :=
  (u.grads.foldl (fun l g => gradInsert g l) []).foldl (fun a g =>
    match a.2[g.row]? with
    | none => a
    | some r =>
      if r.cls = 3 then a
      else
        let x := updateRow w g.eta (cfgGet a.1 rMtuSrState u.ctx) r g.vals
        let s1 := ctxCnt (ctxCnt (cfgPut a.1 rMtuSrState u.ctx x.1) rMtuCtxCnt u.ctx 5 1) rMtuCtxCnt u.ctx 6 x.2.2
        (s1, updAt a.2 g.row (fun _ => x.2.1))) a

/-- Inserts a held update in the order of its seal, then context (R388). -/
def updInsert (u : HeldUpd) : List HeldUpd → List HeldUpd
  | [] => [u]
  | x :: l =>
    if x.order < u.order || (x.order == u.order && x.ctx ≤ u.ctx) then x :: updInsert u l else u :: x :: l

/-- FLIP_CUTOFF: the copy ends, and the updates of frames sealed before this instant are applied to the copy. -/
def execFlipCutoff (table : Nat) (s : State) : Host.Outcome State Fault Refusal :=
  .next (
    match tableOf s table with
    | none => s
    | some t =>
      match t.flip with
      | some ⟨rows, none⟩ =>
        let l := t.upd.foldl (fun a u => updInsert u a) []
        let taken := l.takeWhile (fun u => decide (u.order < s.raw))
        let r := taken.foldl (applyUpdate t.width) (s, rows)
        let s1 := modTable r.1 table (fun y => { y with upd := l, flip := some ⟨r.2, some taken.length⟩ })
        if copiesFit s1 t then s1 else holdFlip s t
      | _ => s)

/-- FLIP_SWITCH: the new epoch becomes current once no frame is bound to the one before the old. -/
def execFlipSwitch (table : Nat) (s : State) : Host.Outcome State Fault Refusal :=
  .next (
    match tableOf s table with
    | none => s
    | some t =>
      match t.flip with
      | some ⟨rows, some n⟩ =>
        if t.oldRows.isSome then s
        else settleTables (modTable s table (fun y =>
          { y with epoch := y.epoch + 1, rows := rows, oldRows := some (y.epoch, y.rows), upd := y.upd.drop n,
                   flip := none, flipHeldRaised := false }))
      | _ => s)

end Sys2Proof.Machine
end

