-- ==== Sys2Proof/Machine/Paddocks.lean ====
section
/-!
DEFINITION. Gathers (R229), the paddock engine (R238 to R240) and accesses at a bank port (R234, R235, R237, R242, R244).
Conventions: log entry 13 (DESIGN CHOICE), log entry 28 (DEDUCED), log entry 32 (DEDUCED), log entry 51 (DEDUCED),
log entry 82 (DEDUCED).
-/
namespace Sys2Proof.Machine

/-! ## GATHER, GATHER_RETURN (R229) -/

/-- The source of a gather lies within its target. -/
def gatherExists (s : State) (g : Nat) (src : GatherSrc) (len : Nat) : Bool :=
  match src with
  | .paddock c a => decide (c < 5) && decide (a + len ≤ 2 ^ 23)
  | .remote d c a => isDie s d && d != stallDie g && decide (c < 5) && decide (a + len ≤ 2 ^ 23)
  | .memory d a => decide (d ≤ nDies s) && decide (a + len ≤ dieMemBytes s d)

/-- A read of a tensor that streams is one that R298 allows, of one line of hub main memory. -/
def gatherStreams (s : State) (g : Nat) (src : GatherSrc) : Bool :=
  match src with
  | .memory 0 a => streamAllows s g a
  | _ => true

/-- Target that a gather reads, die and number (R448); none outside the package. -/
def gatherTarget (s : State) (g : Nat) (src : GatherSrc) : Option (Nat × Nat) :=
  match src with
  | .paddock c _ => if c < 5 then some (stallDie g, c) else none
  | .remote d c _ => if isDie s d && d != stallDie g && decide (c < 5) then some (d, c) else none
  | .memory d _ => if d ≤ nDies s then some (d, 9) else none

def gatherAddr : GatherSrc → Nat
  | .paddock _ a => a
  | .remote _ _ a => a
  | .memory _ a => a

/-- Die whose paddock or memory a gather reads. -/
def gatherDie (g : Nat) (src : GatherSrc) : Nat :=
  match src with
  | .paddock _ _ => stallDie g
  | .remote d _ _ => d
  | .memory d _ => d

/-- The data network carries a gather there and its data back (R13, R18). -/
def gatherBack (s : State) (g : Nat) (src : GatherSrc) : Bool := reaches s (stallDie g) (gatherDie g src)

/-- A gather is sent there: a neighbour beyond a link that is down is reached from the stall's next tile boundary on (R17). The
data of one that was outstanding when the link went down comes through the hub (log entry 28, DESIGN CHOICE: R17 speaks of a
sender's traffic and not of what was under way). -/
def gatherRoute (s : State) (g : Nat) (src : GatherSrc) : Bool :=
  gatherBack s g src &&
    (!(hubWays s (stallDie g)).contains (gatherDie g src) || (stallOf s g).hubWay.contains (gatherDie g src))

/-- The work that a stall does: a frame's, or none (R447). -/
def stallFor (s : State) (g : Nat) : ReadFor :=
  match stallFrame s g with
  | some f => .frame f.ctx f.num
  | none => .other

/-- A stall works on: its die is in the package and powered, the stall is not off, and its pen's isolation gates are open
(R24). -/
def stallOn (s : State) (g : Nat) : Bool :=
  isDie s (stallDie g) && (dieOf s (stallDie g)).powered && pensLive s && (stallOf s g).view.data != .off &&
    !gatesClosed s (stallDie g) (penOf (stallLocal g))

/-- A stall's paddock engine operations, held or waiting. -/
def stallOps (s : State) (g : Nat) : List EngineOp :=
  match (dieOf s (stallDie g)).engines[stallLocal g / 8]? with
  | some e => (e.ops ++ e.waiting).filter (fun x => x.issuer == stallLocal g % 8)
  | none => []

/-- A thread holds: its gather is outstanding, or its engine operation is not complete (R229, R240). -/
def threadHolds (s : State) (g thread : Nat) : Bool :=
  (stallOf s g).gathers.any (fun x => x.thread == thread) || (stallOps s g).any (fun x => x.thread == thread)

/-- Threads that hold. -/
def threadsHeld (s : State) (g : Nat) : Nat := (stallOf s g).gathers.length + (stallOps s g).length

/-- A whole line of a tensor that streams is read (R298). -/
def gatherNote (s : State) (g : Nat) (src : GatherSrc) (len : Nat) : State :=
  match src with
  | .memory 0 a => if len = 64 ∧ a % 64 = 0 then noteStream s g a else s
  | _ => s

/-- A read past the end of its target is covered by no descriptor: it is refused and returns zeros (R449). -/
def gatherRefused (s : State) (g thread : Nat) (src : GatherSrc) (len : Nat) : State :=
  match gatherTarget s g src with
  | none => s
  | some t =>
    let r := stallFor s g
    modStall (fwRefuse s t.1 t.2 (domainOf s r) (gatherAddr src) false r) g (fun x =>
      { x with thrData := mapPut x.thrData thread (List.replicate len 0) })

/-- GATHER: a thread issues a read and holds; with all 128 threads outstanding it waits for one. -/
def execGather (stall thread : Nat) (src : GatherSrc) (len : Nat) (s : State) : Host.Outcome State Fault Refusal :=
  if stallOn s stall = false ∨ thread ≥ 128 ∨ len = 0 ∨ len > 64 then .next s
  else if gatherExists s stall src len = false then
    .next (if threadHolds s stall thread then s else gatherRefused s stall thread src len)
  else if gatherRoute s stall src = false ∨ gatherStreams s stall src = false then .next s
  else
    let g : Gather := ⟨thread, src, len, stallFor s stall, []⟩
    let s1 := gatherNote s stall src len
    if 128 ≤ threadsHeld s stall then
      .next (cntAdd (modStall s1 stall (fun t => { t with waiting := t.waiting ++ [g] })) rDcuStallCnt
        (stall * 8 + 4) 1)
    else if threadHolds s stall thread then .next s
    else .next (modStall s1 stall (fun t => { t with gathers := t.gathers ++ [g] }))

/-- The data of a gather has arrived: a read of main memory is answered on its return; one of a paddock once its accesses
at the bank ports have read every byte. -/
def gatherArrived (x : Gather) : Bool :=
  match x.src with
  | .memory _ _ => true
  | _ => x.got.length == x.len

/-- What a gather returns: a refused read of main memory returns zeros (R449). -/
def gatherData (s : State) (x : Gather) : List Byte × State :=
  match x.src with
  | .memory d a => fwRead s d 9 (domainOf s x.for_) a x.len x.for_
  | _ => (x.got, s)

/-- The first waiting gather takes a thread that has become free (R229). -/
def takeThread (t : StallSt) (thread : Nat) : StallSt :=
  { t with gathers := t.gathers ++ (t.waiting.take 1).map (fun y => { y with thread := thread }), waiting := t.waiting.drop 1 }

/-- GATHER_RETURN: the data arrives at a stall whose ports are open (R24), and its thread is free. -/
def execGatherReturn (stall thread : Nat) (s : State) : Host.Outcome State Fault Refusal :=
  .next (
    match (stallOf s stall).gathers.find? (fun x => x.thread == thread) with
    | none => s
    | some x =>
      if stallOn s stall && gatherArrived x && gatherBack s stall x.src then
        let r := gatherData s x
        modStall r.2 stall (fun t => takeThread
          { t with gathers := t.gathers.filter (fun y => y.thread != thread), thrData := mapPut t.thrData thread r.1 } thread)
      else s)

/-! ## The paddock engine (R238 to R240) -/

/-- The engine of a cluster takes operations: its die is in the package and powered, and its paddock controller accepts
work (R40). -/
def engineOn (s : State) (d cluster : Nat) : Bool :=
  isDie s d && (dieOf s d).powered && pensLive s && decide (cluster < 5) && unitServes s d 0x0B cluster

def engineOf (s : State) (d cluster : Nat) : Engine := (dieOf s d).engines.getD cluster Engine.reset

def modEngine (s : State) (d cluster : Nat) (f : Engine → Engine) : State :=
  modDie s d (fun x => { x with engines := updAt x.engines cluster f })

/-- Line-aligned, and a number of lines within range. -/
def engineOk (addrs : List Nat) (n : Nat) : Bool := addrs.all (fun a => a % 64 == 0) && decide (1 ≤ n) && decide (n ≤ 131072)

/-- The issuer can issue: a stall whose gates are open and whose thread does not hold, or the work distributor (R24,
R240). -/
def issuerOn (s : State) (d cluster issuer thread : Nat) : Bool :=
  issuer == 8 ||
    (let g := stallIdx d (cluster * 8 + issuer)
     decide (issuer < 8) && stallOn s g && decide (thread < 128) && !threadHolds s g thread)

/-- The first line of an operation that lies past the paddock, and whether the operation writes it. -/
def pastLine (op : EngineOp) : Option (Nat × Bool) :=
  match op.src with
  | some a => if 2 ^ 23 < a + 64 * op.n then some (max a (2 ^ 23), false)
    else if 2 ^ 23 < op.dst + 64 * op.n then some (max op.dst (2 ^ 23), true) else none
  | none => if 2 ^ 23 < op.dst + 64 * op.n then some (max op.dst (2 ^ 23), true) else none

/-- Issues an operation: it is held in its issuer's entry, or waits for the issuer's own previous one. One that is not
performed flags the issuing stall's tile (R238, R240); one that leaves the paddock is refused as a whole (R449; log entry 82,
DEDUCED). -/
def engineIssue (s : State) (d cluster : Nat) (op : EngineOp) : Host.Outcome State Fault Refusal :=
  let addrs := op.dst :: op.src.toList
  let i := cluster * 8 + op.issuer
  if engineOn s d cluster = false ∨ issuerOn s d cluster op.issuer op.thread = false then .next s
  else if engineOk addrs op.n = false then
    .next (if op.issuer < 8 then
      modDie s d (fun x => { x with stalls := updAt x.stalls i (fun t => { t with flagged := true }) })
    else s)
  else
    let x := { op with for_ := if op.issuer < 8 then stallFor s (stallIdx d i) else op.for_ }
    match pastLine op with
    | some l => .next (fwRefuse s d cluster (domainOf s x.for_) l.1 l.2 x.for_)
    | none => .next (modEngine s d cluster (fun e =>
      if e.ops.any (fun y => y.issuer == op.issuer) then { e with waiting := e.waiting ++ [x] }
      else { e with ops := e.ops ++ [x] }))

/-- FILL. -/
def execFillLines (die cluster : Nat) (issuer : EngineUser) (addr n : Nat) (pattern : List Byte) (s : State) :
    Host.Outcome State Fault Refusal :=
  if pattern.length = 8 then engineIssue s die cluster ⟨issuer.issuer, issuer.thread, issuer.for_, none, addr, n, pattern, 0, none⟩ else .next s

/-- COPY. -/
def execCopyLines (die cluster : Nat) (issuer : EngineUser) (src dst n : Nat) (s : State) :
    Host.Outcome State Fault Refusal :=
  engineIssue s die cluster ⟨issuer.issuer, issuer.thread, issuer.for_, some src, dst, n, [], 0, none⟩

/-- Two line ranges of n and m lines meet. -/
def rangesMeet (a n b m : Nat) : Bool := decide (a < b + 64 * m) && decide (b < a + 64 * n)

/-- An operation touches a line that an earlier one writes, or reads for a copy. -/
def opsMeet (x y : EngineOp) : Bool :=
  (x.dst :: x.src.toList).any (fun a => (y.dst :: y.src.toList).any (fun b => rangesMeet a x.n b y.n))

/-- No earlier operation holds the issuer's (R240). -/
def opFree (e : Engine) (op : EngineOp) : Bool := !((e.ops.takeWhile (fun x => x.issuer != op.issuer)).any (opsMeet op))

/-- An operation that the engine can serve: its lines are not all moved, and no earlier one holds it. -/
def canServe (e : Engine) (issuer : Nat) : Bool :=
  (e.ops.find? (fun x => x.issuer == issuer)).any (fun x => decide (x.moved < x.n) && opFree e x)

/-- Entries after a number, in ascending order and round again. -/
def rotation (turn : Nat) : List Nat := (List.range 9).map (fun i => (turn + 1 + i) % 9)

/-- The operation that the engine serves next: the one of the present grant up to its 16 lines, then the next entry in
rotation. -/
def serveNext (e : Engine) : Option EngineOp :=
  let who := if canServe e e.turn && decide (e.lines < 16) then some e.turn else (rotation e.turn).find? (canServe e)
  who.bind (fun i => e.ops.find? (fun x => x.issuer == i))

/-- Number of an operation's next line. A copy whose destination lies above its source goes downwards, so that it reads every
source line before it writes it (R239). -/
def lineNo (op : EngineOp) : Nat :=
  match op.src with
  | some a => if a < op.dst then op.n - 1 - op.moved else op.moved
  | none => op.moved

/-- Address of the next access of an operation: a copy reads a line and then writes it. -/
def lineAddr (op : EngineOp) : Nat :=
  match op.src, op.buf with
  | some a, none => a + 64 * lineNo op
  | _, _ => op.dst + 64 * lineNo op

/-- The engine with one access of an operation made: a line read, or a line moved. -/
def engineMade (e : Engine) (op : EngineOp) (read : Option (List Byte)) : Engine :=
  let x := match read with
    | some b => { op with buf := some b }
    | none => { op with buf := none, moved := op.moved + 1 }
  let n := if read.isSome then 0 else 1
  { e with ops := e.ops.map (fun y => if y.issuer == op.issuer then x else y), turn := op.issuer,
           lines := if e.turn = op.issuer ∧ e.lines < 16 then e.lines + n else n }

/-- An engine access at the bank port: the next line of the operation served. -/
def engineLine (s : State) (d cluster addr : Nat) : State :=
  let e := engineOf s d cluster
  match serveNext e with
  | none => s
  | some op =>
    if lineAddr op ≠ addr then s
    else if op.src.isSome && op.buf.isNone then
      let r := fwRead s d cluster (domainOf s op.for_) addr 64 op.for_
      modEngine r.2 d cluster (fun e => engineMade e op (some r.1))
    else
      let data := op.buf.getD (List.replicate 8 op.pattern).flatten
      modEngine (fwWrite s d cluster (domainOf s op.for_) addr data op.for_) d cluster (fun e => engineMade e op none)

/-- The engine with an issuer's operation complete: the issuer's first waiting one takes the entry. -/
def engineFree (e : Engine) (issuer : Nat) : Engine :=
  let mine := e.waiting.find? (fun x => x.issuer == issuer)
  { e with ops := e.ops.filter (fun y => y.issuer != issuer) ++ mine.toList,
           waiting := match mine with | some x => e.waiting.erase x | none => e.waiting }

/-- PADDOCK_ENGINE_DONE: an operation whose lines are all moved completes and releases its thread, which the first waiting
gather takes. -/
def execPaddockEngineDone (die cluster issuer : Nat) (s : State) : Host.Outcome State Fault Refusal :=
  .next (
    match (engineOf s die cluster).ops.find? (fun x => x.issuer == issuer) with
    | none => s
    | some op =>
      if op.moved < op.n then s
      else
        let i := (die * 5 + cluster) * 8
        let s1 := modEngine s die cluster (fun e => engineFree e issuer)
        let g := stallIdx die (cluster * 8 + issuer)
        let s2 := if issuer < 8 && !threadHolds s1 g op.thread then modStall s1 g (fun t => takeThread t op.thread) else s1
        cntAdd s2 rPdkClusterCnt (i + (if op.src.isSome then 3 else 2)) op.n)

/-! ## PADDOCK_ACCESS (R234, R235, R237, R244) -/

/-- Address and length of an access. -/
def accAddr (a : PaddockAcc) : Nat :=
  match a with
  | .read x _ => x
  | .write x _ => x
  | .stage x _ => x
  | .drain x => x
  | .line x => x
  | .move x => x

def accLen (a : PaddockAcc) : Nat :=
  match a with
  | .read _ n => n
  | .write _ d => d.length
  | _ => 64

/-- Accesses within a line that an access of up to 64 bytes is made as: address and length (R235). -/
def accPieces (a : PaddockAcc) : List (Nat × Nat) :=
  let x := accAddr a
  let n := accLen a
  if x % 64 + n ≤ 64 then [(x, n)] else [(x, 64 - x % 64), (x + (64 - x % 64), n - (64 - x % 64))]

/-- The next bytes that a gather of a stall reads at a paddock: die, cluster, address and length, within one line. -/
def gatherNext (g : Nat) (x : Gather) : Option (Nat × Nat × Nat × Nat) :=
  let n := fun (a : Nat) => min (x.len - x.got.length) (64 - (a + x.got.length) % 64)
  match x.src with
  | .paddock c a => some (stallDie g, c, a + x.got.length, n a)
  | .remote d c a => some (d, c, a + x.got.length, n a)
  | .memory _ _ => none

/-- A requester carries the gathers of a stall: its own, or at the ingress those of the other clusters and dies (R242). -/
def carries (d cluster req g : Nat) : Bool :=
  if req < 8 then g == stallIdx d (cluster * 8 + req)
  else req == 9 && !(stallDie g == d && stallLocal g / 8 == cluster)

/-- The gather that a read at a bank port serves: of its requester, the first one issued with bytes to read in that bank,
if those are the bytes read; a stall whose ports are cut is served none (R24). -/
def servedGather (s : State) (d cluster req addr n : Nat) : Option (Nat × Gather) :=
  let stalls := ((computeDies s).flatMap (fun e => (List.range 40).map (stallIdx e))).filter (fun g =>
    carries d cluster req g && stallOn s g)
  let first := fun (g : Nat) => ((stallOf s g).gathers.find? (fun x =>
    match gatherNext g x with
    | some (e, c, a, k) => e == d && c == cluster && a / 2 ^ 17 == addr / 2 ^ 17 && k != 0
    | none => false)).map (fun x => (g, x))
  (stalls.filterMap first).find? (fun y => gatherNext y.1 y.2 == some (d, cluster, addr, n))

/-- A read at a bank port: its data goes to the gather it serves; a refused one gives zeros (R449). -/
def accRead (s : State) (d cluster req addr n : Nat) (r : ReadFor) : State :=
  match servedGather s d cluster req addr n with
  | some (g, x) =>
    let b := fwRead s d cluster (domainOf s x.for_) addr n x.for_
    modStall b.2 g (fun t => { t with gathers := t.gathers.map (fun y =>
      if y.thread == x.thread then { y with got := y.got ++ b.1 } else y) })
  | none => (fwRead s d cluster (domainOf s r) addr n r).2

/-- The 64 bytes of line i of an accumulator set. -/
def setLine (m : List (Nat × Nat)) (i : Nat) : List Byte := (List.range 16).flatMap (fun k => leBytes 4 (mapGet 0 m (16 * i + k)))

/-- A line that a unit of the die has to move (R242): the first of the requester's in the bank, if it is the one at that address. The
data goes to the line, or from it to the loft or to main memory. -/
def moveLine (s : State) (d cluster req addr : Nat) : State :=
  match (dieOf s d).xfers.find? (fun x => x.req == req && x.cluster == cluster && x.addr / 2 ^ 17 == addr / 2 ^ 17) with
  | none => s
  | some x =>
    if x.addr ≠ addr then s
    else
      let s1 := modDie s d (fun y => { y with xfers := y.xfers.erase x })
      let dom := domainOf s x.for_
      match x.out with
      | none => fwWrite s1 d cluster dom addr x.data x.for_
      | some a =>
        let r := fwRead s1 d cluster dom addr x.data.length x.for_
        if req = 10 then fwWrite r.2 d 5 dom (16 * a) r.1 x.for_ else fwWrite r.2 d 9 dom a r.1 x.for_

/-- One access within a line takes effect (R230, R231, R237); `off` is its place in the command's data. A line that is staged or
drained at an address across two lines moves in two parts (R235). -/
def accEffect (s : State) (d cluster req : Nat) (acc : PaddockAcc) (r : ReadFor) (off : Nat) (p : Nat × Nat) : State :=
  let g := stallIdx d (cluster * 8 + req)
  match acc with
  | .read _ _ => accRead s d cluster req p.1 p.2 r
  | .write _ data => fwWrite s d cluster (domainOf s r) p.1 (slice data off p.2) r
  | .stage _ l =>
    if req < 8 ∧ l < 2048 then
      let b := fwRead s d cluster (domainOf s r) p.1 p.2 r
      modStall b.2 g (fun t => { t with near := mapPut t.near l (padTo 64 (overlay ((mapFind t.near l).getD (List.replicate 64 0)) off b.1)) })
    else s
  | .drain _ =>
    if req < 8 ∧ (stallOf s g).drain ≠ 0 then
      let data := slice (setLine (stallOf s g).shadow (64 - (stallOf s g).drain)) off p.2
      modStall (fwWrite s d cluster (domainOf s r) p.1 data r) g (fun t =>
        { t with drain := if off + p.2 = 64 then t.drain - 1 else t.drain })
    else s
  | .line _ => if req = 8 ∧ off = 0 then engineLine s d cluster p.1 else s
  | .move _ => if 9 ≤ req ∧ off = 0 then moveLine s d cluster req p.1 else s

/-- The slot of an access: counted for its requester's kind. -/
def countSlot (s : State) (d cluster req : Nat) : State :=
  cntAdd s rPdkClusterCnt ((d * 5 + cluster) * 8 + (if req < 8 then 0 else 1)) 1

/-- One access within a line by the owner of the bank port's grant: a slot, which every waiting request waits, the effect,
and the limit. -/
def accPiece (d cluster req : Nat) (acc : PaddockAcc) (r : ReadFor) (a : State × List Ev) (p : Nat × Nat) :
    State × List Ev :=
  andThen a (fun s =>
    let b := ArbId.bank d cluster (p.1 / 2 ^ 17)
    let x := arbOf s b
    if x.owner == some req then
      let overs := decide (burstLimit b req < x.used + 1)
      let y : ArbSt := { x with used := x.used + 1, waiting := x.waiting.map (fun w => { w with slots := w.slots + 1 }) }
      let s1 := setArb (countSlot (accEffect s d cluster req acc r (p.1 - accAddr acc) p) d cluster req) b y
      if overs then burstOver (setArb s1 b { y with owner := none }) b req else (s1, [])
    else (s, []))

/-- The owner drops its request at the banks of an access; the engine's present grant ends (R239, R244). -/
def dropGrants (s : State) (d cluster req : Nat) (pieces : List (Nat × Nat)) : State :=
  let s1 := pieces.foldl (fun a p =>
    let b := ArbId.bank d cluster (p.1 / 2 ^ 17)
    if (arbOf a b).owner == some req then setArb a b { arbOf a b with owner := none } else a) s
  if req = 8 then modEngine s1 d cluster (fun e => { e with lines := 16 }) else s1

/-- An access that reaches past the paddock is covered by no descriptor: it is refused (R449). -/
def accRefused (s : State) (d cluster : Nat) (acc : PaddockAcc) (r : ReadFor) : State :=
  match acc with
  | .read a _ => fwRefuse s d cluster (domainOf s r) a false r
  | .write a _ => fwRefuse s d cluster (domainOf s r) a true r
  | _ => s

/-- Through closed gates a stall only drains a tile that it has completed (R24, R38). -/
def accThrough (s : State) (d cluster req : Nat) (acc : PaddockAcc) : Bool :=
  decide (8 ≤ req) || !gatesClosed s d (penOf (cluster * 8 + req)) ||
    (match acc with | .drain _ => true | _ => false)

/-- The work that an access of a requester is for: a stall's own, otherwise as the command says (R447). -/
def accFor (s : State) (d cluster req : Nat) (r : ReadFor) : ReadFor :=
  if req < 8 then stallFor s (stallIdx d (cluster * 8 + req)) else r

/-- PADDOCK_ACCESS: the owner of a bank port's grant makes an access; one that spans two lines is two accesses. -/
def execPaddockAccess (die cluster : Nat) (user : PadUser) (acc : PaddockAcc) (drop : Bool) (s : State) :
    Host.Outcome State Fault Refusal :=
  .next (
    if partOn s && isDie s die && decide (cluster < 5) && pensLive s && unitServes s die 0x0B cluster &&
        decide (1 ≤ accLen acc) && decide (accLen acc ≤ 64) && portOpen s (.bank die cluster 0) user.req &&
        accThrough s die cluster user.req acc then
      let work := accFor s die cluster user.req user.for_
      if 2 ^ 23 < accAddr acc + accLen acc then accRefused s die cluster acc work
      else
        let pieces := accPieces acc
        let r := pieces.foldl (accPiece die cluster user.req acc work) (s, [])
        raise (if drop then dropGrants r.1 die cluster user.req pieces else r.1) r.2
    else s)

end Sys2Proof.Machine
end

