-- ==== Sys2Proof/Machine/PkgCheck.lean ====
section
/-!
DEFINITION. The checks of a package's declarations and operators by PKG_LOAD (R560 checks 3 to 7): R186, R189, R205,
R220, R221, R260, R290, R306, R311, R314, R319, R322, R323, R328, R329, R336, R342, R344, R348, R351, R352, R360, R361,
R369, R370, R385. Each check answers the status of its rule, 0 where it holds.
Conventions: log entry 41 (DEDUCED).
-/
namespace Sys2Proof.Machine

/-- The first status of a list that is not 0. -/
def firstBad (l : List Nat) : Nat := (l.find? (· != 0)).getD 0

/-- Status `code` where the condition fails. -/
def need (ok : Bool) (code : Nat) : Nat := if ok then 0 else code

def inRange (v lo hi : Nat) : Bool := decide (lo ≤ v) && decide (v ≤ hi)

/-- A finite FP32 value. -/
def fin32 (v : Nat) : Bool := v / 2 ^ 23 % 256 != 255

/-- An FP32 value that is a NaN. -/
def nan32 (v : Nat) : Bool := v / 2 ^ 23 % 256 == 255 && v % 2 ^ 23 != 0

/-! ## Framing (R560 check 3) -/

/-- Descriptor length of an operator code, none for a code that no chapter gives. -/
def descLen (code : Nat) : Option Nat :=
  if [cDeskew, cCurve, cRulebook, cActivation, cMapUpdate, cMapAct, cSuppress, cZone].contains code then some 16
  else if code = cScatter then some 32
  else if [cVoxelise, cMapLookup, cCompact, cTopK].contains code then some 48
  else if [cConv, cAttention, cDense].contains code then some 64
  else none

/-- Every table entry has its length. -/
def framed (p : PkgDecl) : Bool :=
  p.tensors.all (fun t => t.length == 16) && p.maps.all (fun t => t.length == 16) &&
    p.weights.all (fun w => w.1.length == 48) && p.ops.all (fun o => descLen (opCode o) == some o.desc.length)

/-! ## Declaration tables (R319, R342, R314) -/

def tensorOk (i : Nat) (t : List Byte) : Bool :=
  decide (i ≤ 1023) && decide (byteAt t 0 ≤ 4) && decide (byteAt t 1 ≤ 13) && inRange (u16 t 2) 1 1024 && allZero (t.drop 4) &&
    (i != 0 || (byteAt t 0 == 0 && byteAt t 1 == 4 && u16 t 2 == 32))

def mapOk (i : Nat) (t : List Byte) : Bool :=
  decide (i ≤ 63) && decide (byteAt t 0 ≤ 13) && decide (byteAt t 1 ≤ 8) && inRange (u16 t 2) 1 1024 && inRange (u16 t 4) 1 1024 &&
    inRange (u16 t 6) 1 1024 && decide (u16 t 4 * u16 t 6 ≤ 262144) && allZero (t.drop 8)

/-- A format of an operand: 0 to 5 or 7 to 12. -/
def operandFmt (f : Nat) : Bool := decide (f ≤ 5) || inRange f 7 12

/-- Regions of a tensor: header, bitmap, offset table, data, scales, predictor rows, as offset and length. -/
def tensorRegions (h : List Byte) : List (Nat × Nat) :=
  [(0, 48), (u32 h 16, whBitmapLen h), (u32 h 20, whTableLen h), (u32 h 24, whDataLen h), (u32 h 32, whScaleLen h),
    (u32 h 36, whPredLen h)]

/-- Two regions share a byte. -/
def regionsMeet (a b : Nat × Nat) : Bool := a.2 != 0 && b.2 != 0 && decide (a.1 < b.1 + b.2) && decide (b.1 < a.1 + a.2)

def apart : List (Nat × Nat) → Bool
  | [] => true
  | a :: l => !(l.any (regionsMeet a)) && apart l

/-- Header fields of R290. -/
def weightFields (h : List Byte) : Bool :=
  operandFmt (whFmt h) && decide (byteAt h 1 < 8) && allZero (slice h 2 2) && inRange (whO h) 1 65536 &&
    inRange (whK h) 1 4194304 && decide (whP h ≤ whTo h * whTk h) && (whCompressed h || (whP h == 0 && u32 h 16 == 0 && u32 h 20 == 0)) &&
    whDataLen h % 8 == 0 && (isMx (whFmt h) || u32 h 32 == 0) && (whPredictor h || u32 h 36 == 0) && allZero (slice h 40 8)

/-- R311: compressed, no predictor rows, every group of every present tile coded. -/
def adaptableOk (h d : List Byte) : Bool :=
  !whAdaptable h || (whCompressed h && !whPredictor h &&
    (List.range (whP h)).all (fun i => tileModes (h ++ d) i == 2 ^ 128 - 1))

/-- A weight tensor (R314). -/
def weightOk (w : List Byte × List Byte) : Bool :=
  let r := tensorRegions w.1
  weightFields w.1 && r.all (fun x => x.2 == 0 || decide (x.1 + x.2 ≤ 48 + w.2.length)) && apart r &&
    (whP w.1 == 0 || whDataLen w.1 != 0) && adaptableOk w.1 w.2

def tablesStatus (p : PkgDecl) : Nat :=
  firstBad [need (!p.tensors.isEmpty && (enumFrom 0 p.tensors).all (fun t => tensorOk t.1 t.2)) 0x0103,
    need ((enumFrom 0 p.maps).all (fun t => mapOk t.1 t.2)) 0x0107, need (p.weights.all weightOk) 0x0102]

/-! ## Operators 0 to 2 (R186, R189, R205) -/

def deskewOk (d : List Byte) : Bool :=
  u16 d 0 == cDeskew && allZero (slice d 2 2) && inRange (u32 d 4) 1000 1000000 && decide (u32 d 8 ≤ 1000000) && allZero (slice d 12 4)

def voxeliseOk (d : List Byte) : Bool :=
  u16 d 0 == cVoxelise && decide (byteAt d 2 ≤ 1) && byteAt d 3 == 0 &&
    (if byteAt d 2 = 0 then u32 d 4 == 0 else inRange (u32 d 4) 1000 100000000) &&
    (List.range 3).all (fun a => inRange (u32 d (20 + 4 * a)) 1 4096 && inRange (u32 d (32 + 4 * a)) 1 2097152) && allZero (slice d 44 4)

def curveOk (d : List Byte) : Bool := u16 d 0 == cCurve && decide (byteAt d 2 ≤ 1) && allZero (slice d 3 13)

def headStatus (p : PkgDecl) : Nat :=
  firstBad [need (deskewOk (opAt p 0).desc) 0x0704, need (voxeliseOk (opAt p 1).desc) 0x0801,
    need (curveOk (opAt p 2).desc) 0x0901]

/-! ## Control blocks (R260, R306) -/

/-- The arithmetic control block of a descriptor. -/
def acbOk (d : List Byte) : Bool :=
  let fused := acbOp d != 0 || acbPreload d
  operandFmt (acbA d) && operandFmt (acbW d) &&
    (if intPath d then [0, 1, 13].contains (acbOut d) else inRange (acbOut d) 2 12) &&
    (if fused then (if intPath d then acbFused d == 13 else inRange (acbFused d) 2 6) else acbFused d == 0) &&
    acbOp d != 3 && (acbOp d != 2 || !intPath d) && (!acbPreload d || (acbOp d == 0 && (acbFused d == 6 || acbFused d == 13))) &&
    decide (byteAt d 18 < 8) && decide (byteAt d 19 < 32) && (acbShift d == 0 || (intPath d && decide (acbOut d ≤ 1))) &&
    acbLp d % 64 == 0 && inRange (acbLp d) 64 65536 && allZero (slice d 24 8)

/-- The sparsity control block, its own fields. -/
def scbOk (d : List Byte) : Bool :=
  decide (byteAt d 32 < 8) && (!scbPrune d || (!intPath d && acbOut d == 6)) &&
    (if scbPredict d then decide (-32 ≤ scbSigma d) && decide (scbSigma d ≤ 31)
     else byteAt d 33 == 0 && u32 d 36 == 0 && u32 d 40 == 0) &&
    (scbPrune d || scbTarget d == 0) && allZero (slice d 44 4)

/-- What it names: predictor rows of W, and an adaptable target. -/
def scbNames (p : PkgDecl) (d : List Byte) (w : Nat) : Bool :=
  (!scbPredict d || whPredictor (wHead p w)) &&
    (!scbPrune d || (decide (scbTarget d < p.weights.length) && whAdaptable (wHead p (scbTarget d))))

/-! ## Feature tensors and maps that operators name (R319, R342) -/

/-- Feature tensors an operator writes, reads as operands, and reads as fused. -/
def tensWrites (o : OpDecl) : List Nat :=
  let d := o.desc
  if opCode o = cConv ∨ opCode o = cActivation ∨ opCode o = cMapLookup then [u16 d 6]
  else if opCode o = cAttention then [u16 d 12] else []

def tensReads (o : OpDecl) : List Nat :=
  let d := o.desc
  if opCode o = cConv ∨ opCode o = cActivation ∨ opCode o = cScatter ∨ opCode o = cMapUpdate then [u16 d 4]
  else if opCode o = cAttention then [u16 d 6, u16 d 8, u16 d 10] else []

def tensFused (o : OpDecl) : List Nat :=
  let d := o.desc
  if opCode o = cConv then (if byteAt d 3 = 1 then [u16 d 10] else [])
  else if opCode o = cAttention then (if acbOp d = 0 then [] else [u16 d 14]) else []

def mapWrites (o : OpDecl) : List Nat :=
  let d := o.desc
  if opCode o = cScatter ∨ opCode o = cMapAct then [u16 d 6] else if opCode o = cDense then [u16 d 10] else []

def mapReads (o : OpDecl) : List Nat :=
  let d := o.desc
  if opCode o = cDense then [u16 d 8] else if opCode o = cMapAct then [u16 d 4]
  else if opCode o = cCompact ∨ opCode o = cTopK then [u16 d 2] else []

def mapFused (o : OpDecl) : List Nat := if opCode o = cDense ∧ byteAt o.desc 6 = 1 then [u16 o.desc 14] else []

/-- Formats 6 and 13 are read only as fused. -/
def wideFmt (f : Nat) : Bool := f == 6 || f == 13

/-- The tensors that operator `o` names after the operators `before`. -/
def tensorsNamed (p : PkgDecl) (before : List OpDecl) (o : OpDecl) : Bool :=
  let written := 0 :: before.flatMap tensWrites
  (tensReads o).all (fun t => written.contains t && !wideFmt (tensFmt p t)) && (tensFused o).all written.contains &&
    (tensWrites o).all (fun t => decide (t < p.tensors.length) && !written.contains t)

def mapsNamed (p : PkgDecl) (before : List OpDecl) (o : OpDecl) : Bool :=
  let written := before.flatMap mapWrites
  (mapReads o).all (fun t => written.contains t && !wideFmt (mapFmt p t)) && (mapFused o).all written.contains &&
    (mapWrites o).all (fun t => decide (t < p.maps.length) && !written.contains t)

/-! ## Rulebooks (R220, R221) -/

def rulebookFields (d : List Byte) : Bool :=
  let k := byteAt d 2
  let ks := [byteAt d 5, byteAt d 6, byteAt d 7]
  decide (k ≤ 4) && decide (byteAt d 3 ≤ 15) && decide (byteAt d 4 ≤ (if k = 0 then 4 else if k = 1 then 3 else 0)) &&
    (if k = 0 then ks.all [1, 3, 5].contains else if k = 1 then (ks == [2, 2, 2] || ks == [3, 3, 3]) else ks == [0, 0, 0]) &&
    (k == 2 || byteAt d 8 == 0) && (if 3 ≤ k then [16, 32, 64, 128].contains (byteAt d 9) else byteAt d 9 == 0) &&
    (if k = 3 then inRange (byteAt d 10) 1 64 else if k = 4 then inRange (byteAt d 10) 1 32 else byteAt d 10 == 0) &&
    byteAt d 11 == 0 && (if k = 3 then inRange (u32 d 12) 1 (2 ^ 31 - 1) else u32 d 12 == 0)

/-- Earlier rulebook operators. -/
def booksOf (before : List OpDecl) : List (List Byte) := (before.filter (fun o => opCode o == cRulebook)).map (·.desc)

def rulebookNames (before : List OpDecl) (d : List Byte) : Bool :=
  let l := booksOf before
  !(l.any (fun e => byteAt e 3 == byteAt d 3)) &&
    (byteAt d 4 == 0 || l.any (fun e => byteAt e 2 == 1 && byteAt e 4 + 1 == byteAt d 4)) &&
    (byteAt d 2 != 2 || l.any (fun e => byteAt e 3 == byteAt d 8 && byteAt e 2 == 1))

/-! ## Sparse convolution (R322, R323) -/

/-- Level of I, level of Y and weight slots V of a class among the earlier ones. -/
def classShape (l : List (List Byte)) (q : Nat) : Option (Nat × Nat × Nat) :=
  match l.find? (fun e => byteAt e 3 == q) with
  | none => none
  | some e =>
    let vol := fun (x : List Byte) => byteAt x 5 * byteAt x 6 * byteAt x 7
    if byteAt e 2 = 0 then some (byteAt e 4, byteAt e 4, vol e)
    else if byteAt e 2 = 1 then some (byteAt e 4, byteAt e 4 + 1, vol e)
    else if byteAt e 2 = 2 then
      (l.find? (fun x => byteAt x 3 == byteAt e 8)).map (fun x => (byteAt x 4 + 1, byteAt x 4, vol x))
    else some (0, 0, byteAt e 10)

def convFields (d : List Byte) : Bool :=
  decide (byteAt d 2 ≤ 15) && decide (byteAt d 3 ≤ 2) && (byteAt d 3 != 0 || u16 d 10 == 0) && allZero (slice d 12 4) && allZero (slice d 48 16)

/-- C rounded up to whole blocks. -/
def padded (c : Nat) : Nat := ceilDiv c 32 * 32

/-- The rules of R323 on a fused source; `names` says that a source of kind 1 fits the output, `fmt` its format. -/
def fusedOk (p : PkgDecl) (d : List Byte) (src num cout : Nat) (names : Bool) (fmt : Nat) : Bool :=
  if src = 0 then acbOp d == 0 && !acbPreload d
  else if src = 1 then names && acbFused d == fmt
  else !intPath d && inRange (acbOp d) 1 2 && !whCompressed (wHead p num) && whO (wHead p num) == 1 &&
    whK (wHead p num) == cout && acbFused d == whFmt (wHead p num) && inRange (acbFused d) 2 5

def convNames (p : PkgDecl) (before : List OpDecl) (d : List Byte) : Bool :=
  let i := u16 d 4
  let y := u16 d 6
  let w := wHead p (u16 d 8)
  let g := u16 d 10
  match classShape (booksOf before) (byteAt d 2) with
  | none => false
  | some (li, ly, v) =>
    tensLevel p i == li && tensLevel p y == ly && whO w == tensC p y && whK w == v * padded (tensC p i) &&
      acbA d == tensFmt p i && acbW d == whFmt w && acbOut d == tensFmt p y &&
      fusedOk p d (byteAt d 3) g (tensC p y) (tensLevel p g == tensLevel p y && tensC p g == tensC p y) (tensFmt p g)

/-! ## Point attention (R328, R329) -/

def attnFields (d : List Byte) : Bool :=
  decide (byteAt d 2 ≤ 4) && byteAt d 3 % 4 != 3 && byteAt d 3 / 4 % 32 == 0 && inRange (byteAt d 4) 1 32 &&
    (byteAt d 5 == 32 || byteAt d 5 == 64) && decide (byteAt d 4 * byteAt d 5 ≤ 1024) && fin32 (u32 d 32) && decide (byteAt d 36 ≤ 20) &&
    allZero (slice d 37 3) && u32 d 40 % 4 == 0 && allZero (slice d 44 20)

def attnNames (p : PkgDecl) (d : List Byte) : Bool :=
  let c := byteAt d 4 * byteAt d 5
  let fused := acbOp d != 0
  let ts := [u16 d 6, u16 d 8, u16 d 10, u16 d 12] ++ (if fused then [u16 d 14] else [])
  let f := tensFmt p (u16 d 6)
  ts.all (fun t => tensLevel p t == byteAt d 2 && tensC p t == c) && inRange f 2 5 && tensFmt p (u16 d 8) == f &&
    tensFmt p (u16 d 10) == f && acbA d == f && acbW d == f && acbOut d == tensFmt p (u16 d 12) && decide (acbOp d ≤ 1) &&
    !acbPreload d && (if fused then acbFused d == tensFmt p (u16 d 14) else u16 d 14 == 0) &&
    decide (u32 d 40 + 12 * byteAt d 4 * 31 ≤ (p.consts.map List.length).sum)

/-! ## Activations (R336, R351) -/

def actFields (d : List Byte) : Bool :=
  decide (byteAt d 2 ≤ 2) && (if byteAt d 2 = 1 then inRange (byteAt d 3) 1 15 else byteAt d 3 == 0) &&
    (if byteAt d 2 = 2 then fin32 (u32 d 8) && fin32 (u32 d 12) && !(v32 (u32 d 12)).lt (v32 (u32 d 8))
     else u32 d 8 == 0 && u32 d 12 == 0)

def actNames (p : PkgDecl) (d : List Byte) : Bool :=
  tensLevel p (u16 d 4) == tensLevel p (u16 d 6) && tensC p (u16 d 4) == tensC p (u16 d 6) && inRange (tensFmt p (u16 d 6)) 2 12

/-- Equal size and channels. -/
def sameMap (p : PkgDecl) (a b : Nat) : Bool := mapX p a == mapX p b && mapY p a == mapY p b && mapC p a == mapC p b

/-! ## BEV scatter and dense convolution (R344, R348) -/

def scatterFields (d : List Byte) : Bool :=
  decide (byteAt d 2 ≤ 2) && decide (byteAt d 3 ≤ 4) && inRange (byteAt d 16) 1 16 && inRange (byteAt d 17) 1 16 &&
    allZero (slice d 18 2) && fin32 (u32 d 20) && allZero (slice d 24 8)

def scatterNames (p : PkgDecl) (d : List Byte) : Bool :=
  tensLevel p (u16 d 4) == byteAt d 3 && tensC p (u16 d 4) == mapC p (u16 d 6) && inRange (mapFmt p (u16 d 6)) 2 6

def denseFields (d : List Byte) : Bool :=
  [1, 3, 5, 7].contains (byteAt d 2) && [1, 3, 5, 7].contains (byteAt d 3) && inRange (byteAt d 4) 1 2 && inRange (byteAt d 5) 1 4 &&
    decide (byteAt d 6 ≤ 2) && decide (1 ≤ byteAt d 7) && (byteAt d 6 != 0 || u16 d 14 == 0) && decide (1 ≤ byteAt d 48) &&
    allZero (slice d 49 15)

def denseNames (p : PkgDecl) (d : List Byte) : Bool :=
  let i := u16 d 8
  let y := u16 d 10
  let w := wHead p (u16 d 12)
  let s := byteAt d 4
  mapX p y == ceilDiv (mapX p i) s && mapY p y == ceilDiv (mapY p i) s && whO w == mapC p y &&
    whK w == byteAt d 2 * byteAt d 3 * padded (mapC p i) && decide (byteAt d 7 * byteAt d 48 * mapC p y ≤ 1024) &&
    acbA d == mapFmt p i && acbW d == whFmt w && acbOut d == mapFmt p y &&
    fusedOk p d (byteAt d 6) (u16 d 14) (mapC p y) (sameMap p (u16 d 14) y) (mapFmt p (u16 d 14))

/-! ## Selection, suppression, zone occupancy (R352, R360, R361) -/

def windowOff (v : Nat) : Bool := v % 32 == 0 || v == 0xFFFFFFFF

def selectFields (top : Bool) (d : List Byte) : Bool :=
  inRange (u32 d 16) 1 65536 && (if top then u32 d 20 == 0 else !nan32 (u32 d 20)) &&
    inRange (u16 d 24) 1 (if top then 1024 else 4096) && decide (byteAt d 26 ≤ 15) && byteAt d 27 == 0 && windowOff (u32 d 28) &&
    allZero (slice d 32 16)

/-- Lists written before, and the rows of one. -/
def listsBefore (before : List OpDecl) : List Nat := before.filterMap outList

def listRows (p : PkgDecl) (before : List OpDecl) (l : Nat) : Nat :=
  match before.find? (fun o => outList o == some l) with
  | none => 0
  | some o => if opCode o = cSuppress then 1
    else ceilDiv (mapX p (u16 o.desc 2) * mapY p (u16 o.desc 2)) (u32 o.desc 16)

def selectNames (p : PkgDecl) (before : List OpDecl) (d : List Byte) : Bool :=
  let c := mapC p (u16 d 2)
  decide (u16 d 4 < c) && [6, 8, 10, 12, 14].all (fun i => decide (u16 d i < c) || u16 d i == 0xFFFF) &&
    !(listsBefore before).contains (byteAt d 26)

def suppressFields (d : List Byte) : Bool :=
  decide (byteAt d 2 ≤ 15) && decide (byteAt d 3 ≤ 15) && inRange (u32 d 4) 1 (2 ^ 31 - 1) && windowOff (u32 d 8) && allZero (slice d 12 4)

def suppressNames (p : PkgDecl) (before : List OpDecl) (d : List Byte) : Bool :=
  listRows p before (byteAt d 2) == 1 && !(listsBefore before).contains (byteAt d 3)

def zoneFields (d : List Byte) : Bool := decide (byteAt d 2 ≤ 15) && allZero (slice d 3 13)

/-! ## Map lookup and update (R369, R370, R385) -/

def lookupFields (o : OpDecl) : Bool :=
  let d := o.desc
  let n := byteAt d 2
  let nums := (lookupTables o).map (·.1)
  inRange n 1 8 && decide (byteAt d 3 ≤ 1) && decide (byteAt d 4 ≤ 4) && byteAt d 5 == 0 && allZero (slice d 8 8) &&
    (List.range n).all (fun i => decide (u16 d (16 + 4 * i) ≤ 255) && decide (byteAt d (18 + 4 * i) ≤ 10) && decide (byteAt d (19 + 4 * i) ≤ 5)) &&
    allZero (d.drop (16 + 4 * n)) && nums.eraseDups.length == nums.length

def lookupNames (p : PkgDecl) (o : OpDecl) : Bool :=
  let y := u16 o.desc 6
  tensLevel p y == byteAt o.desc 4 && inRange (tensFmt p y) 2 5 && tensC p y == ((lookupTables o).map (·.2.2)).sum

def updateFields (d : List Byte) : Bool := allZero (slice d 6 2) && fin32 (u32 d 8) && allZero (slice d 12 4)

def updateNames (p : PkgDecl) (before : List OpDecl) (d : List Byte) : Bool :=
  match before[u16 d 2]? with
  | none => false
  | some q => opCode q == cMapLookup && tensLevel p (u16 d 4) == byteAt q.desc 4 &&
      tensC p (u16 d 4) == tensC p (u16 q.desc 6) && inRange (tensFmt p (u16 d 4)) 2 5

/-! ## One operator, and the package (R560) -/

/-- The checks of an operator in the order of R560 check 6: its own fields, its control blocks, what it names. -/
def opStatus (p : PkgDecl) (before : List OpDecl) (o : OpDecl) : Nat :=
  let d := o.desc
  let c := opCode o
  let named := firstBad [need (tensorsNamed p before o) 0x0103, need (mapsNamed p before o) 0x0107]
  if c = cDeskew then 0x0704
  else if c = cVoxelise then 0x0801
  else if c = cCurve then 0x0901
  else if c = cRulebook then firstBad [need (rulebookFields d) 0x0A01, need (rulebookNames before d) 0x0A01]
  else if c = cConv then
    firstBad [need (convFields d) 0x0104, need (acbOk d) 0x0101, need (scbOk d) 0x0102, need (convNames p before d) 0x0104,
      need (scbNames p d (u16 d 8)) 0x0102, named]
  else if c = cAttention then
    firstBad [need (attnFields d) 0x0105, need (acbOk d) 0x0101, need (attnNames p d) 0x0105, named]
  else if c = cActivation then firstBad [need (actFields d) 0x0106, need (actNames p d) 0x0106, named]
  else if c = cScatter then firstBad [need (scatterFields d) 0x0E01, need (scatterNames p d) 0x0E01, named]
  else if c = cDense then
    firstBad [need (denseFields d) 0x0108, need (acbOk d) 0x0101, need (scbOk d) 0x0102, need (denseNames p d) 0x0108,
      need (scbNames p d (u16 d 12)) 0x0102, named]
  else if c = cMapAct then
    firstBad [need (actFields d) 0x0106, need (inRange (mapFmt p (u16 d 6)) 2 12) 0x0106,
      need (sameMap p (u16 d 4) (u16 d 6)) 0x0108, named]
  else if c = cCompact ∨ c = cTopK then
    firstBad [need (selectFields (c == cTopK) d) 0x0F01, need (selectNames p before d) 0x0F01, named]
  else if c = cSuppress then firstBad [need (suppressFields d) 0x0F01, need (suppressNames p before d) 0x0F01]
  else if c = cZone then firstBad [need (zoneFields d) 0x0F01, need (listRows p before (byteAt d 2) == 1) 0x0F01]
  else if c = cMapLookup then firstBad [need (lookupFields o) 0x0D01, need (lookupNames p o) 0x0D01, named]
  else firstBad [need (updateFields d) 0x0D01, need (updateNames p before d) 0x0D01, named]

/-- Operators from position 3 on, in package order. -/
def opsStatus (p : PkgDecl) : List OpDecl → List OpDecl → Nat
  | _, [] => 0
  | before, o :: l =>
    let st := opStatus p before o
    if st ≠ 0 then st else opsStatus p (before ++ [o]) l

/-- The end of the package (R560 check 7). -/
def endStatus (p : PkgDecl) : Nat :=
  let zones := p.ops.filter (fun o => opCode o == cZone)
  let written := 0 :: p.ops.flatMap tensWrites
  let mw := p.ops.flatMap mapWrites
  firstBad [need (zones.length == 1 && (p.ops.getLast?.map opCode) == some cZone) 0x0F01,
    need ((List.range p.tensors.length).all written.contains) 0x0103, need ((List.range p.maps.length).all mw.contains) 0x0107]

/-- Checks 3 to 7 of R560. -/
def pkgStatus (p : PkgDecl) : Nat :=
  firstBad [need (framed p) 0x0414, tablesStatus p, headStatus p, opsStatus p (p.ops.take 3) (p.ops.drop 3), endStatus p]

end Sys2Proof.Machine
end

