-- ==== Sys2Proof/Machine/Security.lean ====
section
/-!
DEFINITION. The security engine: signed envelopes (R493, R494), firmware (R496, R497), bundles (R498), attestation
(R501), the lifecycle (R503 to R506), debug unlocks (R508 to R511) and the entropy source (R513, R514).
Conventions: log entry 14 (DESIGN CHOICE), log entry 22 (DEDUCED), log entry 42 (DEDUCED), log entry 65 (DESIGN
CHOICE), log entry 84 (DESIGN CHOICE), log entry 85 (PRESUMED).
-/
namespace Sys2Proof.Machine

/-! ## Envelopes -/

def envBody (b : List Byte) : List Byte := b.drop 1648
def envVersion (b : List Byte) : Nat := u32 b 12
def envIndex (b : List Byte) : Nat := byteAt b 6
def envSigLen (b : List Byte) : Nat := u16 b 104

/-- What a command requires of its envelope: kind, signer, the rule of its body, and the signer's key. -/
structure EnvRule where
  kind : Nat
  signer : Nat
  bodyOk : Bool
  key : List Byte
  deriving DecidableEq, Repr

/-- Check 1 of R494; the security version's range of R493 is judged here (log entry 22). -/
def envForm (r : EnvRule) (b : List Byte) : Bool :=
  decide (1648 ≤ b.length) && b.length == 1648 + u32 b 8 && u32 b 0 == 0x4C534E56 && byteAt b 4 == r.kind &&
    byteAt b 7 == 0 && allZero (slice b 16 8) && allZero (slice b 106 6) &&
    (if r.kind = 1 then envVersion b ≤ 64 else envVersion b == 0) &&
    1 ≤ envSigLen b && envSigLen b ≤ 1536 && r.bodyOk

/-- Check 2: the signer, and its key index. -/
def envSigner (r : EnvRule) (b : List Byte) : Bool :=
  byteAt b 5 == r.signer && (if r.signer = 0 then envIndex b ≤ 3 else envIndex b == 0)

/-- Check 4: the device, or any where the kind permits it. -/
def envBound (s : State) (r : EnvRule) (b : List Byte) : Bool :=
  let bind := slice b 24 16
  (r.kind ≤ 3 && allZero bind) ||
    (match devKey s with
     | some _ => bind == deviceId s
     | none => false)

/-- The first failing check of R494, 0 if none. -/
def envCheck (s : State) (r : EnvRule) (b : List Byte) : Nat :=
  if envForm r b = false then 0x1501
  else if envSigner r b = false then 0x1502
  else if r.signer = 0 ∧ s.nv.revoked.contains (envIndex b) = true then 0x1503
  else if envBound s r b = false then 0x1504
  else if r.kind = 1 ∧ envVersion b < s.nv.svn then 0x1505
  else if slice b 40 64 ≠ shake256 (envBody b) 64 then 0x1506
  else if falconVerify r.key (b.take 104) (slice b 112 (envSigLen b)) = false then 0x1507
  else 0

/-- A failure of check 6 or 7 raises SEC_VERIFY_FAILED. -/
def envFail (s : State) (kind st : Nat) : State :=
  if st = 0x1506 ∨ st = 0x1507 then raise s [{ code := 0x1581, die := 0, loc := kind }] else s

/-- The key of an envelope that Felsol signs. -/
def felsolOf (b : List Byte) : List Byte := Config.felsolKey (envIndex b)

/-- The owner's public key, empty without a valid record. -/
def ownerKey (nv : NonVol) : List Byte := ((ownerRec nv).map (·.key)).getD []

def deployed (s : State) : Bool := lifecycle s.nv == 2

/-! ## Entropy (R513, R514) -/

/-- An output block of 256 bits: SHAKE256 of 1,024 samples of the noise source, which are free; the blocks are counted (R513,
R515). -/
def entropyBlock (s : State) : List Byte × State :=
  let r := freeBytes s 128
  (shake256 r.1 32, cntUnits r.2 rSecTrngCnt 2 1024 1)

/-- Blocks one after another. -/
def entropyBlocks : Nat → State → List Byte × State
  | 0, s => ([], s)
  | n + 1, s =>
    let a := entropyBlock s
    let b := entropyBlocks n a.2
    (a.1 ++ b.1, b.2)

/-- The randomness of one signature: how many blocks it draws is free (log entry 42). -/
def signBlocks (s : State) : List Byte × State :=
  let n := freeNat s
  entropyBlocks n.1 n.2

/-- The source gives output, or has failed: while its start-up test runs, a command that draws output waits (R514). -/
def entropyReady (s : State) : Bool := s.sec.trng == 1 || s.sec.trng == 3

/-- Runs the command of a slot once the source is ready, if the command draws output. -/
def withEntropy (code slot : Nat) (s : State) (draws : Cmd → State → Bool) (f : Cmd → State → State × CmdRes) : State :=
  if !entropyReady s && (startable s slot code).any (fun c => draws c (markStarted s slot)) then s else withCmd code slot s f

/-! ## Firmware (R496, R497) -/

def openUpd (s : State) (u : Option (List Byte)) : State := { s with sec := { s.sec with upd := u } }

/-- The part's place does not fit the open update. -/
def partWrong (s : State) (first : Bool) (off : Nat) : Bool :=
  s.sec.updSlot.isSome ||
    (match s.sec.upd with
     | none => !first || off != 0
     | some b => first || off != b.length)

def fwRule (b : List Byte) : EnvRule := ⟨1, 0, decide (u32 b 8 ≤ 3 * 1048576), felsolOf b⟩

/-- The last part: the checks over the whole envelope, then the programming. -/
def fwLast (s : State) (slot : Nat) (b : List Byte) : State × CmdRes :=
  let st := envCheck s (fwRule b) b
  if st ≠ 0 then (envFail s 1 st, .done st [])
  else ({ s with sec := { s.sec with upd := none, updSlot := some slot,
                                     updImage := some ⟨true, envVersion b, envIndex b, slice b 40 64⟩ } }, .stay)

/-- FW_UPDATE. -/
def fwUpdateCmd (c : Cmd) (s : State) : State × CmdRes :=
  let flags := byteAt c.bytes 18
  let count := u32 c.bytes 20
  let off := u32 c.bytes 24
  if pagesOk s (c.slot / 8192) (u16 c.bytes 16) (pageCount count) = false then fail s pageReservedErr
  else if bitOf flags 2 then
    (if s.sec.upd.isSome then (openUpd s none, .done 0 []) else fail s 0x150F)
  else if partWrong s (bitOf flags 0) off then fail s 0x150F
  else
    let b := s.sec.upd.getD [] ++ staged s (c.slot / 8192) (u16 c.bytes 16) count
    if bitOf flags 1 then fwLast s c.slot b else (openUpd s (some b), .done 0 [])

def execFwUpdate (slot : Nat) (s : State) : Host.Outcome State Fault Refusal :=
  .next (withCmd 0x0070 slot s fwUpdateCmd)

/-- The 16 bytes of a boot record, and the record that 16 bytes hold if they are a valid copy (R520). -/
def bootRecBytes (r : BootRec) : List Byte :=
  let b := leBytes 4 0x4C425243 ++ leBytes 1 r.cand ++ leBytes 1 r.active ++ leBytes 1 r.attempts ++ [0] ++ leBytes 4 r.seq
  b ++ leBytes 4 (crc32 b)

def bootRecRead (b : List Byte) : Option BootRec :=
  if b.length = 16 ∧ u32 b 0 = 0x4C425243 ∧ byteAt b 7 = 0 ∧ u32 b 12 = crc32 (b.take 12) then
    some ⟨byteAt b 4, byteAt b 5, byteAt b 6, u32 b 8⟩
  else none

/-- The boot record that governs (R520). -/
def bootRec (nv : NonVol) : BootRec :=
  (nv.recs.filterMap bootRecRead).foldl (fun a r => if a.seq ≤ r.seq then r else a) ⟨0, 0, 0, 0⟩

/-- Writes a boot record with the next sequence to the copy that does not govern (R520), to copy 0 if none does. -/
def writeBootRec (nv : NonVol) (cand active attempts : Nat) : NonVol :=
  let g := bootRec nv
  let i := if (nv.recs.getD 0 [] |> bootRecRead) = some g then 1 else 0
  { nv with recs := updAt nv.recs i (fun _ => bootRecBytes ⟨cand, active, attempts, (g.seq + 1) % 2 ^ 32⟩) }

/-- FLASH_PROGRAM_COMPLETE: the image is in the inactive slot and is the boot candidate, or programming failed and the
active slot stays in force (R496, R497, R521). -/
def execFlashProgramComplete (ok : Bool) (s : State) : Host.Outcome State Fault Refusal :=
  .next (
    match s.sec.updSlot, s.sec.updImage with
    | some slot, some img =>
      let s1 := { s with sec := { s.sec with updSlot := none, updImage := none } }
      if ok then
        let g := bootRec s.nv
        let dst := 1 - g.active
        let nv := writeBootRec { s.nv with images := updAt s.nv.images dst (fun _ => img) } dst g.active 0
        completeSlot { s1 with nv := nv } slot 0 []
      else completeSlot s1 slot 0x1510 []
    | _, _ => s)

/-! ## Bundles (R498) -/

/-- Form of a bundle body. -/
def bundleForm (d : List Byte) : Bool :=
  let n := u32 d 0
  decide (8 ≤ d.length) && 1 ≤ n && n ≤ 256 && allZero (slice d 4 4) && d.length == 8 + 24 * n &&
    (List.range n).all (fun i => allZero (slice d (8 + 24 * i + 4) 4))

/-- Buffers the records from number `i` on: the buffer, or the failing status and its record. -/
def bundleRecs (s : State) (d : List Byte) : Nat → Nat → List BufEntry → List BufEntry × Nat × Nat
  | 0, _, buf => (buf, 0, 0xFFFF)
  | n + 1, i, buf =>
    let o := 8 + 24 * i
    let reg := u16 d o
    let idx := u16 d (o + 2)
    let value := u64 d (o + 8)
    let mask := u64 d (o + 16)
    let st := cfgTests s 2 reg idx value mask (overlayGet s buf reg (copyIdx reg idx))
    if st ≠ 0 then (buf, st, i)
    else match bufferWrite buf (cfgKey reg (copyIdx reg idx)) value (mask &&& wrMask reg) with
      | none => (buf, 0x0316, i)
      | some b => bundleRecs s d n (i + 1) b

/-- Applies a verified bundle body as one transaction. The spec gives that transaction no identifier: while it commits,
MBX_TXN_STATE is 2 and MBX_TXN_OPEN_ID shows 0 (log entry 65, DESIGN CHOICE). -/
def applyBundle (s : State) (slot : Nat) (d : List Byte) : State × CmdRes :=
  if s.txn.st ≠ 0 then (s, .done 0x0315 (leBytes 2 0xFFFF))
  else if bundleForm d = false then (s, .done 0x1501 (leBytes 2 0xFFFF))
  else
    let r := bundleRecs s d (u32 d 0) 0 []
    if r.2.1 ≠ 0 then (s, .done r.2.1 (leBytes 2 r.2.2))
    else
      let buf := spread s r.1
      let st := commitCheck s buf
      if st ≠ 0 then (s, .done st (leBytes 2 0xFFFF))
      else
        let k := startCommit s slot true buf
        if k.2.todo = [] then (closeTxn k.1, .done 0 (leBytes 2 0xFFFF)) else (k.1, .stay)

/-- BUNDLE_APPLY. -/
def bundleApplyCmd (c : Cmd) (s : State) : State × CmdRes :=
  let ch := c.slot / 8192
  let count := u32 c.bytes 20
  if pagesOk s ch (u16 c.bytes 16) (pageCount count) = false then (s, .done pageReservedErr (leBytes 2 0xFFFF))
  else if deployed s = false then (s, .done 0x1508 (leBytes 2 0xFFFF))
  else
    let b := staged s ch (u16 c.bytes 16) count
    let st := envCheck s ⟨3, 1, true, ownerKey s.nv⟩ b
    if st ≠ 0 then (envFail s 3 st, .done st (leBytes 2 0xFFFF)) else applyBundle s c.slot (envBody b)

def execBundleApply (slot : Nat) (s : State) : Host.Outcome State Fault Refusal :=
  .next (withCmd 0x0032 slot s bundleApplyCmd)

/-! ## Attestation (R501) -/

/-- SHAKE256 over the body digests of the loaded packages, 0 with none. -/
def pkgsDigest (s : State) : List Byte :=
  if s.pkgs.isEmpty then leBytes 64 0
  else
    let hs := natSort (s.pkgs.map (·.handle))
    shake256 (hs.flatMap (fun h => ((pkgOf s h).map (·.digest)).getD [])) 64

def runImage (s : State) : Image := s.nv.images.getD s.boot.slot ⟨false, 0, 0, []⟩

/-- The report's body of 264 bytes. -/
def attestBody (s : State) (nonce : List Byte) : List Byte :=
  let lc := lifecycle s.nv
  leBytes 1 lc ++ leBytes 1 s.sec.debug ++ leBytes 1 s.pwr.st ++ leBytes 1 s.variant ++ leBytes 1 0x10 ++ leBytes 1 0 ++
    leBytes 2 s.nv.ownerGen ++ leBytes 4 (runImage s).svn ++ leBytes 4 s.pkgs.length ++ padTo 32 nonce ++
    leBytes 8 (now s) ++ deviceId s ++ padTo 64 (runImage s).digest ++
    (if lc = 2 then shake256 (ownerKey s.nv) 64 else leBytes 64 0) ++ pkgsDigest s

/-- Bytes 0 to 103 of an envelope of the device. -/
def deviceHead (s : State) (kind : Nat) (body : List Byte) : List Byte :=
  leBytes 4 0x4C534E56 ++ leBytes 1 kind ++ leBytes 1 2 ++ leBytes 2 0 ++ leBytes 4 body.length ++ leBytes 12 0 ++
    deviceId s ++ shake256 body 64

/-- The signed report. -/
def attestReport (s : State) (seed : Nat) (rnd : List Byte) (nonce : List Byte) : List Byte :=
  let body := attestBody s nonce
  let head := deviceHead s 6 body
  let sig := deviceSignature seed head rnd
  head ++ leBytes 2 sig.length ++ leBytes 6 0 ++ padTo 1536 sig ++ body

/-- The seed of a derived device key. -/
def keyOf (s : State) : Option Nat := if s.sec.keyReady then s.nv.seed else none

/-- ATTEST. -/
def attestCmd (c : Cmd) (s : State) : State × CmdRes :=
  let ch := c.slot / 8192
  let page := u16 c.bytes 16
  if pagesOk s ch page 2 = false then fail s pageReservedErr
  else match keyOf s with
    | none => fail s 0x1512
    | some seed =>
      if s.sec.trng = 3 then fail s 0x150D
      else
        let r := signBlocks s
        let s2 := apertureWrite r.2 ch (pageOff page) (attestReport s seed r.1 (slice c.bytes 24 32))
        let cert := if lifecycle s.nv = 0 then List.replicate 3464 0 else s.nv.cert
        (if bitOf (byteAt c.bytes 18) 0 then apertureWrite s2 ch (pageOff (page + 1)) cert else s2,
          .done 0 (leBytes 4 1912))

/-- ATTEST signs. -/
def attestDraws (c : Cmd) (s : State) : Bool := pagesOk s (c.slot / 8192) (u16 c.bytes 16) 2 && (keyOf s).isSome

def execAttest (slot : Nat) (s : State) : Host.Outcome State Fault Refusal :=
  .next (withEntropy 0x0071 slot s attestDraws attestCmd)

/-! ## Debug levels (R508 to R511) -/

def setChal (s : State) (c : Option (Nat × List Byte × Nat)) : State := { s with sec := { s.sec with chal := c } }

/-- DEBUG_CHALLENGE level 0. -/
def challengeZero (s : State) : State × CmdRes :=
  if s.sec.debug = 1 then
    let r := closeObserve s
    (raise r.1 r.2, .done 0 [])
  else if s.sec.debug = 2 then
    let t := match s.sec.resetAt with | some t => min t (s.raw + 1000000) | none => s.raw + 1000000
    ({ s with sec := { s.sec with resetAt := some t } }, .done 0 [])
  else (setChal s none, .done 0 [])

/-- DEBUG_CHALLENGE. -/
def debugChallengeCmd (c : Cmd) (s : State) : State × CmdRes :=
  let l := byteAt c.bytes 16
  if 2 < l then fail s 0x1501
  else if l = 0 then challengeZero s
  else if s.sec.debug = 2 then fail s 0x1509
  else if s.sec.trng = 3 then fail s 0x150D
  else
    let r := entropyBlock s
    (setChal r.2 (some (l, r.1.take 16, s.raw)), .done 0 (r.1.take 16))

/-- DEBUG_CHALLENGE draws a nonce. -/
def challengeDraws (c : Cmd) (s : State) : Bool :=
  decide (1 ≤ byteAt c.bytes 16) && decide (byteAt c.bytes 16 ≤ 2) && s.sec.debug != 2

/-- In RETENTION the row is not enabled: no level opens there (R512); the command waits (log entry 42). -/
def execDebugChallenge (slot : Nat) (s : State) : Host.Outcome State Fault Refusal :=
  .next (if s.pwr.st ≤ 1 then s else withEntropy 0x0072 slot s challengeDraws debugChallengeCmd)

/-- Zeroises the owner slot: the next generation bit first, then both copies (R506). A copy that is not erased is invalid all
the same; where the bit is not programmed nothing more is done. -/
def zeroise (nv : NonVol) (f : FlashSteps) : NonVol :=
  if f.first then
    { nv with ownerGen := min 32 (nv.ownerGen + 1), owner0 := if f.second then none else nv.owner0,
              owner1 := if f.third then none else nv.owner1 }
  else nv

/-- The body of an unlock response against the challenge (R509). -/
def unlockBodyOk (s : State) (level : Nat) (nonce d : List Byte) : Bool :=
  d.length == 64 && byteAt d 0 == level && allZero (slice d 1 3) && 1 ≤ u32 d 4 && u32 d 4 ≤ 86400 &&
    slice d 8 16 == nonce && slice d 24 16 == deviceId s && allZero (slice d 40 24)

/-- The signer and key of an unlock by lifecycle: the owner in DEPLOYED, Felsol in RETURNED (R503). -/
def unlockRule (s : State) (b : List Byte) (ok : Bool) : EnvRule :=
  if lifecycle s.nv = 2 then ⟨4, 1, ok, ownerKey s.nv⟩ else ⟨4, 0, ok, felsolOf b⟩

/-- An accepted unlock (R510). -/
def grantUnlock (s : State) (level : Nat) (dur : Option Nat) (flashOk : FlashSteps) : State :=
  let nv := if level = 2 ∧ lifecycle s.nv = 2 then zeroise s.nv flashOk else s.nv
  raise { s with nv := nv, sec := { s.sec with debug := level, until_ := dur.map (fun d => s.raw + d * 1000000000),
                                               resetAt := none } }
    [{ code := 0x1582, die := 0, loc := level }]

/-- The checks of R509 after the envelope, then the unlock. Of a zeroisation only a generation bit that is not programmed fails
it (log entry 42). -/
def unlockEnd (s : State) (level : Nat) (dur : Option Nat) (flashOk : FlashSteps) : State × CmdRes :=
  if level = 2 ∧ (!s.ctxs.isEmpty || !s.pkgs.isEmpty) = true then fail s 0x150B
  else if level = 2 ∧ s.pwr.st = 4 then fail s 0x1508
  else if level = 2 ∧ lifecycle s.nv = 2 ∧ flashOk.first = false then fail s 0x1510
  else (grantUnlock s level dur flashOk, .done 0 [])

/-- DEBUG_UNLOCK with its challenge, which it has consumed. -/
def unlockWith (s : State) (c : Cmd) (level : Nat) (nonce : List Byte) (flashOk : FlashSteps) : State × CmdRes :=
  let count := u32 c.bytes 20
  let needs := 2 ≤ lifecycle s.nv
  if (count = 0 ∧ needs) ∨ (count ≠ 0 ∧ ¬ needs) then fail s 0x1501
  else if count = 0 then unlockEnd s level none flashOk
  else
    let b := staged s (c.slot / 8192) (u16 c.bytes 16) count
    let st := envCheck s (unlockRule s b (unlockBodyOk s level nonce (envBody b))) b
    if st ≠ 0 then (envFail s 4 st, .done st []) else unlockEnd s level (some (u32 (envBody b) 4)) flashOk

/-- DEBUG_UNLOCK: the open challenge is consumed whatever the outcome (R508). -/
def debugUnlockCmd (flashOk : FlashSteps) (c : Cmd) (s : State) : State × CmdRes :=
  let s1 := setChal s none
  if pagesOk s (c.slot / 8192) (u16 c.bytes 16) (pageCount (u32 c.bytes 20)) = false then fail s1 pageReservedErr
  else match s.sec.chal with
    | none => fail s1 0x150A
    | some k => unlockWith s1 c k.1 k.2.1 flashOk

/-- In RETENTION the row is not enabled: no level opens there (R512); the command waits (log entry 42). -/
def execDebugUnlock (slot : Nat) (flashOk : FlashSteps) (s : State) : Host.Outcome State Fault Refusal :=
  .next (if s.pwr.st ≤ 1 then s else withCmd 0x0073 slot s (debugUnlockCmd flashOk))

/-- CHALLENGE_EXPIRY: a challenge stays open for 60 s (R508). -/
def execChallengeExpiry (s : State) : Host.Outcome State Fault Refusal :=
  .next (
    match s.sec.chal with
    | some k => if k.2.2 + 60000000000 ≤ s.raw then setChal s none else s
    | none => s)

def dueBy (s : State) (t : Option Nat) : Bool :=
  match t with
  | some x => decide (x ≤ s.raw)
  | none => false

/-- UNLOCK_EXPIRY: an OBSERVE unlock closes in place; an INTRUSIVE unlock ends in a device reset (R511). -/
def execUnlockExpiry (s : State) : Host.Outcome State Fault Refusal :=
  .next (
    if s.sec.debug = 2 ∧ (dueBy s s.sec.resetAt || dueBy s s.sec.until_) = true then deviceReset s 3 none
    else if s.sec.debug = 1 ∧ dueBy s s.sec.until_ = true then
      let r := closeObserve s
      raise r.1 r.2
    else s)

/-! ## Lifecycle (R503 to R506) -/

/-- A token's form (R504). -/
def tokenForm (target : Nat) (d : List Byte) : Bool :=
  d.length == (if target = 2 then 1801 else 8) && byteAt d 1 == 0 && allZero (slice d 4 4)

/-- The key a token for DEPLOYED carries. -/
def tokenKey (d : List Byte) : List Byte := slice d 8 1793

/-- A transition of R504's table. -/
def lifeListed (s : State) (target : Nat) : Bool :=
  [(0, 1), (1, 2), (1, 3), (2, 1), (2, 3)].contains (lifecycle s.nv, target)

/-- The envelope a transition requires (R504). One that the table does not hold is refused only after the checks of R494: they
are judged of a token under the key of the signer it names (log entry 42). -/
def lifeRule (s : State) (target : Nat) (b : List Byte) : EnvRule :=
  let d := envBody b
  let tok := tokenForm target d
  match lifecycle s.nv, target with
  | 0, 1 => ⟨7, 0, d.length == 1816 && allZero (slice d 1809 7), felsolOf b⟩
  | 1, 2 => ⟨5, 1, tok, tokenKey d⟩
  | 1, 3 => ⟨5, 0, tok, felsolOf b⟩
  | 2, 1 => ⟨5, 1, tok, ownerKey s.nv⟩
  | 2, 3 => ⟨5, 1, tok, ownerKey s.nv⟩
  | l, _ => ⟨5, min 1 (byteAt b 5), tok,
      if byteAt b 5 = 0 then felsolOf b else if l = 2 then ownerKey s.nv else tokenKey d⟩

/-- The certificate's body names this device: its public key and its identifier (R502). -/
def certNames (s : State) (d : List Byte) : Bool := devKey s == some (d.take 1793) && slice d 1793 16 == deviceId s

/-- The first failing status of R505 after the envelope, 0 if none. A certificate of another key completes as a token of
another generation does (log entry 42). -/
def lifeCheck (s : State) (target : Nat) (r : EnvRule) (b : List Byte) : Nat :=
  let d := envBody b
  if lifeListed s target = false then 0x1508
  else if s.sec.debug ≠ 0 then 0x1509
  else if r.kind = 5 ∧ (byteAt d 0 ≠ target ∨ u16 d 2 ≠ s.nv.ownerGen) then 0x1501
  else if r.kind = 7 ∧ certNames s d = false then 0x1501
  else if lifecycle s.nv = 2 ∧ (!s.ctxs.isEmpty || !s.pkgs.isEmpty) = true then 0x150B
  else if target = 2 ∧ 32 ≤ s.nv.ownerGen then 0x150C
  else if target = 2 ∧ s.sec.trng = 3 then 0x150D
  else 0

/-- The owner record that the device signs for a key: its seed stands for the signature (log entry 84). -/
def signOwner (nv : NonVol) (key : List Byte) : OwnerRec := ⟨nv.ownerGen, key, nv.seed.getD 0, nv.ownerGen, key⟩

/-- The change, as far as the flash and the fuses take it, and whether they took it all. To PROVISIONED from BLANK: the
certificate, then the provisioned bit. To DEPLOYED: the two copies of the owner record. Out of DEPLOYED: for RETURNED the
returned bit, then the zeroisation, so that a failure leaves the new state or the previous one (R505). -/
def lifeChange (nv : NonVol) (target : Nat) (b : List Byte) (f : FlashSteps) : NonVol × Bool :=
  if lifecycle nv = 0 then
    (if f.first then ({ nv with cert := b, provisioned := nv.provisioned || f.second }, f.second) else (nv, false))
  else if target = 2 then
    let o := signOwner nv (tokenKey (envBody b))
    ({ nv with owner0 := if f.first then some o else none, owner1 := if f.second then some o else none }, f.first && f.second)
  else if target = 3 then
    (if f.first = false then (nv, false)
     else if lifecycle nv = 2 then
       ({ zeroise nv ⟨f.second, f.third, f.third⟩ with returned := true }, f.second && f.third)
     else ({ nv with returned := true }, true))
  else (zeroise nv f, f.first && f.second && f.third)

/-- The change is made: the owner record's signature draws output (R513), and a lifecycle that is another one is an event, also
where a step after it failed (R505, log entry 42). The life log's counts start at the first provisioning (R479). -/
def lifeSet (s : State) (target : Nat) (b : List Byte) (f : FlashSteps) : State × CmdRes :=
  let s1 := if target = 2 then (signBlocks s).2 else s
  let r := lifeChange s.nv target b f
  let s2 := { s1 with nv := r.1, life := if lifecycle s.nv = 0 ∧ lifecycle r.1 ≠ 0 then lifeKept s1.life else s1.life }
  (if lifecycle r.1 ≠ lifecycle s.nv then raise s2 [{ code := 0x1584, die := 0, loc := 0 }] else s2,
    .done (if r.2 then 0 else 0x1510) [])

/-- What LIFECYCLE_SET completes with before its change, 0 if nothing fails. -/
def lifeStatus (s : State) (c : Cmd) : Nat :=
  let b := staged s (c.slot / 8192) (u16 c.bytes 18) (u32 c.bytes 20)
  let target := byteAt c.bytes 16
  let r := lifeRule s target b
  if pagesOk s (c.slot / 8192) (u16 c.bytes 18) (pageCount (u32 c.bytes 20)) = false then pageReservedErr
  else if envCheck s r b ≠ 0 then envCheck s r b
  else lifeCheck s target r b

/-- LIFECYCLE_SET. -/
def lifecycleSetCmd (flashOk : FlashSteps) (c : Cmd) (s : State) : State × CmdRes :=
  let b := staged s (c.slot / 8192) (u16 c.bytes 18) (u32 c.bytes 20)
  let target := byteAt c.bytes 16
  let st := lifeStatus s c
  if st = 0 then lifeSet s target b flashOk else fail (envFail s (lifeRule s target b).kind st) st

/-- LIFECYCLE_SET signs an owner record. -/
def lifeDraws (c : Cmd) (s : State) : Bool := byteAt c.bytes 16 == 2 && lifeStatus s c == 0

def execLifecycleSet (slot : Nat) (flashOk : FlashSteps) (s : State) : Host.Outcome State Fault Refusal :=
  .next (withEntropy 0x0074 slot s lifeDraws (lifecycleSetCmd flashOk))

/-! ## The entropy source (R514) -/

/-- Cutoffs of the health tests for a false-alarm rate of 2^-20: 1 + 20 / 0.5 of the repetition count test; of the adaptive
proportion test, over 1,024 samples, one above the least number that as many independent samples of probability 2^-0.5 do not
exceed but with that rate (SP 800-90B section 4.4.2, to which R514 refers: log entry 85). -/
def rctCutoff : Nat := 41
def aptCutoff : Nat := 793
def aptWindow : Nat := 1024

/-- The first sample at which a health test fails: whether it is the repetition count test, and whether the adaptive proportion
test. `last` and `run` are the sample before and its run; `a` is the window's first sample, `pos` its samples so far and `cnt`
those equal to the first. -/
def healthScan : List Bool → Bool → Nat → Bool → Nat → Nat → Option (Bool × Bool)
  | [], _, _, _, _, _ => none
  | x :: l, last, run, a, pos, cnt =>
    let run1 := if x = last then run + 1 else 1
    let w := if pos = aptWindow then (x, 1, 1) else (a, pos + 1, cnt + b2n (x == a))
    if rctCutoff ≤ run1 ∨ aptCutoff ≤ w.2.2 then some (decide (rctCutoff ≤ run1), decide (aptCutoff ≤ w.2.2))
    else healthScan l x run1 w.1 w.2.1 w.2.2

/-- The health tests over samples from the start of a window on. -/
def healthFail (l : List Bool) : Option (Bool × Bool) :=
  match l with
  | [] => none
  | x :: r => healthScan r x 1 x 1 1

/-- The failures are counted, and the source is left in a state. -/
def healthFailed (s : State) (f : Bool × Bool) (st fails : Nat) : State :=
  let s1 := cntAdd (cntAdd s rSecTrngCnt 0 (b2n f.1)) rSecTrngCnt 1 (b2n f.2)
  raise { s1 with sec := { s1.sec with trng := st, trngFails := fails, trngAt := s.raw } } [trngFailEv]

/-- ENTROPY_HEALTH_TEST_FAIL: samples of the running source, from the start of a window on, fail a health test. -/
def execEntropyHealthTestFail (adaptive : List Bool) (s : State) : Host.Outcome State Fault Refusal :=
  .next (
    match healthFail adaptive with
    | some f => if partOn s && decide (2 ≤ s.pwr.st) && s.sec.trng == 1 then healthFailed s f 2 1 else s
    | none => s)

/-- TRNG_RETRY: the start-up test again, 1 ms after the failure, over 4,096 samples. -/
def execTrngRetry (pass : List Bool) (s : State) : Host.Outcome State Fault Refusal :=
  .next (
    if s.sec.trng = 2 ∧ s.sec.trngAt + 1000000 ≤ s.raw then
      match healthFail pass with
      | some f => healthFailed s f 3 2
      | none => if pass.length = 4096 then entropyPass s else s
    else s)

end Sys2Proof.Machine
end

