-- ==== Sys2Proof/Machine/PkgLoad.lean ====
section
/-!
DEFINITION. PKG_LOAD (R107, R498, R560).
Conventions: log entry 17 (DESIGN CHOICE), log entry 73 (DESIGN CHOICE).
-/
namespace Sys2Proof.Machine

/-- The lowest handle that no package holds (R107). -/
def freeHandle (s : State) : Nat :=
  ((List.range (s.pkgs.length + 1)).find? (fun i => (pkgOf s (i + 1)).isNone)).getD s.pkgs.length + 1

/-- Space and handle (R560 check 8). -/
def pkgFits (s : State) (n : Nat) : Bool :=
  decide (pkgUsed s + n ≤ pkgArea s (cfgFld s rZckCfg 0 31 20)) && decide (s.pkgs.length < 65535)

/-- Loads a package that passed every check. -/
def loadPkg (s : State) (p : PkgDecl) (b : List Byte) : State × CmdRes :=
  let h := freeHandle s
  if pkgFits s (envBody b).length then
    (placePackage { s with pkgs := s.pkgs ++ [⟨h, p, (envBody b).length, slice b 40 64⟩] } h (envBody b),
      .done 0 (leBytes 2 h))
  else fail s 0x0411

/-- PKG_LOAD; `pkg` is what the framing of the envelope's body yields. -/
def pkgLoadCmd (pkg : Option PkgDecl) (c : Cmd) (s : State) : State × CmdRes :=
  let ch := c.slot / 8192
  let count := u32 c.bytes 20
  if pagesOk s ch (u16 c.bytes 16) (pageCount count) = false then fail s pageReservedErr
  else if deployed s = false then fail s 0x1508
  else
    let b := staged s ch (u16 c.bytes 16) count
    let st := envCheck s ⟨2, 1, true, ownerKey s.nv⟩ b
    if st ≠ 0 then (envFail s 2 st, .done st [])
    else match pkg with
      | none => fail s 0x0414
      | some p => if pkgStatus p ≠ 0 then fail s (pkgStatus p) else loadPkg s p b

def execPkgLoad (slot : Nat) (pkg : Option PkgDecl) (s : State) : Host.Outcome State Fault Refusal :=
  .next (withCmd 0x0030 slot s (pkgLoadCmd pkg))

end Sys2Proof.Machine
end

