-- ==== Sys2Proof/Machine/Startup.lean ====
section
/-!
DEFINITION. Resets and their causes (R518, R546 to R551), and start-up from the release of RESET_N to READY or to a boot
fault (R519 to R526).
Conventions: log entry 14 (DESIGN CHOICE), log entry 29 (DEDUCED), log entry 43 (DEDUCED).
-/
namespace Sys2Proof.Machine

/-! ## Resets -/

/-- POWER_ON: every die is reset, the cause is 1, and PWR_REQ and RESET_N are low (R546, R547). -/
def execPowerOn (s : State) : Host.Outcome State Fault Refusal :=
  .next (
    let s1 := deviceReset s 1 none
    { s1 with pins := { s1.pins with supplied := true, resetN := false, pwrReq := false } })

/-- The device is reset by its pin: a low of 10 us or longer, or a shorter one that is taken (R550). -/
def resetTaken (ns : Nat) (taken : Bool) : Bool := decide (10000 ≤ ns) || (decide (1000 ≤ ns) && taken)

/-- RESET_N_ASSERT. In a part already held by the pin nothing more happens. -/
def execResetNAssert (ns : Nat) (taken : Bool) (s : State) : Host.Outcome State Fault Refusal :=
  .next (if resetTaken ns taken = false ∨ s.boot.phase = .off ∨ s.pins.resetN = false then s
    else
      let s1 := deviceReset s 2 none
      { s1 with pins := { s1.pins with resetN := false } })

/-- SUPPLY_BROWNOUT: a rail below 90 % of its level resets the device, with cause power-on; PWR_REQ stays as it is (R546, R547,
R550). -/
def execSupplyBrownout (s : State) : Host.Outcome State Fault Refusal :=
  .next (if s.boot.phase = .off then s
    else
      let s1 := deviceReset s 1 none
      { s1 with pins := { s1.pins with supplied := false } })

/-- LOCKSTEP_MISMATCH (R518). -/
def execLockstepMismatch (s : State) : Host.Outcome State Fault Refusal :=
  .next (if partOn s || s.boot.phase = .starting then deviceReset s 5 none else s)

/-- WATCHDOG_EXPIRY (R518). -/
def execWatchdogExpiry (s : State) : Host.Outcome State Fault Refusal :=
  .next (if partOn s then deviceReset s 6 none else s)

/-- BACKUP_SUPPLY_LOSS: with the core supplies absent too, the calendar and the latches are lost (R477). -/
def execBackupSupplyLoss (s : State) : Host.Outcome State Fault Refusal :=
  .next (if s.boot.phase = .off ∨ s.pins.supplied = false then { s with backup := ⟨0, false, 0, none, 1⟩ } else s)

/-- VDD_SAFE_OUT_OF_TOLERANCE: while it is below, both stop output stages drive low (R551). -/
def execVddSafeOutOfTolerance (below : Bool) (s : State) : Host.Outcome State Fault Refusal :=
  .next { s with pins := { s.pins with safeOk := !below } }

/-- The level at a stop output's ball. -/
def stopBall (s : State) (x : StopSt) : Bool := x.level && s.pins.safeOk

/-! ## The flash (R520) -/

/-- The regions of the flash that the device uses, as offset and size: the boot record's copies, the image slots, the owner
record's copies, the life log. No other offset is read or written. -/
def flashRegions : List (Nat × Nat) :=
  [(0x00000000, 0x10000), (0x00010000, 0x10000), (0x00100000, 0x400000), (0x00500000, 0x400000), (0x00900000, 0x10000),
    (0x00910000, 0x10000), (0x01000000, 0x400000)]

/-- The device drives its flash pins; while RESET_N is low they are at high impedance, and another master may program the flash. -/
def flashDriven (s : State) : Bool := s.pins.resetN && s.pins.supplied && s.boot.phase != .off

/-! ## Image choice (R497, R521) -/

/-- The boot ROM's checks of a slot: those of R494 without the binding. -/
def imageOk (nv : NonVol) (slot : Nat) : Bool :=
  match nv.images[slot]? with
  | some i => i.valid && nv.svn ≤ i.svn && !nv.revoked.contains i.key
  | none => false

/-- A candidate that is not active costs an attempt; after the second it is given up. -/
def countAttempt (nv : NonVol) : NonVol :=
  let g := bootRec nv
  if g.cand = g.active then nv
  else
    let n1 := writeBootRec nv g.cand g.active (g.attempts + 1)
    if 2 < g.attempts + 1 then writeBootRec n1 g.active g.active (g.attempts + 1) else n1

/-- The slot that starts, and whether it is not the candidate. -/
def chooseImage (nv : NonVol) : Option (Nat × Bool) :=
  let c := (bootRec nv).cand
  if imageOk nv c then some (c, false) else if imageOk nv (1 - c) then some (1 - c, true) else none

/-- At the first READY under an image: if it is the candidate's, the slot becomes active and the attempts return to 0; the security version is raised
and older keys are revoked (R497, R521). -/
def imageReady (nv : NonVol) (slot : Nat) : NonVol :=
  let g := bootRec nv
  let n1 := if g.cand = slot ∧ (g.active ≠ slot ∨ g.attempts ≠ 0) then writeBootRec nv slot slot 0 else nv
  match nv.images[slot]? with
  | some i => { n1 with svn := max n1.svn i.svn,
                        revoked := (List.range 4).filter (fun k => n1.revoked.contains k || decide (k < i.key)) }
  | none => n1

/-! ## Steps of start-up -/

/-- A boot fault (R525): step reached and code. -/
def bootFault (s : State) (step code : Nat) : State :=
  { s with boot := { s.boot with phase := .faulted, plan := none, idBoot := 2, step := step, fault := code } }

/-- Step 1: straps sampled, PWR_REQ high, the reset cause read and cleared (R518, R519, R547). Start-up ends after the
report's time, at most 1.8 s; the port answers from 20 ms on, or from the end of a shorter start-up (R50, R522). -/
def bootBegin (s : State) (rep : BootReport) : State :=
  { s with pins := { s.pins with supplied := true, resetN := true, pwrReq := true, sampledSingle := s.pins.hpSingle,
                                 sampledOctal := s.pins.flOctal },
           boot := { s.boot with phase := .starting, plan := some rep, cause := s.backup.cause,
                                 answerAt := s.raw + max 1 (min rep.ns 20000000), doneAt := s.raw + min rep.ns 1800000000 },
           backup := { s.backup with cause := 0 } }

/-- One failing start-up test of the entropy source; which health test fails is free (R514). -/
def trngFailOnce (a : State × List Ev) : State × List Ev :=
  let n := freeNat a.1
  (cntAdd n.2 rSecTrngCnt (n.1 % 2) 1, a.2 ++ [trngFailEv])

/-- Step 4: the entropy start-up test, then the seed and the device key (R500, R514). -/
def bootEntropy (s : State) (fails : Nat) : State × List Ev :=
  if 2 ≤ fails then
    let a := trngFailOnce (trngFailOnce (s, []))
    ({ a.1 with sec := { a.1.sec with trng := 3, trngFails := 2, keyReady := s.nv.seed.isSome } }, a.2)
  else
    let a := if fails = 1 then trngFailOnce (s, []) else (s, [])
    let s1 := entropyPass a.1
    let s2 := if s1.nv.seed.isNone && lifecycle s1.nv == 0 then
        (let r := entropyBlocks 2 s1
         { r.2 with nv := { r.2.nv with seed := some (leNat (r.1.take 48)) } })
      else s1
    ({ s2 with sec := { s2.sec with keyReady := s2.nv.seed.isSome } }, a.2)

def emptyReport : DieReport := ⟨false, 0, [], 0, [], false⟩
def dieReport (rep : BootReport) (d : Nat) : DieReport := rep.dies.getD (d - 1) emptyReport

/-- Capacity codes found for the channels of the dies that answer, 0 for one that is not populated. -/
def capsFound (s : State) (rep : BootReport) : List Nat :=
  rep.hubCaps.take 2 ++ (computeDies s).flatMap (fun d =>
    let r := dieReport rep d
    if r.answers then (List.range 4).map (fun c => r.caps.getD c 0) else [])

/-- The population rule of R436: every channel is populated, all with one capacity. -/
def populationOk (s : State) (rep : BootReport) : Bool :=
  rep.hubCaps.length == 2 &&
    (match capsFound s rep with
     | [] => false
     | c :: l => 1 ≤ c && c ≤ 3 && l.all (· == c))

/-- A die that answers comes up with its pens, stalls and channels. -/
def dieComesUp (r : DieReport) (x : Die) : Die :=
  { x with powered := true, up := true, floorKnown := true,
           pens := x.pens.map (fun u => u.both .ready),
           stalls := x.stalls.map (fun t => { t with view := t.view.both .ready }),
           mmc := (enumFrom 0 x.mmc).map (fun m => { m.2 with cap := r.caps.getD m.1 0, trained := bitOf r.trained m.1 }) }

/-- A pen that fails its start-up test is FAULTED and fenced (R524). -/
def penStart (d passed : Nat) (a : State × List Ev) (p : Nat) : State × List Ev :=
  andThen a (fun s =>
    if bitOf passed p then (s, [])
    else
      let f := fencePen (cntAdd s rDcuStCnt (d * 8 + 4) 1) d p 0x0160
      (f.1, { code := 0x0160, die := d, loc := p } :: f.2))

/-- Steps 5 to 7 for one compute die (R523, R524). -/
def startDie (rep : BootReport) (a : State × List Ev) (d : Nat) : State × List Ev :=
  let r := dieReport rep d
  if r.answers = false then andThen a (fun s => isolate s d)
  else
    let a1 := (modDie a.1 d (dieComesUp r), a.2)
    let a2 := ((List.range 4).filter (fun c => !bitOf r.trained c)).foldl (channelFails d) a1
    let a3 := (List.range 4).foldl (penStart d r.pens) a2
    let a4 := r.badBanks.foldl (fun b k => andThen b (fun s => bankFails s d k.1 k.2 .bank)) a3
    let a5 := if r.unitsOk then a4 else andThen a4 (fun s => fenceDie s d .startup)
    (newRotation (placeRole a5.1 d) d, a5.2)

/-- The hub comes up. -/
def startHub (s : State) (rep : BootReport) : State :=
  modDie s 0 (fun x =>
    { x with powered := true, up := true, floorKnown := true,
             mmc := (enumFrom 0 x.mmc).map (fun m => { m.2 with cap := rep.hubCaps.getD m.1 0, trained := true }) })

/-- The owner record's copies as the flash gives them: a copy that does not read back is not valid. Both invalid while the
generation has not changed: the record is lost (R506). -/
def ownerLost (s : State) (ok0 ok1 : Bool) : State × List Ev :=
  let nv := { s.nv with owner0 := if ok0 then s.nv.owner0 else none, owner1 := if ok1 then s.nv.owner1 else none }
  ({ s with nv := nv }, if lifecycle s.nv = 2 ∧ lifecycle nv ≠ 2 then [{ code := 0x1585, die := 0, loc := 0 }] else [])

/-- Step 8: the life log scanned, a power-on counted, the trip latch read and cleared, the calendar looked at (R476,
R477, R479, R483). -/
def bootLife (s : State) : State × List Ev :=
  let l := loadLife s
  let on := s.boot.cause == 1
  let s1 := { l.1 with life := { l.1.life with powerOns := l.1.life.powerOns + b2n on } }
  let a : State × List Ev := (s1, if l.2 then [{ code := 0x1680, die := 0, loc := 0 }] else [])
  let b := andThen a (fun t =>
    match t.backup.trip with
    | some d =>
      let w := lifeEvent { t with backup := { t.backup with trip := none } } 9 d [3, 125]
      (w.1, { code := 0x0153, die := d, loc := 0 } :: w.2)
    | none => (t, []))
  let c := andThen b (fun t => (t, if t.backup.calValid then [] else [{ code := 0x1683, die := 0, loc := 0 }]))
  andThen c (fun t => lifeEvent t 10 255 [0, 3, t.pwr.level, b2n on])

/-- Ten pace windows of a die with one value of its monitors (R522 step 9). -/
def bootPace (rep : BootReport) (s : State) (d : Nat) : State :=
  (List.range 10).foldl (fun a _ => addWindow a d (List.replicate (if d = 0 then 4 else 20) (rep.pace.getD d 0))) s

/-- Step 9: READY, with every event of start-up (R526). -/
def bootReady (a : State × List Ev) (rep : BootReport) (slot : Nat) (fell : Bool) : State :=
  let s1 := (allDies a.1).foldl (bootPace rep) a.1
  let up := maskOf 8 (fun d => isDie s1 d && (dieOf s1 d).up && !dieFenced s1 d)
  let boot := { s1.boot with phase := .running, plan := none, idBoot := 1, step := 9, slot := slot, fellBack := fell, diesUp := up }
  let s2 := { s1 with nv := imageReady s1.nv slot, boot := boot }
  raise s2 (a.2 ++ (if fell then [{ code := 0x1480, die := 0, loc := 0 }] else []) ++
    [{ code := 0x1481, die := 0, loc := 0, detail := leBytes 1 s2.boot.cause }])

/-- Steps 4 to 9 under a chosen image, which runs from step 3 on (R522, R538). -/
def bootRun (s : State) (rep : BootReport) (slot : Nat) (fell : Bool) : State :=
  let own := ownerLost { s with boot := { s.boot with slot := slot, fellBack := fell } } rep.owner0Ok rep.owner1Ok
  let e := andThen own (fun t => bootEntropy t rep.trngFails)
  if rep.hubTrained = false then bootFault e.1 5 2
  else
  let on := { e.1 with pins := { e.1.pins with cmpEn := true } }
  if populationOk on rep = false then bootFault on 6 3
  else
    let s1 := startHub on rep
    if rep.hubOk = false then bootFault s1 7 4
    else
      let dies := (computeDies s1).foldl (startDie rep) (s1, e.2)
      bootReady (andThen dies bootLife) rep slot fell

/-- Steps 1 to 9: from the boot ROM to READY or to a boot fault. -/
def bootFinish (s : State) (rep : BootReport) : State :=
  if rep.otpOk = false then bootFault s 1 5
  else
    let nv := countAttempt s.nv
    if rep.flashOk = false then bootFault s 3 1
    else match chooseImage nv with
      | none => bootFault { s with nv := nv } 3 1
      | some c => bootRun { s with nv := nv } rep c.1 c.2

/-- The internal hold ends: the rails are within their levels, and no trip of the latch holds the reset (R518, R546). -/
def holdEnds (rep : BootReport) (s : State) : Bool :=
  (s.pins.supplied || rep.supplied) && (s.backup.trip.isNone || rep.tripClear)

/-- RESET_N_RELEASE: start-up begins at the release, or at the end of an internal reset, of a part held in reset. -/
def execResetNRelease (rep : BootReport) (s : State) : Host.Outcome State Fault Refusal :=
  .next (if s.boot.phase = .held ∧ holdEnds rep s = true then bootBegin s rep else s)

/-- What start-up does at an instant: the port begins to answer, and READY or the boot fault is reached (R50, R522). -/
def bootTick (s : State) : State :=
  match s.boot.plan with
  | none => s
  | some rep =>
    let s1 := if s.raw = s.boot.answerAt then portComesUp s else s
    if s.boot.doneAt ≤ s.raw then bootFinish s1 rep else s1

end Sys2Proof.Machine
end

