-- ==== Sys2Proof/Machine/StopOut.lean ====
section
/-!
DEFINITION. The stop outputs STOP_A and STOP_B: boundaries (R418, R419), readbacks (R421) and the heartbeat between the
units that drive them (R420).
Conventions: log entry 40 (DEDUCED).
-/
namespace Sys2Proof.Machine

/-! ## Boundaries (R418, R419) -/

/-- Every member is clear by the verdict unit's copy, and by the checker's, which also needs its own verdict clear. -/
def aClear (s : State) : Bool := (stopMembers s).all (memberClear s)
def bClear (s : State) : Bool := (stopMembers s).all (fun c => memberClear s c && c.chkClear)

/-- The outputs may toggle at all. -/
def mayToggle (s : State) : Bool := serving s && !(stopMembers s).isEmpty && !forcedStop s

/-- An output at a boundary: it toggles, or holds its level. -/
def atBoundary (raw : Nat) (go : Bool) (o : StopSt) : StopSt :=
  if go && !o.dead then { o with level := !o.level, toggled := true, edge := some (!o.level, raw) }
  else { o with toggled := false }

/-- STOP_BOUNDARY: raw time has come to a multiple of 500,000 ns. -/
def execStopBoundary (s : State) : Host.Outcome State Fault Refusal :=
  .next (
    if s.zck.boundary + 500000 ≤ s.raw then
      let a := mayToggle s && aClear s
      let b := mayToggle s && bClear s
      let z := { s.zck with boundary := s.raw / 500000 * 500000, outA := atBoundary s.raw a s.zck.outA,
                            outB := atBoundary s.raw b s.zck.outB }
      { s with zck := z }
    else s)

/-! ## Readback (R421) -/

def outOf (s : State) (o : StopOut) : StopSt :=
  match o with
  | .a => s.zck.outA
  | .b => s.zck.outB

def setOut (s : State) (o : StopOut) (x : StopSt) : State :=
  match o with
  | .a => { s with zck := { s.zck with outA := x } }
  | .b => { s with zck := { s.zck with outB := x } }

/-- STOP_READBACK: a driver reads back its output, 50 us after the edge it drove. -/
def execStopReadback (out : StopOut) (level : Bool) (s : State) : Host.Outcome State Fault Refusal :=
  .next (
    let o := outOf s out
    match o.edge with
    | none => s
    | some (lv, t) =>
      if t + 50000 ≤ s.raw then
        let n := if level = lv then 0 else o.fails + 1
        let s1 := setOut s out { o with edge := none, fails := n }
        if 2 ≤ n ∧ (s.zck.outA.dead && s.zck.outB.dead) = false then
          let z := { s1.zck with outA := { s1.zck.outA with dead := true }, outB := { s1.zck.outB with dead := true } }
          raise { s1 with zck := z } [{ code := 0x1183, die := 0, loc := 0 }]
        else s1
      else s)

/-! ## Heartbeat (R420) -/

/-- The output of the unit that receives a heartbeat: the verdict unit's A from the checker, the checker's B otherwise. -/
def hearer (fromChecker : Bool) : StopOut := if fromChecker then .a else .b

/-- HEARTBEAT: 100 us after the last one. -/
def execHeartbeat (fromChecker : Bool) (s : State) : Host.Outcome State Fault Refusal :=
  .next (
    let o := outOf s (hearer fromChecker)
    if partOn s && decide (o.hb + 100000 ≤ s.raw) then setOut s (hearer fromChecker) { o with hb := s.raw, heard := true } else s)

/-- HEARTBEAT_TIMEOUT: a unit has received no heartbeat for 1 ms. -/
def execHeartbeatTimeout (atChecker : Bool) (s : State) : Host.Outcome State Fault Refusal :=
  .next (
    let w := hearer (!atChecker)
    let o := outOf s w
    if partOn s && decide (o.hb + 1000000 ≤ s.raw) && !o.dead then
      raise (setOut s w { o with dead := true }) [{ code := if atChecker then 0x1081 else 0x1182, die := 0, loc := 0 }]
    else s)

end Sys2Proof.Machine
end

