-- ==== Sys2Proof/Machine/TimeUnit.lean ====
section
/-!
DEFINITION. TIME_SET (R165 to R167) and the PTP client (R169 to R171), whose message layouts are those of IEEE 1588
(log entry 25), and POSE_WRITE (R182 to R185).
Conventions: log entry 16 (DESIGN CHOICE), log entry 25 (PRESUMED), log entry 69 (DESIGN CHOICE).
-/
namespace Sys2Proof.Machine

def modTmu (s : State) (f : Tmu → Tmu) : State := { s with tmu := f s.tmu }

/-! ## Offset and rate (R165) -/

/-- The rate changes at the present raw instant; the old rate's part folds into the offset. -/
def setRate (s : State) (rate : Int) : State :=
  modTmu s (fun t =>
    { t with offset := t.offset + t.rate * ((s.raw : Int) - t.anchor) / (2 : Int) ^ 40, anchor := s.raw, rate := rate })

/-- A step of time; windows that become known by it meet the slices in progress (R529). -/
def stepTime (s : State) (step : Int) : State := noteWindows (modTmu s (fun t => { t with offset := t.offset + step }))

/-- A step keeps corrected time within 0 to 2^63 - 1. -/
def stepInRange (s : State) (step : Int) : Bool :=
  decide (0 ≤ corrAt s s.raw + step) && decide (corrAt s s.raw + step < (2 : Int) ^ 63)

/-- A step is no larger than TMU_STEP_MAX_NS. -/
def smallStep (s : State) (step : Int) : Bool := decide (step.natAbs ≤ cfgFld s rTmuCfg 0 16 0)

/-- Sets the calendar counter and restarts its divider (R477). -/
def setCalendar (s : State) (sec : Nat) : State :=
  { s with backup := { s.backup with cal := sec % 2 ^ 48, calValid := true, calNs := 0 } }

/-! ## TIME_SET (R166, R167) -/

/-- The first status of R167 that applies, 0 if none. R166 asks for at least one select bit, and no rule names the status
without one: the model answers TMU_BAD_SET (log entry 69, DESIGN CHOICE). -/
def timeSetCheck (s : State) (sel : Nat) (step : Int) : Nat :=
  if cfgFld s rTmuCfg 0 31 31 = 1 then 0x0603
  else if sel % 8 = 0 ∨ (bitOf sel 0 = true ∧ stepInRange s step = false) then 0x0601
  else if bitOf sel 0 = true ∧ smallStep s step = false ∧ anyTrain s = true then 0x0602
  else 0

/-- TIME_SET: all parts apply, and the closes that a forward step passes occur. -/
def timeSetCmd (c : Cmd) (s : State) : State × CmdRes :=
  let sel := byteAt c.bytes 16
  let step := i64 c.bytes 24
  let st := timeSetCheck s sel step
  if st ≠ 0 then fail s st
  else
    let s1 := if bitOf sel 1 then setRate s (i32 c.bytes 32) else s
    let s2 := if bitOf sel 0 then stepTime s1 step else s1
    let s3 := if bitOf sel 2 then setCalendar s2 (leNat (slice c.bytes 40 6)) else s2
    (runCloses s3, .done 0 (leBytes 8 (now s3)))

/-- TIME_SET. -/
def execTimeSet (slot : Nat) (s : State) : Host.Outcome State Fault Refusal :=
  .next (withCmd 0x0043 slot s timeSetCmd)

/-! ## PTP messages -/

/-- The PTP message at the head of the firmware queue, if it has the type. -/
def ptpHead (s : State) (ty : Nat) : Option (RxFrame × List Byte) :=
  match fwHead s with
  | none => none
  | some f =>
    match if hubServes s 0x06 then ptpMessage s f else none with
    | some m => if ptpType m = ty ∧ isArp s f = false ∧ isSolicit s f = false then some (f, m) else none
    | none => none

/-- correctionField in ns, rounded toward minus infinity. -/
def correction (m : List Byte) : Int := signed 64 (be m 8 8) / 65536

/-- A timestamp of a message at offset 34, in ns. -/
def timestamp (m : List Byte) : Int := (be m 34 6 : Int) * 1000000000 + (be m 40 4 : Int)

def sourcePort (m : List Byte) : List Byte := slice m 20 10

def seqId (m : List Byte) : Nat := be m 30 2

/-- The selected master has announced itself within its receipt timeout of 3 intervals. -/
def masterHeard (s : State) (k : PtpMaster) : Bool :=
  s.tmu.foreign.any (fun f => f.master.port == k.port &&
    (match f.times with | [] => false | t :: _ => decide (s.raw < t + 3 * f.interval)))

/-- The message comes from the selected master's port, and the master is still heard. -/
def fromMaster (s : State) (m : List Byte) : Bool :=
  match s.tmu.master with
  | some k => k.port == sourcePort m && masterHeard s k
  | none => false

/-- The receive timestamp that the firmware takes, within 2 us of the arrival (R170), and the counter advanced. -/
def rxTime (s : State) (f : RxFrame) : Int × State :=
  let r := freeNat s
  ((f.arrival : Int) + (r.1 % 4001 : Nat) - 2000, r.2)

/-! ## The servo (R171) -/

/-- 500 ppm in units of 2^-40. -/
def slewMax : Int := 549755813

/-- A rate within its 32 bits. -/
def rate32 (r : Int) : Int := max (-(2 : Int) ^ 31) (min ((2 : Int) ^ 31 - 1) r)

/-- The correction the firmware makes: none in HOLDOVER; a step only if it is small, or in UNLOCKED with no open
train; a larger one while a train is open is held, slewed at up to 500 ppm beyond the frequency estimate, and raised
once. -/
def applyServo (s : State) (adj : Servo) : State :=
  if s.tmu.servo = 3 then s
  else
    let small := smallStep s adj.step
    let held := !small && anyTrain s
    let free := small || (s.tmu.servo == 1 && !anyTrain s)
    let s1 := if free && stepInRange s adj.step then stepTime s adj.step else s
    let slew := if held then max (-slewMax) (min slewMax adj.slew) else 0
    let s2 := runCloses (setRate s1 (rate32 (adj.rate + slew)))
    if held then
      let s3 := modTmu s2 (fun t => { t with stepHeld := true })
      if s.tmu.stepHeld then s3 else raise s3 [{ code := 0x0682, die := 0, loc := ptpLane s }]
    else modTmu s2 (fun t => { t with stepHeld := false })

/-- The calendar is set from the PTP seconds once per second. -/
def ptpCalendar (s : State) (sec : Nat) : State :=
  if s.tmu.calAt = 0 ∨ s.tmu.calAt + 1000000000 ≤ s.raw then
    modTmu (setCalendar s sec) (fun t => { t with calAt := s.raw })
  else s

/-- A usable Sync: a new difference, estimate, and what the servo makes of it. -/
def newEstimate (s : State) (diff : Int) (sec : Nat) (adj : Servo) : State :=
  let est := diff - s.tmu.pathDelay
  let good := if est.natAbs ≤ cfgFld s rTmuPtpCfg 0 15 0 * 1000 then s.tmu.good + 1 else 0
  let lock := decide (16 ≤ good) && s.tmu.servo != 2
  let s1 := ptpCalendar (modTmu s (fun t => { t with msDiff := diff, est := est, good := good, lastSync := s.raw })) sec
  let s2 := if lock then raise (modTmu s1 (fun t => { t with servo := 2 })) [{ code := 0x0680, die := 0, loc := ptpLane s }]
    else s1
  applyServo s2 adj

/-- SYNC: one-step, or two-step awaiting its Follow_Up. -/
def execSync (adjust : Servo) (s : State) : Host.Outcome State Fault Refusal :=
  .next (
    match ptpHead s 0 with
    | none => s
    | some (f, m) =>
      let s1 := fwTake s
      if fromMaster s1 m = false ∨ m.length < 44 then s1
      else
        let r := rxTime s1 f
        if bitOf (byteAt m 6) 1 then
          modTmu r.2 (fun t => { t with pendSync := some (seqId m, r.1.toNat, correction m) })
        else newEstimate r.2 (r.1 - timestamp m - correction m) (be m 34 6) adjust)

/-- FOLLOW_UP of the Sync that waits for it. -/
def execFollowUp (adjust : Servo) (s : State) : Host.Outcome State Fault Refusal :=
  .next (
    match ptpHead s 8 with
    | none => s
    | some (_, m) =>
      let s1 := fwTake s
      match s1.tmu.pendSync with
      | some (q, rx, corr) =>
        if fromMaster s1 m && q == seqId m && decide (44 ≤ m.length) then
          newEstimate (modTmu s1 (fun t => { t with pendSync := none }))
            ((rx : Int) - timestamp m - corr - correction m) (be m 34 6) adjust
        else s1
      | none => s1)

/-- Identity of the part's own PTP port. -/
def ownPort (s : State) : List Byte := eui64 (macOf s (ptpLane s)) ++ [0, 1]

/-- DELAY_RESP to the Delay_Req that was sent: the mean path delay. -/
def execDelayResp (s : State) : Host.Outcome State Fault Refusal :=
  .next (
    match ptpHead s 9 with
    | none => s
    | some (_, m) =>
      let s1 := fwTake s
      match s1.tmu.delayReq with
      | some (q, t3) =>
        if fromMaster s1 m && q == seqId m && slice m 44 10 == ownPort s1 then
          modTmu s1 (fun t => { t with delayReq := none,
                                       pathDelay := (t.msDiff + (timestamp m - correction m - (t3 : Int))) / 2 })
        else s1
      | none => s1)

/-- The master an Announce declares: grandmaster, port, and the dataset in the order the standard compares it. -/
def announced (m : List Byte) : PtpMaster :=
  { gm := slice m 53 8, port := sourcePort m,
    dataset := slice m 47 1 ++ slice m 48 4 ++ slice m 52 1 ++ slice m 53 8 ++ slice m 61 2 ++ sourcePort m }

/-- The announce interval that a message states, in ns. -/
def announceNs (m : List Byte) : Nat :=
  let e := min 16 (max (-16) (signed 8 (byteAt m 33)))
  if 0 ≤ e then 1000000000 * 2 ^ e.toNat else 1000000000 / 2 ^ (-e).toNat

/-- A foreign master's Announce has come within its receipt timeout of 3 intervals. -/
def heard (s : State) (f : Foreign) : Bool :=
  match f.times with
  | [] => false
  | t :: _ => decide (s.raw < t + 3 * f.interval)

/-- It is qualified: it has announced itself twice within 4 intervals. -/
def qualified (f : Foreign) : Bool :=
  match f.times with
  | a :: b :: _ => decide (a ≤ b + 4 * f.interval)
  | _ => false

/-- The better of two masters by their data sets. -/
def betterMaster (a : Option PtpMaster) (f : Foreign) : Option PtpMaster :=
  match a with
  | none => some f.master
  | some k => if beNat f.master.dataset < beNat k.dataset then some f.master else some k

/-- The best of the qualified foreign masters that are still heard (R169). -/
def bestMaster (s : State) : Option PtpMaster :=
  (s.tmu.foreign.filter (fun f => heard s f && qualified f)).foldl betterMaster none

/-- The foreign masters after an Announce: its sender's record is renewed, and those no longer heard are dropped. -/
def noteAnnounce (s : State) (m : List Byte) : List Foreign :=
  let a := announced m
  let old := s.tmu.foreign.find? (fun f => f.master.port == a.port)
  let rest := s.tmu.foreign.filter (fun f => f.master.port != a.port && heard s f)
  rest ++ [⟨a, announceNs m, s.raw :: ((old.map (·.times)).getD []).take 1⟩]

/-- Selects the best master; another grandmaster unlocks the servo. -/
def selectMaster (s : State) : State :=
  let b := bestMaster s
  let moved := b.map (·.port) != s.tmu.master.map (·.port)
  let g := match b with
    | some k => some k.gm
    | none => s.tmu.gm
  let changed := s.tmu.gm.isSome && g != s.tmu.gm
  let s1 := modTmu s (fun t => { t with master := b, gm := g, pendSync := if moved then none else t.pendSync,
                                        delayReq := if moved then none else t.delayReq })
  if changed then
    raise (modTmu s1 (fun t => { t with servo := 1, good := 0 })) [{ code := 0x0683, die := 0, loc := ptpLane s }]
  else s1

/-- An Announce that counts: whole, from another clock, and fewer than 255 steps from its grandmaster. -/
def announceOk (s : State) (m : List Byte) : Bool :=
  decide (64 ≤ m.length) && decide (be m 61 2 < 255) && (sourcePort m).take 8 != (ownPort s).take 8

/-- ANNOUNCE (R169). -/
def execAnnounce (s : State) : Host.Outcome State Fault Refusal :=
  .next (
    match ptpHead s 11 with
    | none => s
    | some (_, m) =>
      let s1 := fwTake s
      if announceOk s1 m then selectMaster (modTmu s1 (fun t => { t with foreign := noteAnnounce s1 m })) else s1)

/-! ## DELAY_REQ (R170) -/

/-- A Delay_Req message with an origin timestamp in ns. -/
def delayReqMsg (s : State) (t : Nat) : List Byte :=
  [0x01, 0x12, 0, 44, BitVec.ofNat 8 (cfgFld s rTmuCfg 0 30 24), 0, 0, 0] ++ List.replicate 12 0 ++ ownPort s ++
    beBytes 2 s.tmu.reqSeq ++ [1, 0x7F] ++ beBytes 6 (t / 1000000000) ++ beBytes 4 (t % 1000000000)

/-- The two bytes after the message that keep the UDP checksum of a message with a zero timestamp valid. -/
def fixup (blank sent : List Byte) : List Byte := beBytes 2 ((fold16 (sum16 blank) + 65535 - fold16 (sum16 sent)) % 65535)

/-- The UDP datagram of a Delay_Req: its checksum is that of the message with a zero timestamp. -/
def delayReqUdp (s : State) (src dst : List Byte) (t : Nat) : List Byte :=
  let blank := delayReqMsg s 0
  let sent := delayReqMsg s t
  (udpData src dst 319 319 (blank ++ [0, 0])).take 8 ++ sent ++ fixup blank sent

/-- The frame of a Delay_Req; the header fields the spec leaves open come from three free bytes. -/
def delayReqFrame (s : State) (t : Nat) (o : List Byte) : List Byte :=
  let l := ptpLane s
  if ptpTransport s = 2 then ethFrame [0x01, 0x1B, 0x19, 0, 0, 0] (macOf s l) 0x88F7 (delayReqMsg s t)
  else if ptpTransport s = 1 then
    let dst : List Byte := [0xFF, 0x0E, 0, 0, 0, 0, 0, 0, 0, 0, 0, 0, 0, 0, 0x01, 0x81]
    ethFrame [0x33, 0x33, 0, 0, 0x01, 0x81] (macOf s l) 0x86DD
      (ipv6Head (byteAt o 0) 17 (byteAt o 2) (linkLocal s l) dst 54 ++ delayReqUdp s (linkLocal s l) dst t)
  else
    let dst : List Byte := [224, 0, 1, 129]
    ethFrame [0x01, 0, 0x5E, 0, 0x01, 0x81] (macOf s l) 0x0800
      (ipv4Head (byteAt o 0) (byteAt o 1) (byteAt o 2) 17 (ip4Of s l) dst 54 ++ delayReqUdp s (ip4Of s l) dst t)

/-- The device may send a Delay_Req: its source is PTP, a master is selected, and the lane and its address are there. -/
def mayRequest (s : State) : Bool :=
  cfgFld s rTmuCfg 0 31 31 == 1 && (match s.tmu.master with | some k => masterHeard s k | none => false) && (laneOf s (ptpLane s)).up &&
    (ptpTransport s != 0 || cfgFld s rPdeIp4 (ptpLane s) 31 0 != 0)

/-- DELAY_REQ: the message departs with its departure time, taken within 8 ns, in originTimestamp. -/
def execDelayReq (s : State) : Host.Outcome State Fault Refusal :=
  .next (if mayRequest s then
      let r := freeNat s
      let o := freeBytes r.2 3
      let t := ((now s : Int) + (r.1 % 17 : Nat) - 8).toNat
      let s1 := modLane o.2 (ptpLane s) (fun l => { l with sent := delayReqFrame s t o.1 })
      modTmu s1 (fun k => { k with delayReq := some (k.reqSeq, t), reqSeq := (k.reqSeq + 1) % 65536 })
    else s)

/-- PTP_HOLDOVER_EXPIRY: no usable Sync for the holdover time; a servo that lacks the lane's IPv4 address stays UNLOCKED (R169). -/
def execPtpHoldoverExpiry (s : State) : Host.Outcome State Fault Refusal :=
  .next (if cfgFld s rTmuCfg 0 31 31 = 1 ∧ s.tmu.servo ≠ 3 ∧ ptpAddressed s = true ∧
      s.tmu.lastSync + cfgFld s rTmuPtpCfg 0 31 16 * 1000000 ≤ s.raw then
      raise (modTmu s (fun t => { t with servo := 3, good := 0 })) [{ code := 0x0681, die := 0, loc := ptpLane s }]
    else s)

/-! ## POSE_WRITE (R182 to R185) -/

/-- Sample i of the operands. -/
def poseSample (b : List Byte) (i : Nat) : Pose :=
  ⟨i64 b (24 + 56 * i), (List.range 12).map (fun k => i32 b (32 + 56 * i + 4 * k))⟩

/-- Fields in range and bytes of unused samples 0. -/
def poseOk (b : List Byte) : Bool :=
  let op := byteAt b 18
  let n := byteAt b 19
  decide (u16 b 16 ≤ 255) && decide (op ≤ 2) &&
    (if op = 0 then decide (1 ≤ n) && decide (n ≤ 3) else if op = 1 then n == 1 else n == 0) &&
    allZero (slice b (24 + 56 * n) (168 - 56 * n))

/-- Strictly ascending sample times. -/
def ascending : List Pose → Bool
  | a :: b :: l => decide (a.time < b.time) && ascending (b :: l)
  | _ => true

/-- The samples an append leaves: those of a MOVING table with the new ones, the newest 16. -/
def appended (t : PoseTab) (new : List Pose) : List Pose :=
  let l := (if t.mode = 2 then t.samples else []) ++ new
  l.drop (l.length - 16)

/-- A pose table as a write leaves it: in the tables, and in the snapshot of every frame that closes at this instant (R185). -/
def poseEffect (s : State) (f : List (Nat × PoseTab) → List (Nat × PoseTab)) : State :=
  { s with poses := f s.poses,
           frames := s.frames.map (fun g => if g.phase != .opened && g.closeRaw == s.raw then { g with poses := f g.poses } else g) }

def poseWriteCmd (c : Cmd) (s : State) : State × CmdRes :=
  let b := c.bytes
  let op := byteAt b 18
  let k := u16 b 16
  let new := (List.range (byteAt b 19)).map (poseSample b)
  let old := if (poseTab s k).mode = 2 then (poseTab s k).samples else []
  if poseOk b = false then fail s 0x0701
  else if op = 0 then
    (if ascending (old.drop (old.length - 1) ++ new) then
      (poseEffect s (fun l => mapPut l k ⟨2, appended (poseTab s k) new⟩), .done 0 [])
     else fail s 0x0702)
  else if op = 1 then (poseEffect s (fun l => mapPut l k ⟨1, new⟩), .done 0 [])
  else (poseEffect s (fun l => mapDel l k), .done 0 [])

/-- POSE_WRITE. -/
def execPoseWrite (slot : Nat) (s : State) : Host.Outcome State Fault Refusal :=
  .next (withCmd 0x0042 slot s poseWriteCmd)

end Sys2Proof.Machine
end

