-- ==== Sys2Proof/Machine/Verdict.lean ====
section
/-!
DEFINITION. The verdict unit: the combination of the two paths (R410, R411), the age-of-result monitor (R414), result
windows (R359), verdict frames (R415 to R417), the seal (R405 to R409) and what it leaves.
Conventions: log entry 35 (DEDUCED), log entry 36 (DEDUCED), log entry 37 (DEDUCED), log entry 38 (DEDUCED), log
entry 39 (DEDUCED), log entry 67 (DESIGN CHOICE), log entry 75 (DEDUCED), log entry 77 (DEDUCED), log entry 81
(DEDUCED).
-/
namespace Sys2Proof.Machine

/-! ## Combination (R410) -/

/-- How a frame is sealed: with ML results that count, without those of an accepted frame at its cut-off, with a checker
verdict, with one that is trusted; under a forced stop. -/
structure SealKind where
  refused : Bool
  miss : Bool
  mlOk : Bool
  mlTrusted : Bool
  chkIn : Bool
  chkOk : Bool
  forced : Bool
  deriving DecidableEq, Repr

/-- The kind of a seal now; `atCut` at the frame's cut-off (R405, R407, R409, R446). -/
def sealKind (s : State) (f : Frame) (atCut : Bool) : SealKind :=
  let refused := f.phase == .refused
  let mlOk := !refused && f.mlIn && !f.poisoned
  let chkIn := f.chk.isSome && !s.zck.dead
  { refused := refused, miss := atCut && !f.mlIn, mlOk := mlOk,
    mlTrusted := (match f.ml with | some r => !r.untrusted | none => false),
    chkIn := chkIn, chkOk := chkIn && chkCauses f == 0, forced := forcedStop s }

/-- Row 1 governs the frame. -/
def SealKind.row1 (k : SealKind) : Bool := k.mlOk && k.mlTrusted && k.chkOk && !k.forced

/-- The zone maps of a verdict, as the verdict frame carries them, and the least distances. -/
structure ZoneBits where
  comb : Nat
  chk : Nat
  ml : Nat
  dis : Nat
  dist : List Nat
  deriving DecidableEq, Repr

/-- Occupied zones of the checker: every one of an untrusted verdict, otherwise those whose count is at least their
minimum (R402, R403). -/
def chkBits (c : Ctx) (f : Frame) (r : ChkRes) : Nat :=
  maskOf c.zones.length (fun z => chkCauses f != 0 || decide (zMin (c.zones.getD z []) ≤ r.counts.getD z 0))

/-- Occupied zones of the ML path (R361). -/
def mlBits (c : Ctx) (r : MlRes) : Nat :=
  maskOf c.zones.length (fun z => r.untrusted || decide (1 ≤ r.counts.getD z 0))

def allZones (c : Ctx) : Nat := 2 ^ c.zones.length - 1

def latchedBits (c : Ctx) : Nat := maskOf c.zones.length (fun z => ((c.zst[z]?).map (·.latched)).getD false)

def protBits (c : Ctx) : Nat := maskOf c.zones.length (fun z => zProtective (c.zones.getD z []))

/-- The checker's part: its bits and distances; both are free where the verdict is not ready. -/
def chkPart (s : State) (c : Ctx) (f : Frame) (k : SealKind) : Nat × List Nat × State :=
  match k.chkIn, f.chk with
  | true, some r => (chkBits c f r, r.dist, s)
  | _, _ =>
    let b := freeBytes s (8 + 4 * c.zones.length)
    (leNat (b.1.take 8) % 2 ^ c.zones.length, (List.range c.zones.length).map (fun z => u32 b.1 (8 + 4 * z)), b.2)

/-- The ML path's part: 0 bits and no distance without ML results. -/
def mlPart (c : Ctx) (f : Frame) (k : SealKind) : Nat × List Nat :=
  match k.mlOk, f.ml with
  | true, some r => (mlBits c r, r.dist)
  | _, _ => (0, c.zones.map (fun _ => 0xFFFFFFFF))

/-- The combination before persistence: disagreements are those of the zones that row 1 governs. -/
def combine (s : State) (c : Ctx) (f : Frame) (k : SealKind) : ZoneBits × State :=
  let q := chkPart s c f k
  let m := mlPart c f k
  let latched := latchedBits c
  let every := k.forced || !k.chkOk || (k.mlOk && !k.mlTrusted)
  let dis := if k.row1 then maskOf c.zones.length (fun z => bitOf (q.1 ^^^ m.1) z && !bitOf latched z) else 0
  ({ comb := if every then allZones c else q.1 ||| m.1 ||| latched, chk := q.1, ml := m.1, dis := dis,
     dist := List.zipWith min q.2.1 m.2 }, q.2.2)

/-! ## Persistence (R411) -/

def bitCount (n : Nat) : Nat := ((List.range 64).filter (bitOf n)).length

/-- A zone's history under a frame that row 1 governs; a latched zone is under row 5. -/
def zonePersist (row1 : Bool) (z : ZoneSt) (d : Nat) : ZoneSt :=
  if row1 && !z.latched then
    let h := (z.hist * 2 + d) % 65536
    { z with hist := h, latched := decide (3 ≤ bitCount h) }
  else z

/-- The zones after persistence. -/
def persist (c : Ctx) (k : SealKind) (b : ZoneBits) : List ZoneSt :=
  (enumFrom 0 c.zst).map (fun z => zonePersist k.row1 z.2 (b2n (bitOf b.dis z.1)))

/-- The context with the zones of a seal; a zone that latches degrades it. -/
def persistCtx (c : Ctx) (k : SealKind) (b : ZoneBits) : Ctx :=
  let zs := persist c k b
  let newly := (enumFrom 0 zs).any (fun z => z.2.latched && !bitOf (latchedBits c) z.1)
  { c with zst := zs, st := if newly && c.st == 2 then 4 else c.st,
           pausedDegraded := c.pausedDegraded || (newly && c.st == 3) }

/-- Zones that latched. -/
def newLatches (c c1 : Ctx) : Nat := bitCount (latchedBits c1) - bitCount (latchedBits c)

/-- The zones' latest state for VRD_ZONE_STATE. -/
def noteZones (c : Ctx) (b : ZoneBits) : Ctx :=
  { c with zst := (enumFrom 0 c.zst).map (fun z =>
      { z.2 with combined := bitOf b.comb z.1, checker := bitOf b.chk z.1, ml := bitOf b.ml z.1 }) }

/-! ## Result windows (R359) -/

/-- A list's window offset and output number. -/
def listPlace (o : OpDecl) : Option (Nat × Nat) :=
  let off := if opCode o = cSuppress then u32 o.desc 8 else u32 o.desc 28
  match outList o with
  | some n => if off = 0xFFFFFFFF then none else some (off, n)
  | none => none

/-- The slots behind the valid entries: empty ones in a top-k, otherwise free. -/
def restBytes (s : State) (l : SelList) (n : Nat) : List Byte × State :=
  if l.topK then ((List.replicate n emptySlot).flatten, s) else freeBytes s (32 * n)

/-- Copies a row's list of `cap` entries at an offset of a window; entries that would pass its end are not copied. -/
def copyRow (c : Ctx) (off : Nat) (a : State × Nat) (l : SelList) : State × Nat :=
  let win := c.pages * 4096
  let base := 0x400000 + c.firstPage * 4096
  let fit := min l.cap ((win - off - 32) / 32)
  let cut := decide (win < off + 32) || decide (fit < l.cap)
  let rest := restBytes a.1 l (fit - l.entries.length)
  let d := selHeadBytes l cut ++ (l.entries.take fit).flatMap selEntryBytes ++ rest.1
  if win < off + 32 then (a.1, a.2 + 1)
  else (apertureWrite rest.2 c.chan (base + off) d, a.2 + b2n cut)

/-- Copies every list of a frame that has a window offset. -/
def copyLists (s : State) (c : Ctx) (f : Frame) : State :=
  let p := declOf s c.pkg
  let r := p.ops.foldl (fun a o =>
    match listPlace o with
    | none => a
    | some (off, n) =>
      (enumFrom 0 (listOf f n)).foldl (fun a l => copyRow c (off + l.1 * (32 + 32 * l.2.cap)) a l.2) a) (s, 0)
  ctxCnt r.1 rSelCtxCnt c.id 7 r.2

/-! ## Age of result (R414) -/

/-- The first stage that ended later than its cumulative bound: stage, operator, lateness in ns. -/
def firstLate (f : Frame) (seal_ : Nat) (n : Nat) : Option (Nat × Nat × Nat) :=
  (f.stamps ++ [(9, n, seal_)]).findSome? (fun (t : Nat × Nat × Nat) =>
    match mapFind f.cum t.2.1 with
    | some b => if f.refRaw + b < t.2.2 then some (t.1, t.2.1, t.2.2 - f.refRaw - b) else none
    | none => none)

/-- VRD_AGE_LOG of a report. -/
def ageLogOf (f : Frame) (r : Nat × Nat × Nat) : Nat :=
  f.num % 2 ^ 32 * 2 ^ 32 + r.1 * 2 ^ 28 + (if r.1 = 5 then r.2.1 % 4096 else 0) * 65536 + min 65535 (r.2.2 / 1000)

/-- The monitor's report at a seal. -/
def ageReport (s : State) (c : Ctx) (f : Frame) : State × List Ev :=
  let r := if f.followed ∧ f.phase = .accepted ∧ c.guaranteed = true then
    firstLate f s.raw (declOf s c.pkg).ops.length else none
  match r with
  | none => (s, [])
  | some r =>
    (ctxCnt (modCtx s c.id (fun x => { x with ageLog := ageLogOf f r })) rVrdCtxCnt c.id 6 1,
      [{ code := 0x1184, die := 0, loc := c.id }])

/-! ## Deadline misses (R407, R408) -/

/-- Charges a miss to a die; enough of them within 1 s fence it. -/
def chargeDie (a : State × List Ev) (d : Nat) : State × List Ev :=
  let s := a.1
  let l := ((dieOf s d).misses.filter (fun t => within 1000000000 t s.raw)) ++ [s.raw]
  let s1 := modDie s d (fun x => { x with misses := l })
  let m := cfgFld s rVrdCfg 0 31 28
  if m ≠ 0 ∧ m ≤ l.length ∧ (dieOf s d).fences.contains .misses = false then
    let r := fenceDie s1 d .misses
    (r.1, a.2 ++ [{ code := 0x1181, die := 0, loc := d }] ++ r.2)
  else (s1, a.2)

/-- A missed deadline: event, counter, life-log record (R479), charges, and the frames that are followed after it. -/
def missed (s : State) (c : Ctx) (num : Nat) : State × List Ev :=
  let s1 := modCtx (ctxCnt s rVrdCtxCnt c.id 4 1) c.id (fun x => { x with follow := max 16 x.follow })
  let w := lifeEvent s1 8 255 [c.id, num, c.dieMask]
  (maskDies c.dieMask).foldl chargeDie (w.1, w.2 ++ [{ code := 0x0D01, die := 0, loc := c.id }])

/-! ## Verdict frames (R415 to R417) -/

/-- Flag byte of the verdict frame. -/
def pduFlags (c : Ctx) (f : Frame) (k : SealKind) (b : ZoneBits) : Nat :=
  b2n k.mlOk + 2 * b2n k.refused + 4 * b2n k.miss + 8 * b2n (b.dis != 0) + 16 * b2n (c.st == 4) + 32 * b2n f.truncated +
    64 * b2n k.forced + 128 * b2n (!k.chkOk)

/-- Cause byte. -/
def pduCauses (s : State) (f : Frame) (k : SealKind) : Nat :=
  chkCauses f + 16 * b2n (!k.chkIn) + 32 * b2n (k.mlOk && !k.mlTrusted) + 64 * b2n (s.sec.debug != 0) +
    128 * b2n (forceSrc s % 8 != 0)

/-- The verdict PDU. -/
def verdictPdu (s : State) (c : Ctx) (f : Frame) (k : SealKind) (b : ZoneBits) : List Byte :=
  let body := beBytes 2 0x4C56 ++ [1] ++ beBytes 1 c.zones.length ++ beBytes 4 c.vseq ++ beBytes 2 c.id ++ [0, 0] ++
    beBytes 4 f.num ++ beBytes 4 f.close ++ beBytes 4 (c.period + c.deadline) ++ beBytes 1 (pduFlags c f k b) ++
    beBytes 1 (pduCauses s f k) ++ List.replicate 6 0 ++ beBytes 8 b.comb ++ beBytes 8 b.chk ++ beBytes 8 b.ml ++
    beBytes 8 b.dis ++ beBytes 8 (latchedBits c) ++ beBytes 8 (protBits c) ++ b.dist.flatMap (beBytes 4)
  body ++ beBytes 4 (crc32 body)

/-- IPv4 header of a verdict frame: DSCP 46, identification 0, DF, TTL 64, UDP. -/
def verdictIp (src dst : List Byte) (len : Nat) : List Byte :=
  let a : List Byte := [0x45, 0xB8] ++ beBytes 2 (20 + len) ++ [0, 0, 0x40, 0, 64, 17]
  a ++ beBytes 2 (checksum (a ++ src ++ dst)) ++ src ++ dst

/-- The Ethernet frame of a verdict for destination entry k, none if the lane cannot send it. -/
def verdictFrame (s : State) (k : Nat) (pdu : List Byte) : Option (List Byte) :=
  let kind := cfgFld s rVrdDest k 63 62
  let lane := cfgFld s rVrdDest k 61 58
  let mac := beBytes 6 (cfgFld s rVrdDest k 47 0)
  let dst := beBytes 4 (cfgFld s rVrdDestIp k 63 32)
  if (s.lanes.getD lane Lane.reset).up = false then none
  else if kind = 1 then some (ethFrame mac (macOf s lane) 0x88B5 pdu)
  else if kind = 2 ∧ cfgFld s rPdeIp4 lane 31 0 ≠ 0 then
    let u := udpData (ip4Of s lane) dst (cfgFld s rVrdDestIp k 15 0) (cfgFld s rVrdDestIp k 31 16) pdu
    some (ethFrame mac (macOf s lane) 0x0800 (verdictIp (ip4Of s lane) dst u.length ++ u))
  else none

/-- Puts a verdict frame in a transmit queue: in the place of an earlier one of the same context and destination, else
behind the verdict frames and ahead of every other frame. Answers whether it replaced one. -/
def queueVerdict (q : List TxFrame) (t : TxFrame) : List TxFrame × Bool :=
  if q.any (fun x => x.verdict == t.verdict) then (q.map (fun x => if x.verdict == t.verdict then t else x), true)
  else (q.takeWhile (fun x => x.verdict.isSome) ++ [t] ++ q.dropWhile (fun x => x.verdict.isSome), false)

/-- Destination of a context, 0 A, 1 B: whether it is enabled, and its entry. -/
def destOn (s : State) (x dest : Nat) : Bool :=
  (if dest = 0 then cfgFld s rVrdCtxCfg x 31 31 else cfgFld s rVrdCtxCfg x 26 26) != 0
def destOf (s : State) (x dest : Nat) : Nat :=
  if dest = 0 then cfgFld s rVrdCtxCfg x 30 27 else cfgFld s rVrdCtxCfg x 25 22

/-- Sends a verdict to one destination of the context. -/
def sendVerdict (pdu : List Byte) (c : Ctx) (s : State) (dest : Nat) : State :=
  if destOn s c.id dest = false then s
  else
    match verdictFrame s (destOf s c.id dest) pdu with
    | none => ctxCnt s rVrdCtxCnt c.id 5 1
    | some b =>
      let l := cfgFld s rVrdDest (destOf s c.id dest) 61 58
      let q := queueVerdict (s.lanes.getD l Lane.reset).tx ⟨some (c.id, dest), b⟩
      let s1 := { s with lanes := updAt s.lanes l (fun x => { x with tx := q.1 }) }
      ctxCnt (ctxCnt s1 rVrdCtxCnt c.id 0 1) rVrdCtxCnt c.id 5 (b2n q.2)

/-- Every enabled destination can be sent the verdict; with one that cannot, the verdict frame counts as not sent for R418
(log entry 75, DEDUCED). -/
def verdictSent (s : State) (c : Ctx) (pdu : List Byte) : Bool :=
  [0, 1].all (fun k => !destOn s c.id k || (verdictFrame s (destOf s c.id k) pdu).isSome)

/-- Both destinations, A before B; the context notes the verdict for R418 and R420. -/
def sendVerdicts (s : State) (c : Ctx) (f : Frame) (k : SealKind) (b : ZoneBits) : State :=
  let pdu := verdictPdu s c f k b
  let s1 := [0, 1].foldl (sendVerdict pdu c) s
  modCtx s1 c.id (fun x =>
    { x with vseq := if x.vseq = 0xFFFFFFFF then 1 else x.vseq + 1,
             sentAt := if verdictSent s c pdu then some s.raw else none,
             sentClear := b.comb &&& protBits c == 0, chkClear := k.chkIn && b.chk &&& protBits c == 0 })

/-! ## The pennant (R133) -/

/-- Deadline minus send, in ns; −2^31 for a miss, 0 for a refused or best-effort frame. -/
def slackOf (s : State) (c : Ctx) (f : Frame) (k : SealKind) : Int :=
  if k.refused || !c.guaranteed then 0
  else if k.miss then -(2 : Int) ^ 31
  else max (-(2 : Int) ^ 31) (min ((2 : Int) ^ 31 - 1) ((f.deadline : Int) - s.raw))

/-- Status of a frame pennant. -/
def sealStatusOf (f : Frame) (k : SealKind) : Nat :=
  if k.refused then f.refusal else if k.miss then 0x1101 else if f.poisoned then 0x0109 else 0

/-- The pennant of a frame (R133). Bytes 24-27 of a frame refused while its voxelisation is in progress are not stated:
the model reports 0, as for one refused before voxelisation (log entry 67, DESIGN CHOICE). -/
def framePennant (s : State) (c : Ctx) (f : Frame) (k : SealKind) (b : ZoneBits) : Pennant :=
  let flags := b2n f.truncated + 2 * b2n (b.dis != 0) + 4 * b2n (!k.mlOk) + 8 * b2n (c.st == 4)
  let cells := if f.voxDone then f.nCells else f.cells.length
  ⟨2, sealStatusOf f k, c.id, 0, f.num,
    leBytes 1 (if k.refused then 0 else f.pass) ++ leBytes 1 flags ++ leBytes 2 c.firstPage ++ leBytes 4 f.pts.length ++
      leBytes 4 cells ++ leBytes 4 (unsigned 32 (slackOf s c f k))⟩

def writeFramePennant (s : State) (c : Ctx) (k : SealKind) (p : Pennant) : State :=
  if k.refused then looseP s c.chan p else reservedPennant s c.chan p

/-! ## Map updates and deliveries (R387, R389, R134) -/

/-- Tables a frame has gradients of. -/
def gradTables (f : Frame) : List Nat := (f.grads.map (·.table)).eraseDups

/-- A sealed frame's gradients: held by their tables if the frame counts, otherwise discarded and counted. A table that is
being replaced holds them too, for a replacement that is aborted (R387; log entry 77, DEDUCED). -/
def holdGrads (s : State) (c : Ctx) (f : Frame) (k : SealKind) : State :=
  (gradTables f).foldl (fun a t =>
    let ready := match tableOf a t with | some x => x.st == 2 || x.st == 3 | none => false
    if k.mlOk && !k.miss && f.background && ready then
      { a with tables := a.tables.map (fun x =>
          if x.id == t then { x with upd := x.upd ++ [⟨c.id, a.raw, f.grads.filter (fun g => g.table == t)⟩] } else x) }
    else ctxCnt a rMtuCtxCnt c.id 6 1) s

/-- A delivered frame in the counts of its context and of the tables it uses. -/
def noteDelivered (s : State) (c : Ctx) (f : Frame) (k : SealKind) : State :=
  let late := k.miss || (c.guaranteed && decide (f.deadline < s.raw))
  let ts := pkgTables (declOf s c.pkg)
  let s1 := modCtx s c.id (fun x =>
    let l := x.slacks ++ [slackOf s c f k]
    { x with delivered := x.delivered + 1, late := x.late + b2n late, slacks := l.drop (l.length - 1024) })
  { s1 with tables := s1.tables.map (fun t => if ts.contains t.id then { t with since := t.since + 1 } else t) }

/-! ## The seal (R405 to R409) -/

/-- Counters of a verdict (R431). -/
def countVerdict (s : State) (c : Ctx) (k : SealKind) (b : ZoneBits) (atCut : Bool) (latches : Nat) : State :=
  let v := fun (a : State) (n x : Nat) => ctxCnt a rVrdCtxCnt c.id n x
  let s1 := v (v (v s (if k.mlOk then 1 else 2) 1) 3 (bitCount b.dis)) 7 latches
  if atCut && !k.chkIn then ctxCnt s1 rZckCtxCnt c.id 6 1 else s1

/-- The frame leaves: its leave, its dies, its tables' old epochs, and its context when this was the last frame. A frame
that the checker still works on keeps its half of the checker store. -/
def dismissFrame (s : State) (f : Frame) : State :=
  let is := fun (g : Frame) => g.ctx == f.ctx && g.num == f.num && g.phase != .sealed
  let frames := if f.chkReady then s.frames.filter (fun g => !is g)
    else s.frames.map (fun g => if is g then { workless g with phase := .sealed } else g)
  settleCtx (settleTables (endBeRun (dropLeave { s with frames := frames } f.ctx f.num) f.ctx f.num)) f.ctx

/-- The seal of a frame. -/
def sealFrame (s : State) (c : Ctx) (f : Frame) (atCut : Bool) : State :=
  let k := sealKind s f atCut
  let m := if k.miss then missed s c f.num else (s, [])
  let b := combine m.1 c f k
  let c0 := (ctxOf b.2 c.id).getD c
  let c1 := persistCtx c0 k b.1
  let latches := newLatches c0 c1
  let z := { b.1 with comb := b.1.comb ||| latchedBits c1 }
  let s1 := countVerdict (putCtx b.2 (noteZones c1 z)) c1 k z atCut latches
  let s2 := if k.mlOk then copyLists s1 c1 f else s1
  let s3 := writeFramePennant s2 c1 k (framePennant s2 c1 f k z)
  let s4 := sendVerdicts s3 c1 f k z
  let a := ageReport s4 c1 f
  let s5 := holdGrads a.1 c1 f k
  let s6 := if k.refused then s5 else noteDelivered s5 c1 f k
  let s7 := dismissFrame s6 f
  raise s7 (m.2 ++ (if k.chkIn then [] else [{ code := 0x1080, die := 0, loc := c.id }]) ++
    List.replicate latches { code := 0x1180, die := 0, loc := c.id } ++ a.2)

/-- The frame may be sealed before a cut-off: both verdicts are in; a refused frame needs the checker's alone. A verdict
reported not ready stands for one only where there is no cut-off to wait for. -/
def sealable (s : State) (c : Ctx) (f : Frame) : Bool :=
  if f.phase == .refused then f.chkReady
  else if f.phase == .accepted then
    (if c.guaranteed then f.mlIn && f.chk.isSome && !s.zck.dead && decide (s.raw ≤ f.cutoff) else f.mlIn && f.chkReady)
  else false

/-- FRAME_SEAL. -/
def execFrameSeal (ctx num : Nat) (s : State) : Host.Outcome State Fault Refusal :=
  .next (
    match ctxOf s ctx, frameOf s ctx num with
    | some c, some f => if hubServes s 0x11 && sealable s c f then sealFrame s c f false else s
    | _, _ => s)

/-- CUTOFF_EXPIRY: the frame's cut-off has come. A poisoned frame is sealed once the checker's work on it has ended (R446). -/
def execCutoffExpiry (ctx num : Nat) (s : State) : Host.Outcome State Fault Refusal :=
  .next (
    match ctxOf s ctx, frameOf s ctx num with
    | some c, some f =>
      if hubServes s 0x11 && c.guaranteed && f.phase == .accepted && decide (f.cutoff ≤ s.raw) &&
          (!f.poisoned || f.chkReady || s.zck.dead) then sealFrame s c f true
      else s
    | _, _ => s)

/-- ML_RESULTS_IN: the zone occupancy operator has handed its values over. -/
def execMlResultsIn (ctx num : Nat) (s : State) : Host.Outcome State Fault Refusal :=
  .next (
    match ctxOf s ctx, frameOf s ctx num with
    | some c, some f =>
      if f.phase == .accepted && f.ml.isSome && !pastCutoff s c f then
        modFrameAt s ctx num (fun g => { g with mlIn := true })
      else s
    | _, _ => s)

end Sys2Proof.Machine
end

