-- ==== Sys2Proof/Machine/Dispatch.lean ====
section
/-!
DEFINITION. The dispatch of the commands: one arm per row of the opcode table, each one call of the command's meaning.
-/
namespace Sys2Proof.Machine

/-- The effect of a command on everything but the queue. -/
def exec (i : Instr) (s : State) : Host.Outcome State Fault Refusal :=
  match i with
  | .nop slot => Sys2Proof.Machine.execNop slot s
  | .cfgRead slot => Sys2Proof.Machine.execCfgRead slot s
  | .cfgWrite slot => Sys2Proof.Machine.execCfgWrite slot s
  | .txnBegin slot => Sys2Proof.Machine.execTxnBegin slot s
  | .txnCommit slot => Sys2Proof.Machine.execTxnCommit slot s
  | .txnAbort slot => Sys2Proof.Machine.execTxnAbort slot s
  | .ctxCreate slot => Sys2Proof.Machine.execCtxCreate slot s
  | .ctxDestroy slot => Sys2Proof.Machine.execCtxDestroy slot s
  | .ctxQuery slot => Sys2Proof.Machine.execCtxQuery slot s
  | .frameOpen slot => Sys2Proof.Machine.execFrameOpen slot s
  | .frameClose slot => Sys2Proof.Machine.execFrameClose slot s
  | .ctxClearDegraded slot => Sys2Proof.Machine.execCtxClearDegraded slot s
  | .pkgLoad slot pkg => Sys2Proof.Machine.execPkgLoad slot pkg s
  | .pkgUnload slot => Sys2Proof.Machine.execPkgUnload slot s
  | .bundleApply slot => Sys2Proof.Machine.execBundleApply slot s
  | .maptableReplace slot => Sys2Proof.Machine.execMaptableReplace slot s
  | .decoderSet slot => Sys2Proof.Machine.execDecoderSet slot s
  | .steerSet slot => Sys2Proof.Machine.execSteerSet slot s
  | .poseWrite slot => Sys2Proof.Machine.execPoseWrite slot s
  | .timeSet slot => Sys2Proof.Machine.execTimeSet slot s
  | .pwrStateSet slot => Sys2Proof.Machine.execPwrStateSet slot s
  | .paceSet slot => Sys2Proof.Machine.execPaceSet slot s
  | .gateSet slot => Sys2Proof.Machine.execGateSet slot s
  | .lifelogRead slot => Sys2Proof.Machine.execLifelogRead slot s
  | .fenceClear slot => Sys2Proof.Machine.execFenceClear slot s
  | .eventLogRead slot => Sys2Proof.Machine.execEventLogRead slot s
  | .fwUpdate slot => Sys2Proof.Machine.execFwUpdate slot s
  | .attest slot => Sys2Proof.Machine.execAttest slot s
  | .debugChallenge slot => Sys2Proof.Machine.execDebugChallenge slot s
  | .debugUnlock slot flashOk => Sys2Proof.Machine.execDebugUnlock slot flashOk s
  | .lifecycleSet slot flashOk => Sys2Proof.Machine.execLifecycleSet slot flashOk s
  | .sealWrite slot data mask md => Sys2Proof.Machine.execSealWrite slot data mask md s
  | .penConsumerWrite ch value md => Sys2Proof.Machine.execPenConsumerWrite ch value md s
  | .hostWrite ch sub bank col data mask md => Sys2Proof.Machine.execHostWrite ch sub bank col data mask md s
  | .hostRead ch sub bank col ue asRead => Sys2Proof.Machine.execHostRead ch sub bank col ue asRead s
  | .modeRegisterWrite ch mr value latencyLow => Sys2Proof.Machine.execModeRegisterWrite ch mr value latencyLow s
  | .modeRegisterRead ch mr => Sys2Proof.Machine.execModeRegisterRead ch mr s
  | .activate ch sub bank row => Sys2Proof.Machine.execActivate ch sub bank row s
  | .precharge ch sub bank => Sys2Proof.Machine.execPrecharge ch sub bank s
  | .refresh ch => Sys2Proof.Machine.execRefresh ch s
  | .powerDownEntry ch => Sys2Proof.Machine.execPowerDownEntry ch s
  | .powerDownExit ch => Sys2Proof.Machine.execPowerDownExit ch s
  | .selfRefreshEntry ch => Sys2Proof.Machine.execSelfRefreshEntry ch s
  | .selfRefreshExit ch => Sys2Proof.Machine.execSelfRefreshExit ch s
  | .commandBusTraining ch => Sys2Proof.Machine.execCommandBusTraining ch s
  | .clockToWriteClockLevelling ch => Sys2Proof.Machine.execClockToWriteClockLevelling ch s
  | .readCalibration ch mr => Sys2Proof.Machine.execReadCalibration ch mr s
  | .writeDataTraining ch => Sys2Proof.Machine.execWriteDataTraining ch s
  | .zqCalibrationStart ch => Sys2Proof.Machine.execZqCalibrationStart ch s
  | .zqCalibrationLatch ch => Sys2Proof.Machine.execZqCalibrationLatch ch s
  | .unsupportedCommand ch => Sys2Proof.Machine.execUnsupportedCommand ch s
  | .hostRateChange ch rate low => Sys2Proof.Machine.execHostRateChange ch rate low s
  | .hintHoldoffExpiry => Sys2Proof.Machine.execHintHoldoffExpiry s
  | .txnIdleExpiry => Sys2Proof.Machine.execTxnIdleExpiry s
  | .configStagedApply blk die => Sys2Proof.Machine.execConfigStagedApply blk die s
  | .txnCommitApply blk die => Sys2Proof.Machine.execTxnCommitApply blk die s
  | .pdkArbOrderWrite slot => Sys2Proof.Machine.execPdkArbOrderWrite slot s
  | .leaveBudgetWrite slot => Sys2Proof.Machine.execLeaveBudgetWrite slot s
  | .bmpForceStart => Sys2Proof.Machine.execBmpForceStart s
  | .bmpForceEnd => Sys2Proof.Machine.execBmpForceEnd s
  | .entdaa addr => Sys2Proof.Machine.execEntdaa addr s
  | .setdasa static addr => Sys2Proof.Machine.execSetdasa static addr s
  | .ethernetFrameReceived lane frame pcsError => Sys2Proof.Machine.execEthernetFrameReceived lane frame pcsError s
  | .packetSteer lane => Sys2Proof.Machine.execPacketSteer lane s
  | .blockDecode lane => Sys2Proof.Machine.execBlockDecode lane s
  | .arpRequest => Sys2Proof.Machine.execArpRequest s
  | .neighbourSolicitation => Sys2Proof.Machine.execNeighbourSolicitation s
  | .sync adjust => Sys2Proof.Machine.execSync adjust s
  | .followUp adjust => Sys2Proof.Machine.execFollowUp adjust s
  | .delayResp => Sys2Proof.Machine.execDelayResp s
  | .announce => Sys2Proof.Machine.execAnnounce s
  | .delayReq => Sys2Proof.Machine.execDelayReq s
  | .ptpHoldoverExpiry => Sys2Proof.Machine.execPtpHoldoverExpiry s
  | .laneLockLost lane => Sys2Proof.Machine.execLaneLockLost lane s
  | .laneLockTimer lane => Sys2Proof.Machine.execLaneLockTimer lane s
  | .sensorSilenceExpiry sensor => Sys2Proof.Machine.execSensorSilenceExpiry sensor s
  | .hostWindowPublish ch win data mask md => Sys2Proof.Machine.execHostWindowPublish ch win data mask md s
  | .hostWindowAnswer => Sys2Proof.Machine.execHostWindowAnswer s
  | .periodicFrameClose ctx => Sys2Proof.Machine.execPeriodicFrameClose ctx s
  | .deskewTile ctx num die => Sys2Proof.Machine.execDeskewTile ctx num die s
  | .voxeliseTile ctx num => Sys2Proof.Machine.execVoxeliseTile ctx num s
  | .voxelisationComplete ctx num => Sys2Proof.Machine.execVoxelisationComplete ctx num s
  | .exactPass ctx num => Sys2Proof.Machine.execExactPass ctx num s
  | .curveOrderStart ctx num => Sys2Proof.Machine.execCurveOrderStart ctx num s
  | .curveOrderTile ctx num die => Sys2Proof.Machine.execCurveOrderTile ctx num die s
  | .rulebookTile ctx num die => Sys2Proof.Machine.execRulebookTile ctx num die s
  | .operatorDispatch ctx num die stalls => Sys2Proof.Machine.execOperatorDispatch ctx num die stalls s
  | .leaveRequest ctx num die who => Sys2Proof.Machine.execLeaveRequest ctx num die who s
  | .leaveGrant die => Sys2Proof.Machine.execLeaveGrant die s
  | .stallTile stall => Sys2Proof.Machine.execStallTile stall s
  | .gather stall thread src len => Sys2Proof.Machine.execGather stall thread src len s
  | .gatherReturn stall thread => Sys2Proof.Machine.execGatherReturn stall thread s
  | .chunkSteal stall lane victim => Sys2Proof.Machine.execChunkSteal stall lane victim s
  | .tileSteal stall => Sys2Proof.Machine.execTileSteal stall s
  | .fillLines die cluster issuer addr n pattern => Sys2Proof.Machine.execFillLines die cluster issuer addr n pattern s
  | .copyLines die cluster issuer src dst n => Sys2Proof.Machine.execCopyLines die cluster issuer src dst n s
  | .paddockEngineDone die cluster issuer => Sys2Proof.Machine.execPaddockEngineDone die cluster issuer s
  | .arbiterDecide arb arrivals => Sys2Proof.Machine.execArbiterDecide arb arrivals s
  | .paddockAccess die cluster req acc drop => Sys2Proof.Machine.execPaddockAccess die cluster req acc drop s
  | .retryRound ctx num => Sys2Proof.Machine.execRetryRound ctx num s
  | .partitionMerge ctx num row part => Sys2Proof.Machine.execPartitionMerge ctx num row part s
  | .mapLookupWindow ctx num die => Sys2Proof.Machine.execMapLookupWindow ctx num die s
  | .bevScatterTile ctx num die => Sys2Proof.Machine.execBevScatterTile ctx num die s
  | .selectionTile ctx num die => Sys2Proof.Machine.execSelectionTile ctx num die s
  | .selectionMerge ctx num => Sys2Proof.Machine.execSelectionMerge ctx num s
  | .bestEffortFrameStart die => Sys2Proof.Machine.execBestEffortFrameStart die s
  | .checkerVerdictReady ctx num => Sys2Proof.Machine.execCheckerVerdictReady ctx num s
  | .mlResultsIn ctx num => Sys2Proof.Machine.execMlResultsIn ctx num s
  | .frameSeal ctx num => Sys2Proof.Machine.execFrameSeal ctx num s
  | .cutoffExpiry ctx num => Sys2Proof.Machine.execCutoffExpiry ctx num s
  | .ctxDestroyComplete ctx => Sys2Proof.Machine.execCtxDestroyComplete ctx s
  | .stopBoundary => Sys2Proof.Machine.execStopBoundary s
  | .stopReadback out level => Sys2Proof.Machine.execStopReadback out level s
  | .heartbeat fromChecker => Sys2Proof.Machine.execHeartbeat fromChecker s
  | .heartbeatTimeout atChecker => Sys2Proof.Machine.execHeartbeatTimeout atChecker s
  | .tableSwitch table => Sys2Proof.Machine.execTableSwitch table s
  | .flipStart table => Sys2Proof.Machine.execFlipStart table s
  | .flipCutoff table => Sys2Proof.Machine.execFlipCutoff table s
  | .flipSwitch table => Sys2Proof.Machine.execFlipSwitch table s
  | .flitReceived die link flit => Sys2Proof.Machine.execFlitReceived die link flit s
  | .halyardMessage src dst msg fails => Sys2Proof.Machine.execHalyardMessage src dst msg fails s
  | .paceWindow die counts => Sys2Proof.Machine.execPaceWindow die counts s
  | .audit die obs => Sys2Proof.Machine.execAudit die obs s
  | .selftestSliceStart die => Sys2Proof.Machine.execSelftestSliceStart die s
  | .selftestSliceEnd die pass => Sys2Proof.Machine.execSelftestSliceEnd die pass s
  | .rotationAgeExpiry die => Sys2Proof.Machine.execRotationAgeExpiry die s
  | .paddockLineTest die cluster bank line pass passOver60s => Sys2Proof.Machine.execPaddockLineTest die cluster bank line pass passOver60s s
  | .fenceTestComplete pass => Sys2Proof.Machine.execFenceTestComplete pass s
  | .sramScrub die target bank err victim last => Sys2Proof.Machine.execSramScrub die target bank err victim last s
  | .mmcRead die chan addr err for_ => Sys2Proof.Machine.execMmcRead die chan addr err for_ s
  | .patrolRead die chan err => Sys2Proof.Machine.execPatrolRead die chan err s
  | .mmcWrite die chan addr data drain => Sys2Proof.Machine.execMmcWrite die chan addr data drain s
  | .mmcRefresh die chan bank => Sys2Proof.Machine.execMmcRefresh die chan bank s
  | .mmcZqCalibration die chan => Sys2Proof.Machine.execMmcZqCalibration die chan s
  | .memoryAccess die target domain addr len write for_ => Sys2Proof.Machine.execMemoryAccess die target domain addr len write for_ s
  | .thermalSensorUpdate die temp => Sys2Proof.Machine.execThermalSensorUpdate die temp s
  | .criticalTrip die => Sys2Proof.Machine.execCriticalTrip die s
  | .powerStep => Sys2Proof.Machine.execPowerStep s
  | .paceChangeStep => Sys2Proof.Machine.execPaceChangeStep s
  | .pensOffComplete => Sys2Proof.Machine.execPensOffComplete s
  | .pensOnTestComplete passed => Sys2Proof.Machine.execPensOnTestComplete passed s
  | .dieOnComplete passed trained => Sys2Proof.Machine.execDieOnComplete passed trained s
  | .flashProgramComplete ok => Sys2Proof.Machine.execFlashProgramComplete ok s
  | .challengeExpiry => Sys2Proof.Machine.execChallengeExpiry s
  | .unlockExpiry => Sys2Proof.Machine.execUnlockExpiry s
  | .trngRetry pass => Sys2Proof.Machine.execTrngRetry pass s
  | .lifelogCheckpoint flashOk => Sys2Proof.Machine.execLifelogCheckpoint flashOk s
  | .agingDailyIndex die newPace => Sys2Proof.Machine.execAgingDailyIndex die newPace s
  | .agingYear flashOk => Sys2Proof.Machine.execAgingYear flashOk s
  | .powerOn => Sys2Proof.Machine.execPowerOn s
  | .resetNAssert ns taken => Sys2Proof.Machine.execResetNAssert ns taken s
  | .supplyBrownout => Sys2Proof.Machine.execSupplyBrownout s
  | .lockstepMismatch => Sys2Proof.Machine.execLockstepMismatch s
  | .watchdogExpiry => Sys2Proof.Machine.execWatchdogExpiry s
  | .resetNRelease rep => Sys2Proof.Machine.execResetNRelease rep s
  | .bypass => Sys2Proof.Machine.execBypass s
  | .idcode => Sys2Proof.Machine.execIdcode s
  | .samplePreload => Sys2Proof.Machine.execSamplePreload s
  | .extest => Sys2Proof.Machine.execExtest s
  | .debugHalt => Sys2Proof.Machine.execDebugHalt s
  | .debugResume => Sys2Proof.Machine.execDebugResume s
  | .debugStep => Sys2Proof.Machine.execDebugStep s
  | .abstractRegisterAccess reg write => Sys2Proof.Machine.execAbstractRegisterAccess reg write s
  | .systemBusAccess addr write => Sys2Proof.Machine.execSystemBusAccess addr write s
  | .laneLockGained lane => Sys2Proof.Machine.execLaneLockGained lane s
  | .remoteFaultReceived lane present => Sys2Proof.Machine.execRemoteFaultReceived lane present s
  | .verdictFrameTransmitted lane => Sys2Proof.Machine.execVerdictFrameTransmitted lane s
  | .entropyHealthTestFail adaptive => Sys2Proof.Machine.execEntropyHealthTestFail adaptive s
  | .backupSupplyLoss => Sys2Proof.Machine.execBackupSupplyLoss s
  | .vddSafeOutOfTolerance below => Sys2Proof.Machine.execVddSafeOutOfTolerance below s
  | .sramScrubOverdue die target bank => Sys2Proof.Machine.execSramScrubOverdue die target bank s

end Sys2Proof.Machine
end

