-- ==== Sys2Proof/Machine/Ticks.lean ====
section
/-!
DEFINITION. The passing of one nanosecond of raw time (R164), with what runs by the clock alone: the checker takes points
(R404), the calendar counts (R477), operating time and the dies' totals accumulate (R479, R482), and start-up comes to
the port's first answer and to its end (R50, R522). Log entry 1.
Conventions: log entry 1 (DESIGN CHOICE).
-/
namespace Sys2Proof.Machine

/-- The checker takes 2 points in every 5 ns, a best-effort one only while no guaranteed point waits (R404). -/
def tickChecker (raw : Nat) (z : Zck) : Zck :=
  if raw % 5 = 2 ∨ raw % 5 = 4 then
    (if z.gTaken < z.gAdm then { z with gTaken := z.gTaken + 1 }
     else if z.bTaken < z.bAdm then { z with bTaken := z.bTaken + 1 } else z)
  else z

/-- The calendar counter (R477). -/
def tickCalendar (b : Backup) : Backup :=
  if b.calNs + 1 < 1000000000 then { b with calNs := b.calNs + 1 } else { b with calNs := 0, cal := (b.cal + 1) % 2 ^ 48 }

/-- Leave granted on a die at the present level, mW. -/
def grantedLeave (s : State) (d : Nat) : Nat := ((dieOf s d).grants.map (fun g => leaveAt g.fig s.pwr.level)).sum

/-- A powered die's totals (R479). -/
def tickTotals (s : State) (d : Nat) (t : DieTot) : DieTot :=
  if (dieOf s d).powered then
    { t with powered := t.powered + 1, energy := t.energy + baseLeave s d s.pwr.level + grantedLeave s d }
  else t

/-- Operating time, its part in READY or SERVING, and the dies' totals. -/
def tickLife (s : State) : Life :=
  { s.life with opNs := s.life.opNs + 1, readyNs := s.life.readyNs + b2n (s.pwr.st == 3 || s.pwr.st == 4),
                tot := (enumFrom 0 s.life.tot).map (fun t => tickTotals s t.1 t.2) }

/-- One nanosecond passes. In OFF, only the calendar runs. -/
def tick (s : State) : State :=
  let b := tickCalendar s.backup
  if s.boot.phase = .off ∨ s.pins.supplied = false then { s with backup := b }
  else
    bootTick { s with raw := s.raw + 1, backup := b, zck := tickChecker (s.raw + 1) s.zck,
                      life := if partOn s then tickLife s else s.life }

end Sys2Proof.Machine
end

