-- ==== Sys2Proof/Safety.lean ====
section
/-!
DEFINITION. What counts as a sound state, in the terms claims use: the invariant of every step, what the
one-time-programmable memory may become, and how a command's completion shows at the host port.
-/
namespace Sys2Proof.Machine

/-! ## The invariant -/

/-- A channel's aperture memory is in canonical form, P and C are 32-bit values (R81), the counters of R58 and R86
saturate, and the open rows and expected sequences are listed by rising keys. -/
def ChanOk (c : Chan) : Prop :=
  c.mem.wf = true ∧ c.prod < 2 ^ 32 ∧ c.cons < 2 ^ 32 ∧ c.unbacked < 2 ^ 32 ∧ c.roWrites < 2 ^ 32 ∧
    c.unsupported < 2 ^ 32 ∧ c.latencyErr < 2 ^ 32 ∧ c.sramUe < 2 ^ 32 ∧ c.refused < 2 ^ 32 ∧ c.busySeals < 2 ^ 32 ∧
    c.consumerInvalid < 2 ^ 32 ∧ c.lost < 2 ^ 32 ∧ keysFrom 0 c.rows = true ∧ keysFrom 0 c.seqs = true ∧
    keysFrom 0 c.winSeq = true

/-- A die's main memory, paddocks and other SRAM are in canonical form, and its units listed by rising keys. -/
def DieOk (d : Die) : Prop :=
  d.mem.wf = true ∧ (∀ p ∈ d.pads, Memory.wf p = true) ∧ (∀ e ∈ d.sram, Memory.wf e.2 = true) ∧
    keysFrom 0 d.units = true

/-- The numbers of a die's pens, stalls, links, paddocks, paddock engines and main-memory channels. -/
def dieShape (d : Die) : List Nat :=
  [d.pens.length, d.stalls.length, d.links.length, d.pads.length, d.engines.length, d.mmc.length]

/-- The hub with 7 links and 2 channels, and seven compute dies of 4 pens, 40 stalls, 3 links, 5 paddocks with an engine
each, and 4 channels (R11, R12, R21, R24, R435). -/
def dieShapes : List (List Nat) := [0, 0, 7, 0, 0, 2] :: List.replicate 7 [4, 40, 3, 5, 5, 4]

/-- The legal values of the fields that hold a mode: power states OFF to SERVING (R458), levels Low to High (R31,
R465), debug levels CLOSED to INTRUSIVE (R507). -/
def ModesOk (st target level : Nat) (paceTo : Option Nat) (debug : Nat) (chal : Option (Nat × List Byte × Nat)) :
    Prop :=
  st ≤ 4 ∧ target ≤ 4 ∧ level ≤ 2 ∧ (∀ l, paceTo = some l → l ≤ 2) ∧ debug ≤ 2 ∧ ∀ c, chal = some c → c.1 ≤ 2

/-- The one-time-programmable fields lie within their widths (R492). -/
def NvOk (n : NonVol) : Prop := n.ownerGen ≤ 32 ∧ ∀ k ∈ n.revoked, k < 4

/-- The invariant of every step. -/
def Inv (s : State) : Prop :=
  s.chans.length = 2 ∧ (∀ c ∈ s.chans, ChanOk c) ∧ s.dies.map dieShape = dieShapes ∧ (∀ d ∈ s.dies, DieOk d) ∧
    s.dbg.hubMem.wf = true ∧ ModesOk s.pwr.st s.pwr.target s.pwr.level s.pwr.paceTo s.sec.debug s.sec.chal ∧
    NvOk s.nv ∧ s.log.recs.length ≤ 8192

/-- No programmed bit of the one-time-programmable memory is cleared, and the device seed, once programmed, stays
(R492). -/
def Grows (a b : NonVol) : Prop :=
  (∀ v, a.seed = some v → b.seed = some v) ∧ (a.provisioned = true → b.provisioned = true) ∧
    (a.returned = true → b.returned = true) ∧ a.ownerGen ≤ b.ownerGen ∧ a.svn ≤ b.svn ∧
    ∀ k ∈ a.revoked, k ∈ b.revoked

/-! ## The host's side -/

/-- A state without the host's side: the channels of the host port, the event log, HINT_N and the model's counter of free
values. Two states with the same rest differ on the host's side only. -/
def restOf (s : State) : State :=
  { s with chans := [], free := 0, pins := { s.pins with hint := false }, log := ⟨[], 0, []⟩ }

/-- A channel without its ring's bytes and positions, its loss marker and its commands in flight. -/
def quietOf (c : Chan) : Chan :=
  { c with mem := [], hostMeta := [], prod := 0, penTimes := [], lostSince := 0, inflight := [] }

/-- Nothing of the host's side changes either, but the ring of a channel and its commands in flight: the other channel,
the event log and every byte of the channel's aperture outside the ring stay, and so do the channel's expected sequences, open
rows, window pages, mode registers, consumer position and counters. -/
def RingOnly (s t : State) (ch : Nat) : Prop :=
  t.log = s.log ∧ (∀ k, k ≠ ch → chanOf t k = chanOf s k) ∧ quietOf (chanOf t ch) = quietOf (chanOf s ch) ∧
    ∀ a, a < 0x300000 ∨ 0x340000 ≤ a → memGet (chanOf t ch).mem a = memGet (chanOf s ch).mem a

/-- The port's sub-channel that holds an offset responds, and the offset's row is open in its bank (R62). -/
def RowOpen (s : State) (ch off : Nat) : Prop :=
  portReady s ch (subOfOff off) = true ∧
    mapFind (chanOf s ch).rows (rowKey (subOfOff off) (bankOfOff off)) = some (off / 65536)

/-! ## A command's completion at the host port -/

/-- The 32 bytes of ring entry `p` mod 8,192 of a channel (R57, R84). -/
def ringEntry (s : State) (ch p : Nat) : List Byte :=
  memRead (chanOf s ch).mem (0x300000 + p % 8192 * 32) 32

/-- The last pennant written to a channel's ring is the completion of a command with a status (R84): type 1, its
generation, status, slot, zero `where`, and the command's tag; and P stands behind it. -/
def LastIsCompletion (s : State) (c : Cmd) (status : Nat) : Prop :=
  ∃ p, (chanOf s (c.slot / 8192)).prod = (p + 1) % 2 ^ 32 ∧
    (ringEntry s (c.slot / 8192) p).take 12 =
      leBytes 1 1 ++ leBytes 1 (p / 8192 % 256) ++ leBytes 2 status ++ leBytes 2 c.slot ++ leBytes 2 0 ++
        leBytes 4 c.tag

/-- The body of the last pennant begins with these bytes (R84). -/
def LastBody (s : State) (c : Cmd) (body : List Byte) : Prop :=
  ∃ p, (chanOf s (c.slot / 8192)).prod = (p + 1) % 2 ^ 32 ∧
    ((ringEntry s (c.slot / 8192) p).drop 16).take body.length = body

/-- A command has completed with a status: it is no longer in flight and its pennant is the last one of its channel
(R75, R84). -/
def Completed (s : State) (c : Cmd) (status : Nat) : Prop :=
  cmdOf s c.slot = none ∧ LastIsCompletion s c status

/-- The command has left the commands in flight of its channel, and the others stay there as they are, in their order. -/
def LeftFlight (u t : State) (c : Cmd) : Prop :=
  (chanOf t (c.slot / 8192)).inflight = (chanOf u (c.slot / 8192)).inflight.filter (fun x => x.slot != c.slot)

/-- State `t` is state `u` with a command completed: its pennant stands behind the ring, the command alone has left the
commands in flight, and nothing else of `u` changes. -/
def CompletedOver (u t : State) (c : Cmd) (status : Nat) (body : List Byte) : Prop :=
  Completed t c status ∧ LastBody t c body ∧ restOf t = restOf u ∧ RingOnly u t (c.slot / 8192) ∧ LeftFlight u t c

/-- The event log gained one record, of a code and a `where` (R535). -/
def Logged (s t : State) (code whr : Nat) : Prop :=
  ∃ r, t.log.recs = keepLast 8192 (s.log.recs ++ [r]) ∧ r.code = code ∧ r.whr = whr

/-- A channel without what pennants change: its ring and positions, and its counts of lost pennants. -/
def portOf (c : Chan) : Chan :=
  { c with mem := [], hostMeta := [], prod := 0, penTimes := [], lost := 0, lostSince := 0, rateEvent := false }

/-- The channels changed by pennants at most: every byte of each aperture outside the ring stays, and so does all else
that is not the ring's (R57, R82, R84). -/
def PennantsOnly (s t : State) : Prop :=
  ∀ k, portOf (chanOf t k) = portOf (chanOf s k) ∧
    ∀ a, a < 0x300000 ∨ 0x340000 ≤ a → memGet (chanOf t k).mem a = memGet (chanOf s k).mem a

/-- State `t` is state `u` with one event raised: its log record, at most pennants at the host port, and nothing else
(R82, R535). -/
def Raised (u t : State) (code whr : Nat) : Prop :=
  restOf t = restOf u ∧ PennantsOnly u t ∧ Logged u t code whr

/-- No write and no part of a commit waits for a block's unit boundary (R95, R100). -/
def AtRest (s : State) (blk die : Nat) : Prop :=
  (∀ w ∈ s.cfg.waits, ¬ (w.blk = blk ∧ w.die = die)) ∧ ∀ k ∈ s.txn.commits, (blk, die) ∉ k.todo

/-- Corrected time has reached no scheduled close of an open frame (R156, R167). -/
def NoCloseDue (s : State) : Prop := ∀ c ∈ s.ctxs, ∀ x, nextClose s c = some x → now s < x

/-! ## Parts of a die -/

/-- Nothing changes but one die and the counters. -/
def DieOnly (s t : State) (d : Nat) : Prop :=
  t = { s with dies := t.dies, cnt := t.cnt } ∧ ∀ e, e ≠ d → dieOf t e = dieOf s e

/-- Nothing changes but one stall, by its global index, and the counters. -/
def StallOnly (s t : State) (g : Nat) : Prop :=
  DieOnly s t (stallDie g) ∧
    dieOf t (stallDie g) = { dieOf s (stallDie g) with stalls := (dieOf t (stallDie g)).stalls } ∧
    ∀ h, h ≠ g → stallOf t h = stallOf s h

/-- What a paddock engine does with an operation that its issuer issues (R238, R240): held in the issuer's entry, or behind
the issuer's own previous one; refused by the firewall as a whole where its bytes lie past the paddock (R449); not performed, and the issuing stall's tile
flagged, where it is malformed. -/
def EngineTakes (s : State) (i : Instr) (d k : Nat) (op : EngineOp) (addrs : List Nat) : Prop :=
  let g := stallIdx d (k * 8 + op.issuer)
  let x := { op with for_ := if op.issuer < 8 then stallFor s g else op.for_ }
  let e := engineOf s d k
  (engineOk addrs op.n = false → ∃ t, exec i s = .next t ∧
    (if op.issuer < 8 then
      StallOnly s t g ∧ t.cnt = s.cnt ∧
        stallOf t g = { stallOf s g with flagged := true }
    else t = s)) ∧
  (engineOk addrs op.n = true → (∃ a ∈ addrs, 2 ^ 23 < a + 64 * op.n) → ∃ l, pastLine op = some l ∧ 2 ^ 23 ≤ l.1 ∧ l.1 % 64 = 0 ∧
    exec i s = .next (fwRefuse s d k (domainOf s x.for_) l.1 l.2 x.for_)) ∧
  (engineOk addrs op.n = true → (∀ a ∈ addrs, a + 64 * op.n ≤ 2 ^ 23) → ∃ t, exec i s = .next t ∧ DieOnly s t d ∧
    t.cnt = s.cnt ∧ dieOf t d = { dieOf s d with engines := (dieOf t d).engines } ∧
    ((∀ y ∈ e.ops, y.issuer ≠ op.issuer) → engineOf t d k = { e with ops := e.ops ++ [x] }) ∧
    ((∃ y ∈ e.ops, y.issuer = op.issuer) → engineOf t d k = { e with waiting := e.waiting ++ [x] }) ∧
    ∀ j, j ≠ k → engineOf t d j = engineOf s d j)

/-- Bytes of a paddock after a write of some bytes at an address. -/
def PadWritten (s t : State) (d k addr : Nat) (data : List Byte) : Prop :=
  ∀ a, memGet ((dieOf t d).pads.getD k []) a =
    if addr ≤ a ∧ a < addr + data.length then data.getD (a - addr) 0 else memGet ((dieOf s d).pads.getD k []) a

/-- What an access within one line does to the paddock and to its requester where the firewall permits it: a read gives its
bytes to the gather it serves, a write stores its own, staging puts a line into the stall's near buffer, a drain stores the
next line of the stall's shadow set, the engine's writes a line of its fill or of the copy's line read before, and a unit's
moves the first line it waits for in that bank (R230, R231, R237, R239, R242). -/
def LineAccess (s t : State) (d k req : Nat) (acc : PaddockAcc) (r : ReadFor) : Prop :=
  let g := stallIdx d (k * 8 + req)
  let pad := (dieOf s d).pads.getD k []
  let same := (dieOf t d).pads.getD k [] = pad
  let may := fun (x : ReadFor) (a n : Nat) (write : Bool) => fwPermits s d k (domainOf s x) a n write = true
  match acc with
  | .read a n => same ∧ ∀ h x, servedGather s d k req a n = some (h, x) → may x.for_ a n false →
      (stallOf t h).gathers = (stallOf s h).gathers.map (fun y =>
        if y.thread == x.thread then { y with got := y.got ++ memRead pad a n } else y)
  | .write a data => may r a data.length true → PadWritten s t d k a data
  | .stage a l => same ∧ (req < 8 → l < 2048 → may r a 64 false → mapFind (stallOf t g).near l = some (memRead pad a 64))
  | .drain a => req < 8 → (stallOf s g).drain ≠ 0 → may r a 64 true →
      PadWritten s t d k a (setLine (stallOf s g).shadow (64 - (stallOf s g).drain)) ∧
        (stallOf t g).drain = (stallOf s g).drain - 1
  | .move a => ∀ x, 9 ≤ req →
      (dieOf s d).xfers.find? (fun x => x.req == req && x.cluster == k && x.addr / 2 ^ 17 == a / 2 ^ 17) = some x → x.addr = a →
      (dieOf t d).xfers = (dieOf s d).xfers.erase x ∧ (x.out.isSome = true → same) ∧
        (x.out = none → may x.for_ a x.data.length true → PadWritten s t d k a x.data)
  | .line a => ∀ op, req = 8 → serveNext (engineOf s d k) = some op → lineAddr op = a →
      (op.src.isSome = true → op.buf = none → may op.for_ a 64 false →
        same ∧ (engineOf t d k).ops = (engineMade (engineOf s d k) op (some (memRead pad a 64))).ops) ∧
      (op.src = none ∨ op.buf.isSome = true → may op.for_ a (op.buf.getD (List.replicate 8 op.pattern).flatten).length true →
        PadWritten s t d k a (op.buf.getD (List.replicate 8 op.pattern).flatten) ∧
          (engineOf t d k).ops = (engineMade (engineOf s d k) op none).ops)

/-! ## A zone at a seal (R410, R411) -/

/-- The ML path finds a zone occupied: at least one entry measured in it. -/
def mlOccupied (f : Frame) (i : Nat) : Bool :=
  match f.ml with
  | some r => decide (1 ≤ r.counts.getD i 0)
  | none => false

/-- The checker finds a zone occupied: at least the zone's own minimum of points (R402). -/
def chkOccupied (c : Ctx) (f : Frame) (i : Nat) : Bool :=
  match f.chk with
  | some r => decide (zMin (c.zones.getD i []) ≤ r.counts.getD i 0)
  | none => false

/-- The ML results count: the frame is not refused, they are in, and the frame is not poisoned. -/
def MlCounts (f : Frame) : Prop := f.phase ≠ .refused ∧ f.mlIn = true ∧ f.poisoned = false

/-- The ML results are trusted (R361). -/
def MlTrusted (f : Frame) : Prop := ∃ r, f.ml = some r ∧ r.untrusted = false

/-- The checker verdict is ready and trusted (R403). -/
def ChkTrusted (s : State) (f : Frame) : Prop := f.chk.isSome = true ∧ s.zck.dead = false ∧ chkCauses f = 0

/-- Zone `i` of a context over a seal of a frame, from `z` to `z'`. Under row 1 the history takes in the disagreement and
latches at three of sixteen; otherwise both stay. The combined verdict is occupied where either path finds the zone so or it
is latched (row 1); as the checker without ML results (row 2); and occupied by an untrusted ML result, an untrusted or
missing checker verdict, a forced stop or a latch (rows 3 to 5). -/
def ZoneSealed (s : State) (c : Ctx) (f : Frame) (i : Nat) (z z' : ZoneSt) : Prop :=
  let row1 := MlCounts f ∧ MlTrusted f ∧ ChkTrusted s f ∧ forcedStop s = false ∧ z.latched = false
  (row1 → z'.hist = (z.hist * 2 + if mlOccupied f i = chkOccupied c f i then 0 else 1) % 65536 ∧
    z'.latched = decide (3 ≤ bitCount z'.hist) ∧ z'.combined = (mlOccupied f i || chkOccupied c f i || z'.latched)) ∧
  (¬ row1 → z'.hist = z.hist ∧ z'.latched = z.latched) ∧
  (¬ MlCounts f → ChkTrusted s f → forcedStop s = false → z.latched = false → z'.combined = chkOccupied c f i) ∧
  (MlCounts f ∧ ¬ MlTrusted f ∨ ¬ ChkTrusted s f ∨ forcedStop s = true ∨ z.latched = true → z'.combined = true)

/-- A frame is sealed: it is gone, its context has noted whether its verdict is sent now to every enabled destination (R415,
R418), each of the context's zones has taken the row of R410 and R411, and neither the zones of other contexts nor other
frames change. -/
def FrameSealed (s t : State) (c : Ctx) (f : Frame) : Prop :=
  frameOf t c.id f.num = none ∧
    (∃ c', ctxOf t c.id = some c' ∧ c'.sentAt = (if verdictSent s c [] then some s.raw else none) ∧ c'.vseq = (if c.vseq = 0xFFFFFFFF then 1 else c.vseq + 1) ∧
      c'.zst.length = c.zst.length ∧ (c.zst.length = c.zones.length →
        ∀ i z z', c.zst[i]? = some z → c'.zst[i]? = some z' → ZoneSealed s c f i z z') ∧
      c'.refusedCnt = c.refusedCnt ∧ c'.delivered = (if f.phase = .refused then c.delivered else c.delivered + 1)) ∧
    (∀ x, x ≠ c.id → (ctxOf t x).map (·.zst) = (ctxOf s x).map (·.zst)) ∧
    ∀ x n, (x, n) ≠ (c.id, f.num) → frameOf t x n = frameOf s x n

/-! ## A stop output at a boundary (R418) -/

/-- The part serves: it is in SERVING and not on its way out of it. -/
def partServes (s : State) : Prop := s.pwr.st = 4 ∧ s.pwr.changing = false

/-- A live output toggles under `go`, with the edge noted for its readback, and otherwise holds its level. -/
def AtBoundary (raw : Nat) (go : Prop) (o o' : StopSt) : Prop :=
  (go → o.dead = false → o' = { o with level := !o.level, toggled := true, edge := some (!o.level, raw) }) ∧
    (¬ go ∨ o.dead = true → o' = { o with toggled := false })

/-- A flip that finds no room for its copies: the table is as before, and MTU_FLIP_HELD is raised once (R392). -/
def FlipHeld (s t : State) (x : MapTable) : Prop :=
  if x.flipHeldRaised = true then t = s
  else Raised (modTable s x.id (fun y => { y with flipHeldRaised := true })) t 0x0D81 ((maskDies x.dies).headD 0 * 8192 + x.id)

/-! ## An audited unit (R38 to R41) -/

/-- A unit over one audit, from `u` as observed to `v`: an unacknowledged change is left; views that agree clear the count;
the first audit in which they differ fences the unit, and the third in a row faults it. -/
def Audited (u v : UnitSt) : Prop :=
  (u.unack = true → v = u) ∧
  (u.unack = false → viewsAgree u = true → v = { u with mism := 0 }) ∧
  (u.unack = false → viewsAgree u = false →
    (u.mism = 0 → v = { u with mgmt := .fenced, mism := 1 }) ∧ (u.mism = 1 → v = { u with mism := 2 }) ∧
      (u.mism = 2 → v = { u with mgmt := .faulted, mism := 3 }) ∧ (3 ≤ u.mism → v = u))

/-! ## Memory accesses (15) -/

/-- A read of a burst (R441 to R443), before the patrol moves on: one without errors is counted; a corrected one is written
back, and nothing outside its 32 bytes changes; an uncorrectable one is noted, changes no byte, and poisons the frame it was
read for. But for the patrol's, the burst reaches its requester: the data that waits in the write queue if a write to it
does, otherwise the corrected burst, or an uncorrectable one as received. -/
def BurstRead (s t : State) (d ch off : Nat) (err : List Byte) (r : ReadFor) (patrol : Bool) : Prop :=
  let data := storedBurst s d ch off
  let recv := List.zipWith (· ^^^ ·) (data ++ rsCheck data) (padTo 36 err)
  let lo := dieAddr d ch off
  let out := (mmcOf t d ch).out
  let wait := queued (mmcOf s d ch) off
  (∀ x, rsDecode recv = some (0, x) → t = { s with dies := t.dies, cnt := t.cnt, sub := t.sub } ∧
    (∀ e, e ≠ d → dieOf t e = dieOf s e) ∧ (dieOf t d).mem = (dieOf s d).mem ∧
    out = if patrol then (mmcOf s d ch).out else wait.getD data) ∧
  (∀ k fixed, k ≠ 0 → rsDecode recv = some (k, fixed) →
    (∀ a, memGet (dieOf t d).mem a =
      if lo ≤ a ∧ a < lo + 32 then fixed.getD (a - lo) 0 else memGet (dieOf s d).mem a) ∧
    t = { s with dies := t.dies, cnt := t.cnt, sub := t.sub, life := t.life } ∧ (∀ e, e ≠ d → dieOf t e = dieOf s e) ∧
    out = if patrol then (mmcOf s d ch).out else wait.getD (fixed.take 32)) ∧
  (rsDecode recv = none → (dieOf t d).mem = (dieOf s d).mem ∧ s.raw ∈ (mmcOf t d ch).ueTimes ∧
    out = (if patrol then (mmcOf s d ch).out else wait.getD (recv.take 32)) ∧
    ∀ x n, r = .frame x n → (frameOf t x n).map (·.poisoned) = (frameOf s x n).map (fun _ => true))

/-- The write queue of a channel (R439): whole bursts, at most 64 of them, and writes wait for an entry only while it is
full. -/
def QueueOk (m : MemChan) : Prop :=
  (∀ e ∈ m.wq ++ m.held, e.1 % 32 = 0 ∧ e.2.length = 32) ∧ m.wq.length ≤ 64 ∧ (m.held ≠ [] → m.wq.length = 64)

/-- A named pen after it was powered and tested (R469): one that is fenced stays so; one whose fence stayed in force while it
was off, or that fails, is FAULTED; any other that passes is in service. -/
def PenPowered (fenced passed : Bool) (u v : UnitSt) : Prop :=
  (u.mgmt = .fenced ∨ u.mgmt = .faulted → v.mgmt = u.mgmt) ∧
    (u.mgmt ≠ .fenced → u.mgmt ≠ .faulted → fenced = true ∨ passed = false → v.mgmt = .faulted) ∧
    (u.mgmt ≠ .fenced → u.mgmt ≠ .faulted → fenced = false → passed = true → unitUp v = true)

/-- A leave request of a die has moved to its grants, and nothing else of any die changes (R473). -/
def LeaveGranted (s t : State) (d : Nat) (g : LeaveItem) : Prop :=
  dieOf t d = { dieOf s d with requests := (dieOf s d).requests.filter (· != g), grants := (dieOf s d).grants ++ [g] } ∧
    (∀ e, e ≠ d → dieOf t e = dieOf s e) ∧ t = { s with dies := t.dies, cnt := t.cnt, life := t.life }

/-! ## Resets -/

/-- State `t` is state `s` after a device reset with a cause (R518): the part is held; the variant, the records of the life log
and the one-time-programmable memory are kept, and so is the backup domain, in which the cause is noted; contexts, packages,
frames, tables, transactions, the event log, configuration and counters are gone, and the waiting commands stay. Of each host
channel every slot expects sequence 1 (R72), and the aperture, the ring and the commands in flight are empty. -/
def ResetKeeps (s t : State) (cause : Nat) : Prop :=
  t.boot = Boot.reset ∧ t.backup = { s.backup with cause := cause } ∧ t.nv = s.nv ∧ t.life = lifeKept s.life ∧
    (∀ ch ∈ t.chans, (∀ k, expectedSeq ch k = 1) ∧ ch.prod = 0 ∧ ch.cons = 0 ∧ ch.mem = [] ∧ ch.inflight = []) ∧
    t.variant = s.variant ∧ t.pending = s.pending ∧ t.ctxs = [] ∧ t.pkgs = [] ∧ t.frames = [] ∧ t.tables = [] ∧
    t.txn.st = 0 ∧ t.log.recs = [] ∧ t.cfg.active = [] ∧ t.cnt = [] ∧ t.sec.debug = 0 ∧ t.raw = 0 ∧ t.pins.cmpEn = false

/-- A command of a slot may start (R80), in a sound state, from a slot of an existing channel. -/
def MayStart (s : State) (slot code : Nat) (c : Cmd) : Prop :=
  Inv s ∧ slot < 16384 ∧ startable s slot code = some c

end Sys2Proof.Machine
end

