-- ==== Sys2Proof/WellFormed.lean ====
section
/-!
DEFINITION. Well-formed commands: every operand names something that a part can have (R11, R57, R61, R105, R138, R366),
and every unit of data has its length.
-/
namespace Sys2Proof

/-- A slot of either channel (R57). -/
def slotOk (slot : Nat) : Bool := decide (slot < 16384)

/-- A host channel (R45). -/
def chanOk (ch : Nat) : Bool := decide (ch < 2)

/-- A sub-channel, bank and column of the host port (R47, R48). -/
def bankOk (sub bank : Nat) : Bool := decide (sub < 2) && decide (bank < 16)

/-- A sub-channel (R46). -/
def subOk (c : SubCh) : Bool := chanOk c.ch && decide (c.sub < 2)

/-- A mode register (R51). -/
def mrOk (mr : Nat) : Bool := decide (mr < 256)

/-- The hub or a compute die (R11). -/
def dieOk (d : Nat) : Bool := decide (d < 8)

/-- A compute die. -/
def computeOk (d : Nat) : Bool := decide (1 ≤ d) && decide (d < 8)

/-- A context and a frame number (R105, R116). -/
def frameOk (ctx num : Nat) : Bool := decide (ctx < 4096) && decide (num < 2 ^ 32)

/-- A stall, by its number in the package (R21). -/
def stallOk (g : Nat) : Bool := decide (g < 280)

/-- An Ethernet lane (R138). -/
def laneOk (l : Nat) : Bool := decide (l < 16)

/-- A map table (R366). -/
def tableOk (t : Nat) : Bool := decide (t < 256)

/-- A cluster of a compute die (R21). -/
def clusterOk (d c : Nat) : Bool := computeOk d && decide (c < 5)

/-- A unit of 32 bytes (R57). -/
def unitOk (d : List Byte) : Bool := d.length == 32

/-- A place that a gather reads. -/
def srcOk : GatherSrc → Bool
  | .paddock c _ => decide (c < 5)
  | .remote d c _ => clusterOk d c
  | .memory d _ => dieOk d

/-- An arbiter of the part. -/
def arbOk : ArbId → Bool
  | .bank d c b => clusterOk d c && decide (b < 64)
  | .mem d c => dieOk d && decide (c < 4)
  | .link d l => dieOk d && decide (l < 7)
  | .halyard n => decide (n < 512) && (n % 64 == 0 || (decide (64 ≤ n) && decide (n % 64 < 45)))

/-- A node of the halyard (R25). -/
def nodeOk : HalNode → Bool
  | .die d => dieOk d
  | .warden d p => computeOk d && decide (p < 4)
  | .port d i => computeOk d && decide (i < 40)

/-- The operands of a command are well formed. -/
def Instr.wf (i : Instr) : Bool :=
  match i with
  | .nop slot => slotOk slot
  | .cfgRead slot => slotOk slot
  | .cfgWrite slot => slotOk slot
  | .txnBegin slot => slotOk slot
  | .txnCommit slot => slotOk slot
  | .txnAbort slot => slotOk slot
  | .ctxCreate slot => slotOk slot
  | .ctxDestroy slot => slotOk slot
  | .ctxQuery slot => slotOk slot
  | .frameOpen slot => slotOk slot
  | .frameClose slot => slotOk slot
  | .ctxClearDegraded slot => slotOk slot
  | .pkgLoad slot _ => slotOk slot
  | .pkgUnload slot => slotOk slot
  | .bundleApply slot => slotOk slot
  | .maptableReplace slot => slotOk slot
  | .decoderSet slot => slotOk slot
  | .steerSet slot => slotOk slot
  | .poseWrite slot => slotOk slot
  | .timeSet slot => slotOk slot
  | .pwrStateSet slot => slotOk slot
  | .paceSet slot => slotOk slot
  | .gateSet slot => slotOk slot
  | .lifelogRead slot => slotOk slot
  | .fenceClear slot => slotOk slot
  | .eventLogRead slot => slotOk slot
  | .fwUpdate slot => slotOk slot
  | .attest slot => slotOk slot
  | .debugChallenge slot => slotOk slot
  | .debugUnlock slot _ => slotOk slot
  | .lifecycleSet slot _ => slotOk slot
  | .sealWrite slot data _ _ => slotOk slot && unitOk data
  | .penConsumerWrite ch _ _ => chanOk ch
  | .hostWrite ch sub bank _ data _ _ => unitOk data && chanOk ch && bankOk sub bank
  | .hostRead ch sub bank _ _ _ => chanOk ch && bankOk sub bank
  | .modeRegisterWrite c mr _ _ => subOk c && mrOk mr
  | .modeRegisterRead c mr => subOk c && mrOk mr
  | .activate ch sub bank _ => chanOk ch && bankOk sub bank
  | .precharge ch sub _ => chanOk ch && decide (sub < 2)
  | .refresh c => subOk c
  | .powerDownEntry c => subOk c
  | .powerDownExit c => subOk c
  | .selfRefreshEntry c => subOk c
  | .selfRefreshExit c => subOk c
  | .commandBusTraining c => subOk c
  | .clockToWriteClockLevelling c => subOk c
  | .readCalibration c mr => subOk c && mrOk mr
  | .writeDataTraining c => subOk c
  | .zqCalibrationStart c => subOk c
  | .zqCalibrationLatch c => subOk c
  | .unsupportedCommand c => subOk c
  | .hostRateChange ch _ _ => chanOk ch
  | .hintHoldoffExpiry => true
  | .txnIdleExpiry => true
  | .configStagedApply _ die => dieOk die
  | .txnCommitApply _ die => dieOk die
  | .pdkArbOrderWrite slot => slotOk slot
  | .leaveBudgetWrite slot => slotOk slot
  | .bmpForceStart => true
  | .bmpForceEnd => true
  | .entdaa addr => decide (addr < 128)
  | .setdasa static addr => decide (addr < 128) && decide (static < 128)
  | .ethernetFrameReceived lane _ _ => laneOk lane
  | .packetSteer lane => laneOk lane
  | .blockDecode lane => laneOk lane
  | .arpRequest => true
  | .neighbourSolicitation => true
  | .sync _ => true
  | .followUp _ => true
  | .delayResp => true
  | .announce => true
  | .delayReq => true
  | .ptpHoldoverExpiry => true
  | .laneLockLost lane => laneOk lane
  | .laneLockTimer lane => laneOk lane
  | .sensorSilenceExpiry sensor => decide (sensor < 256)
  | .hostWindowPublish ch win data _ _ => unitOk data && chanOk ch && decide (win < 7)
  | .hostWindowAnswer => true
  | .periodicFrameClose ctx => frameOk ctx 0
  | .deskewTile ctx num die => frameOk ctx num && computeOk die
  | .voxeliseTile ctx num => frameOk ctx num
  | .voxelisationComplete ctx num => frameOk ctx num
  | .exactPass ctx num => frameOk ctx num
  | .curveOrderStart ctx num => frameOk ctx num
  | .curveOrderTile ctx num die => frameOk ctx num && computeOk die
  | .rulebookTile ctx num die => frameOk ctx num && computeOk die
  | .operatorDispatch ctx num die _ => frameOk ctx num && computeOk die
  | .leaveRequest ctx num die _ => frameOk ctx num && computeOk die
  | .leaveGrant die => computeOk die
  | .stallTile stall => stallOk stall
  | .gather stall thread src _ => stallOk stall && srcOk src && decide (thread < 128)
  | .gatherReturn stall thread => stallOk stall && decide (thread < 128)
  | .chunkSteal stall lane victim => stallOk stall && decide (lane < 32) && decide (victim < 32)
  | .tileSteal stall => stallOk stall
  | .fillLines die cluster _ _ _ _ => clusterOk die cluster
  | .copyLines die cluster _ _ _ _ => clusterOk die cluster
  | .paddockEngineDone die cluster _ => clusterOk die cluster
  | .arbiterDecide arb _ => arbOk arb
  | .paddockAccess die cluster _ _ _ => clusterOk die cluster
  | .retryRound ctx num => frameOk ctx num
  | .partitionMerge ctx num _ _ => frameOk ctx num
  | .mapLookupWindow ctx num die => frameOk ctx num && computeOk die
  | .bevScatterTile ctx num die => frameOk ctx num && computeOk die
  | .selectionTile ctx num die => frameOk ctx num && computeOk die
  | .selectionMerge ctx num => frameOk ctx num
  | .bestEffortFrameStart die => computeOk die
  | .checkerVerdictReady ctx num => frameOk ctx num
  | .mlResultsIn ctx num => frameOk ctx num
  | .frameSeal ctx num => frameOk ctx num
  | .cutoffExpiry ctx num => frameOk ctx num
  | .ctxDestroyComplete ctx => frameOk ctx 0
  | .stopBoundary => true
  | .stopReadback _ _ => true
  | .heartbeat _ => true
  | .heartbeatTimeout _ => true
  | .tableSwitch table => tableOk table
  | .flipStart table => tableOk table
  | .flipCutoff table => tableOk table
  | .flipSwitch table => tableOk table
  | .flitReceived die link _ => dieOk die && decide (link < 7)
  | .halyardMessage src dst _ _ => nodeOk src && nodeOk dst
  | .paceWindow die _ => dieOk die
  | .audit die _ => dieOk die
  | .selftestSliceStart die => computeOk die
  | .selftestSliceEnd die _ => computeOk die
  | .rotationAgeExpiry die => computeOk die
  | .paddockLineTest die cluster _ _ _ _ => clusterOk die cluster
  | .fenceTestComplete _ => true
  | .sramScrub die _ _ _ _ _ => dieOk die
  | .mmcRead die chan _ _ _ => dieOk die && decide (chan < 4)
  | .patrolRead die chan _ => dieOk die && decide (chan < 4)
  | .mmcWrite die chan _ _ _ => dieOk die && decide (chan < 4)
  | .mmcRefresh die chan _ => dieOk die && decide (chan < 4)
  | .mmcZqCalibration die chan => dieOk die && decide (chan < 4)
  | .memoryAccess die _ domain _ _ _ _ => dieOk die && decide (domain < 16)
  | .thermalSensorUpdate die _ => dieOk die
  | .criticalTrip die => dieOk die
  | .powerStep => true
  | .paceChangeStep => true
  | .pensOffComplete => true
  | .pensOnTestComplete _ => true
  | .dieOnComplete _ _ => true
  | .flashProgramComplete _ => true
  | .challengeExpiry => true
  | .unlockExpiry => true
  | .trngRetry _ => true
  | .lifelogCheckpoint _ => true
  | .agingDailyIndex die _ => dieOk die
  | .agingYear _ => true
  | .powerOn => true
  | .resetNAssert _ _ => true
  | .supplyBrownout => true
  | .lockstepMismatch => true
  | .watchdogExpiry => true
  | .resetNRelease _ => true
  | .bypass => true
  | .idcode => true
  | .samplePreload => true
  | .extest => true
  | .debugHalt => true
  | .debugResume => true
  | .debugStep => true
  | .abstractRegisterAccess reg _ => decide (reg < 2 ^ 16)
  | .systemBusAccess _ _ => true
  | .laneLockGained lane => laneOk lane
  | .remoteFaultReceived lane _ => laneOk lane
  | .verdictFrameTransmitted lane => laneOk lane
  | .entropyHealthTestFail _ => true
  | .backupSupplyLoss => true
  | .vddSafeOutOfTolerance _ => true
  | .sramScrubOverdue die _ _ => dieOk die

end Sys2Proof
end

