-- ==== Sys2Proof/Certificates/Slice0/Obligations.lean ====
section
/-!
DEFINITION. The statements about the model, for the provers: what each command does, what it leaves alone, and what
holds of the whole machine.
-/
open Sys2Proof
open Sys2Proof.Machine

/-! ## The whole machine -/

/-- O1. The state of reset is sound: memories in canonical form, positions of the rings and modes legal. -/
def Obligations.ResetIsSound : Prop := Inv State.reset

/-- O2. Every step that answers a next state keeps the state sound: the memories stay in canonical form, P and C of each
ring stay 32-bit values and the counters of R58 and R86 saturate, the power state, the pace level and the debug level
stay legal, and the event log holds at most 8,192 records (R31, R81, R458, R507, R535). -/
def Obligations.EveryStepKeepsSoundness : Prop := ∀ s t : State, Inv s → step s = .next t → Inv t

/-- O3. A command's effect is on everything but the waiting commands, and no command changes which variant the part is
(R1). -/
def Obligations.CommandsLeaveQueueAndVariant : Prop :=
  ∀ (c : Instr) (s t : State), Inv s → exec c s = .next t → t.pending = s.pending ∧ t.variant = s.variant

/-- O4. No step clears a programmed bit of the one-time-programmable memory: the device seed stays, the bits provisioned
and returned stay set, the thermometer fields of owner generation and security version never fall, a revoked key stays
revoked (R492). -/
def Obligations.ProgrammedBitsStay : Prop := ∀ s t : State, Inv s → step s = .next t → Grows s.nv t.nv

/-- O5. A step takes the command at the front of the queue and runs it on the state with the queue's rest. -/
def Obligations.StepRunsFrontCommand : Prop :=
  ∀ (c : Instr) (rest : List Instr) (s : State),
    step { s with pending := c :: rest } = exec c { s with pending := rest }

/-- O6. On an empty queue a nanosecond passes (the model's choice, log entry 1): in a part that is supplied and not OFF
the raw counter advances by 1; in OFF and without supply it stands. Nothing is taken from or put into the queue, and where
no start-up runs, configuration, contexts, frames and memories stay. A start-up that runs ends at its instant, in READY or
in a boot fault (R522, R525). -/
def Obligations.EmptyQueueLetsTimePass : Prop :=
  ∀ s : State, s.pending = [] → ∃ t, step s = .next t ∧
    ((s.boot.phase = .off ∨ s.pins.supplied = false) → t.raw = s.raw) ∧
    (s.boot.phase ≠ .off → s.pins.supplied = true → Inv s → t.raw = s.raw + 1 ∧ t.pending = [] ∧
      (∀ rep, s.boot.plan = some rep → s.boot.doneAt ≤ s.raw + 1 →
        t.boot.plan = none ∧ (t.boot.phase = .running ∨ t.boot.phase = .faulted))) ∧
    (s.boot.plan = none → t.pending = [] ∧ t.cfg = s.cfg ∧ t.ctxs = s.ctxs ∧ t.frames = s.frames ∧ t.chans = s.chans ∧
      t.dies = s.dies ∧ t.nv = s.nv ∧ t.sec = s.sec ∧ t.pwr = s.pwr ∧ t.tables = s.tables ∧ t.log = s.log)

/-- O7. Every command answers a next state, in every state: none is refused and none faults. A row whose conditions do not
hold has no effect (the model's choice, log entry 15); an access past the end of a memory is refused by its firewall, which
is an effect (R449). -/
def Obligations.EveryCommandAnswersNext : Prop :=
  ∀ (c : Instr) (s : State), ∃ t, exec c s = .next t

/-- O8. What reset leaves, by the spec: the raw counter at 0 (R164), SERVING not entered, pace level Nominal (R545), no
command in flight, every ring empty with P and C 0 (R81, R84), no transaction (R98; that the first identifier to come is 1 is
the model's choice, log entry 10), debug CLOSED (R507), both stop outputs low (R419), no context, no package, no table (R378), every slot's
expected sequence 1 (R72). -/
def Obligations.ResetValues : Prop :=
  let s := State.reset
  s.raw = 0 ∧ s.pwr.st ≠ 4 ∧ s.pwr.level = 1 ∧ s.pending = [] ∧ s.txn.st = 0 ∧ s.txn.buf = [] ∧ s.txn.nextId = 1 ∧ s.sec.debug = 0 ∧
    s.zck.outA.level = false ∧ s.zck.outB.level = false ∧ s.ctxs = [] ∧ s.pkgs = [] ∧ s.tables = [] ∧ s.frames = [] ∧
    s.log.recs = [] ∧ s.log.next = 1 ∧
    ∀ ch, ch < 2 → (chanOf s ch).prod = 0 ∧ (chanOf s ch).cons = 0 ∧ (chanOf s ch).inflight = [] ∧
      ∀ slot, expectedSeq (chanOf s ch) slot = 1

/-! ## The host port (02) -/

/-- O9. Activate opens a row, precharge closes the row of one bank or of all banks of a sub-channel (R62), and refresh has
no effect (R52). Nothing else changes. -/
def Obligations.RowCommandsComplete : Prop :=
  ∀ (ch sub bank row : Nat) (s : State), Inv s → portReady s ch sub = true → burstOk sub bank 0 = true →
    (row < 32768 → ∃ t, exec (.activate ch sub bank row) s = .next t ∧
      t = { s with chans := t.chans } ∧ (∀ k, k ≠ ch → chanOf t k = chanOf s k) ∧
      chanOf t ch = { chanOf s ch with rows := (chanOf t ch).rows } ∧
      ∀ j, mapFind (chanOf t ch).rows j = if j = rowKey sub bank then some row else mapFind (chanOf s ch).rows j) ∧
    (∃ t, exec (.precharge ch sub (some bank)) s = .next t ∧
      t = { s with chans := t.chans } ∧ (∀ k, k ≠ ch → chanOf t k = chanOf s k) ∧
      chanOf t ch = { chanOf s ch with rows := (chanOf t ch).rows } ∧
      ∀ j, mapFind (chanOf t ch).rows j = if j = rowKey sub bank then none else mapFind (chanOf s ch).rows j) ∧
    (∃ t, exec (.precharge ch sub none) s = .next t ∧ t = { s with chans := t.chans } ∧
      (∀ k, k ≠ ch → chanOf t k = chanOf s k) ∧ chanOf t ch = { chanOf s ch with rows := (chanOf t ch).rows } ∧
      (∀ b, b < 16 → mapFind (chanOf t ch).rows (rowKey sub b) = none) ∧
      ∀ x r, (x, r) ∈ (chanOf s ch).rows → x / 16 ≠ sub → (x, r) ∈ (chanOf t ch).rows) ∧
    exec (.refresh ⟨ch, sub⟩) s = .next s

/-- O10. A host write at the open row of its bank stores the unit under its mask with its metadata where it sets nothing
off; the last unit of a slot, the consumer position and a window's header do what their own commands do at the same open
row; the write is discarded and counted in the identity page, the ring and at unbacked offsets; with no row open it is
counted as unsupported. No other state changes (R59, R60, R62, R63). -/
def Obligations.HostWriteCompletes : Prop :=
  (∀ (ch sub bank col : Nat) (data : List Byte) (mask md : BitVec 32) (s : State), portReady s ch sub = true →
    burstOk sub bank col = true → mapFind (chanOf s ch).rows (rowKey sub bank) = none →
    exec (.hostWrite ch sub bank col data mask md) s =
      .next (modChan s ch (fun c => { c with unsupported := min (c.unsupported + 1) 0xFFFFFFFF }))) ∧
  ∀ (ch sub bank col row : Nat) (data : List Byte) (mask md : BitVec 32) (s : State), Inv s → ch < 2 →
    portReady s ch sub = true → burstOk sub bank col = true → mapFind (chanOf s ch).rows (rowKey sub bank) = some row →
    let off := burstOff row bank col sub
    let kept := (regionOf off = .windows ∧ (off ≠ 0x400000 ∨ mask.toNat % 16 = 0)) ∨
      (regionOf off = .slots ∧ (off % 256 ≠ 224 ∨ mask.getLsbD 31 = false)) ∨
      (regionOf off = .ingest ∧ (off % 0x8000 ≠ 0 ∨ mask.getLsbD 0 = false))
    (kept → ∃ t, exec (.hostWrite ch sub bank col data mask md) s = .next t ∧
      t = { s with chans := t.chans } ∧ (∀ k, k ≠ ch → chanOf t k = chanOf s k) ∧
      (∀ a, memGet (chanOf t ch).mem a =
        if off ≤ a ∧ a < off + 32 ∧ mask.getLsbD (a - off) = true then data.getD (a - off) 0
        else memGet (chanOf s ch).mem a) ∧
      (∀ u, mapFind (chanOf t ch).hostMeta u = if u = off / 32 then some md else mapFind (chanOf s ch).hostMeta u) ∧
      chanOf t ch = { chanOf s ch with mem := (chanOf t ch).mem, hostMeta := (chanOf t ch).hostMeta }) ∧
    (regionOf off = .slots → off % 256 = 224 → exec (.hostWrite ch sub bank col data mask md) s =
      exec (.sealWrite (ch * 8192 + (off - 0x100000) / 256) data mask md) s) ∧
    (regionOf off = .ingest → off % 0x8000 = 0 → exec (.hostWrite ch sub bank col data mask md) s =
      exec (.hostWindowPublish ch ((off - 0x580000) / 0x8000) data mask md) s) ∧
    (∀ v : BitVec 32, off = 0x400000 → exec (.hostWrite ch sub bank col (padTo 32 (leBytes 4 v.toNat)) 0xF md) s =
      exec (.penConsumerWrite ch v md) s) ∧
    ((regionOf off = .identity ∨ regionOf off = .ring) → exec (.hostWrite ch sub bank col data mask md) s =
      .next (modChan s ch (fun c => { c with roWrites := min (c.roWrites + 1) 0xFFFFFFFF }))) ∧
    (regionOf off = .unbacked → exec (.hostWrite ch sub bank col data mask md) s =
      .next (modChan s ch (fun c => { c with unbacked := min (c.unbacked + 1) 0xFFFFFFFF })))

/-- O11. A host read at the open row of its bank, with every latency code of its sub-channel at or above its minimum,
returns the stored unit, zeros from an unbacked offset, and the page's unit from the identity page: among them the magic, the
variant and the number of dies, the counters of R58, P, C, the commands in flight and the open transaction of R86, and zeros
where the page holds nothing. Its metadata is the host's for a unit last written by the host, and otherwise the check bytes of
the data in mode 1 and zeros in mode 0 (R58, R59, R62, R63, R86). With an uncorrectable error it returns the data as read and
its metadata inverted (a device-written unit's in mode 1 alone), counts it at the channel and as the aperture's SRAM, and
logs HPT_SRAM_UNCORRECTABLE (R65, R445). -/
def Obligations.HostReadCompletes : Prop :=
  ∀ (ch sub bank col row : Nat) (asRead : List Byte) (s : State), Inv s → ch < 2 → portReady s ch sub = true →
    burstOk sub bank col = true → mapFind (chanOf s ch).rows (rowKey sub bank) = some row →
    (∀ k ∈ (chanOf s ch).lowLat, k / 256 ≠ sub ∧ k ∈ (chanOf s ch).lowRep) →
    let c := chanOf s ch
    let off := burstOff row bank col sub
    let stored := regionOf off = .windows ∨ regionOf off = .slots ∨ regionOf off = .ring ∨ regionOf off = .ingest
    let made := fun d : List Byte => if cfgFld s rHptCfg ch 0 0 = 1 then rsMeta d else 0
    (∃ t, exec (.hostRead ch sub bank col false asRead) s = .next t ∧ t = { s with chans := t.chans } ∧
      (∀ k, k ≠ ch → chanOf t k = chanOf s k) ∧
      chanOf t ch = { c with rdData := (chanOf t ch).rdData, rdMeta := (chanOf t ch).rdMeta } ∧
      (regionOf off = .unbacked → (chanOf t ch).rdData = List.replicate 32 0) ∧
      (stored → (chanOf t ch).rdData = memRead c.mem off 32) ∧
      (regionOf off = .identity → (chanOf t ch).rdData = idUnit s ch off ∧
        (off = 0 → (chanOf t ch).rdData.take 9 = leBytes 4 0x4C4E0880 ++ leBytes 2 1 ++ leBytes 1 s.variant ++
          leBytes 1 0x10 ++ leBytes 1 (nDies s)) ∧
        (off = 0x20 → (chanOf t ch).rdData = leBytes 4 c.unbacked ++ leBytes 4 c.roWrites ++ leBytes 4 c.unsupported ++
          leBytes 4 c.latencyErr ++ leBytes 4 c.sramUe ++ leBytes 12 0) ∧
        (off = 0x100 → (chanOf t ch).rdData.take 10 = leBytes 4 c.prod ++ leBytes 4 c.cons ++ leBytes 2 c.inflight.length) ∧
        (off = 0x120 → (chanOf t ch).rdData = leBytes 1 s.txn.st ++ leBytes 31 0) ∧
        (0x40 ≤ off ∧ off < 0x100 ∨ 0x1000 ≤ off → (chanOf t ch).rdData = List.replicate 32 0)) ∧
      (∀ m, mapFind c.hostMeta (off / 32) = some m → (chanOf t ch).rdMeta = m) ∧
      (mapFind c.hostMeta (off / 32) = none → (chanOf t ch).rdMeta = made (chanOf t ch).rdData)) ∧
    (stored → asRead.length = 32 → ∃ t, exec (.hostRead ch sub bank col true asRead) s = .next t ∧
        restOf t = restOf (cntAdd s rMgpSramCnt 2 1) ∧ (chanOf t ch).rdData = asRead ∧
        (∀ m, mapFind c.hostMeta (off / 32) = some m → (chanOf t ch).rdMeta = ~~~ m) ∧
        (mapFind c.hostMeta (off / 32) = none →
          (chanOf t ch).rdMeta = if cfgFld s rHptCfg ch 0 0 = 1 then ~~~ (rsMeta asRead) else 0) ∧
        (chanOf t ch).sramUe = min (c.sramUe + 1) 0xFFFFFFFF ∧
        ∃ r, t.log.recs = keepLast 8192 (s.log.recs ++ [r]) ∧ r.code = 0x0203 ∧ r.whr = ch)

/-- O12. Training sets the trained setting of its step on its sub-channel, a mode register read returns the register's
value, and a mode register write is stored, or discarded and counted for a read-only register; the other sub-channel keeps
its settings (R46, R50, R51). Power-down and self-refresh change the interface state of a sub-channel alone, an unsupported
command is counted alone, a rate within the range is taken without an event, HINT_N is driven low when its holdoff has
passed, and no pennant pending releases it (R44, R45, R52, R66). The model's readings: log entry 6. -/
def Obligations.InterfaceCommandsComplete : Prop :=
  (∀ (ch sub : Nat) (s : State), Inv s → ch < 2 → (chanOf s ch).trained.length = 2 → portReady s ch sub = true →
    let set := fun f : Trained → Trained => modChan s ch (fun c => { c with trained := updAt c.trained sub f })
    exec (.commandBusTraining ⟨ch, sub⟩) s = .next (set (fun x => { x with cbt := true })) ∧
    exec (.clockToWriteClockLevelling ⟨ch, sub⟩) s = .next (set (fun x => { x with wck := true })) ∧
    exec (.writeDataTraining ⟨ch, sub⟩) s = .next (set (fun x => { x with wr := true })) ∧
    (∀ mr, ∃ t, exec (.readCalibration ⟨ch, sub⟩ mr) s = .next t ∧ (trainedOf t ch sub).rd = true ∧
      (chanOf t ch).mrOut = modeValue s ch sub mr ∧ restOf t = restOf s) ∧
    (∃ t, exec (.zqCalibrationStart ⟨ch, sub⟩) s = .next t ∧ (trainedOf t ch sub).zqStarted = true ∧
      (trainedOf t ch sub).zqLatched = false ∧ restOf t = restOf s) ∧
    (∃ t, exec (.zqCalibrationLatch ⟨ch, sub⟩) s = .next t ∧ (trainedOf t ch sub).zqLatched = (trainedOf s ch sub).zqStarted ∧
      restOf t = restOf s) ∧
    (∀ mr, exec (.modeRegisterRead ⟨ch, sub⟩ mr) s =
      .next (modChan s ch (fun c => { c with mrOut := modeValue s ch sub mr }))) ∧
    (∀ mr v, mr < 256 → modeWritable mr = true → ∃ t, exec (.modeRegisterWrite ⟨ch, sub⟩ mr v false) s = .next t ∧
      modeValue t ch sub mr = v ∧ restOf t = restOf s ∧ t.log = s.log ∧
      ∀ m, m < 256 → modeValue t ch (1 - sub) m = modeValue s ch (1 - sub) m) ∧
    ∀ mr v low, 4 ≤ mr → mr ≤ 8 → exec (.modeRegisterWrite ⟨ch, sub⟩ mr v low) s =
      .next (modChan s ch (fun c => { c with roWrites := min (c.roWrites + 1) 0xFFFFFFFF }))) ∧
  (∀ (ch sub : Nat) (s : State), portLive s ch = true → sub < 2 →
    let go := fun p : PortPower => modChan s ch (fun c => { c with low := updAt c.low sub (fun _ => p) })
    (lowOf s ch sub = .active → exec (.powerDownEntry ⟨ch, sub⟩) s = .next (go .powerDown) ∧
      exec (.selfRefreshEntry ⟨ch, sub⟩) s = .next (go .selfRefresh) ∧
      exec (.unsupportedCommand ⟨ch, sub⟩) s =
        .next (modChan s ch (fun c => { c with unsupported := min (c.unsupported + 1) 0xFFFFFFFF }))) ∧
    (lowOf s ch sub = .powerDown → exec (.powerDownExit ⟨ch, sub⟩) s = .next (go .active)) ∧
    (lowOf s ch sub = .selfRefresh → exec (.selfRefreshExit ⟨ch, sub⟩) s = .next (go .active))) ∧
  ∀ (ch : Nat) (s : State), s.chans.length = 2 → ch < 2 →
    (∀ rate, chanExists s ch = true → (∀ k, (chanOf s k).rateEvent = false) → 6400 ≤ rate → rate ≤ 10667 →
      ∃ t, exec (.hostRateChange ch rate []) s = .next t ∧
        (chanOf t ch).rate = rate ∧ (chanOf t ch).lowLat = [] ∧ restOf t = restOf s ∧ t.log = s.log) ∧
    ∃ t, exec .hintHoldoffExpiry s = .next t ∧ t = { s with pins := { s.pins with hint := t.pins.hint } } ∧
      (cfgFld s rHptHintCfg 0 31 31 = 0 → t.pins.hint = false) ∧
      ((∀ k, k < 2 → ringPending (chanOf s k) = 0) → t.pins.hint = false) ∧
      (cfgFld s rHptHintCfg 0 31 31 = 1 → (∃ p rest, (chanOf s ch).penTimes = p :: rest ∧
        p + cfgFld s rHptHintCfg 0 11 0 * 1000 ≤ s.raw) → ringPending (chanOf s ch) ≠ 0 → t.pins.hint = true)

/-! ## The mailbox (03) -/

/-- O13. A seal write at the open row of its slot's unit stores the unit. Without the magic value it does nothing more; on a
busy slot it is counted and MBX_SLOT_BUSY is logged; otherwise it is decided by the first failing check of R76: accepted, the
command joins the channel's commands in flight with its 224 bytes as copied, and CTX_DESTROY (O26), FRAME_OPEN (O28),
FRAME_CLOSE (O29), PWR_STATE_SET, PACE_SET, GATE_SET and FENCE_CLEAR (O55) alone have an effect at acceptance; refused, it is counted. The answer of R78 is written. The model's readings: log entry 26. -/
def Obligations.SealWriteCompletes : Prop :=
  ∀ (slot : Nat) (data : List Byte) (mask md : BitVec 32) (s : State), Inv s → slot < 16384 →
    RowOpen s (slot / 8192) (slotOff slot + 224) → mask.getLsbD 31 = true →
    let ch := slot / 8192
    let u := storeUnit s ch (slotOff slot + 224) data mask md
    let b := memRead (chanOf u ch).mem (slotOff slot) 256
    (u16 b 254 ≠ 0x5EA1 → exec (.sealWrite slot data mask md) s = .next u) ∧
    (u16 b 254 = 0x5EA1 → slotBusy s slot = true → ∃ t, exec (.sealWrite slot data mask md) s = .next t ∧
      Raised (modChan u ch (fun c => { c with busySeals := min (c.busySeals + 1) 0xFFFFFFFF })) t 0x0380 (slot % 8192)) ∧
    (u16 b 254 = 0x5EA1 → slotBusy s slot = false → ∃ t v, exec (.sealWrite slot data mask md) s = .next t ∧
      t = (if sealStatus u slot b = 0 then acceptEffect v slot else v) ∧
      (u16 b 0 ∉ [0x0021, 0x0023, 0x0024, 0x0050, 0x0051, 0x0052, 0x0060] → t = v) ∧
      v.log = s.log ∧ (∀ k, k ≠ ch → chanOf v k = chanOf s k) ∧
      (∀ a, a < slotOff slot + 224 ∨ slotOff slot + 256 ≤ a →
        memGet (chanOf v ch).mem a = memGet (chanOf s ch).mem a) ∧
      memRead (chanOf v ch).mem (slotOff slot + 224) 32 =
        leBytes 2 (sealStatus u slot b) ++ leBytes 2 (expectedSeq (chanOf v ch) slot) ++
          leBytes 2 (chanOf v ch).inflight.length ++ leBytes 2 0 ++ leBytes 4 (now32 s) ++ leBytes 12 0 ++
          leBytes 4 0 ++ leBytes 2 (u16 b 252) ++ leBytes 2 0 ∧
      (if sealStatus u slot b = 0 then
        chanOf v ch = { chanOf s ch with
          mem := (chanOf v ch).mem, hostMeta := (chanOf v ch).hostMeta, seqs := (chanOf v ch).seqs,
          inflight := (chanOf s ch).inflight ++
            [⟨slot, u16 b 0, u16 b 4, u32 b 8, u32 b 12, b.take 224, false, s.raw, now s, none⟩] } ∧
        restOf v = restOf (if bitOf (u16 b 4) 0 then { s with txn := { s.txn with lastUse := s.raw } } else s)
      else
        chanOf v ch = { chanOf s ch with
          mem := (chanOf v ch).mem, hostMeta := (chanOf v ch).hostMeta,
          refused := min ((chanOf s ch).refused + 1) 0xFFFFFFFF } ∧ restOf v = restOf s))

/-- O14 (R72). A slot's expected sequence is 1 at device reset; an accepted submission in the slot advances it by 1, and
65,535 advances to 1; no refusal, and no submission in another slot, changes it. -/
def Obligations.ExpectedSequenceAdvances : Prop :=
  (∀ ch slot, ch < 2 → expectedSeq (chanOf State.reset ch) slot = 1) ∧
  ∀ (slot : Nat) (data : List Byte) (mask md : BitVec 32) (s : State), Inv s → slot < 16384 →
    RowOpen s (slot / 8192) (slotOff slot + 224) → mask.getLsbD 31 = true →
    let ch := slot / 8192
    let u := storeUnit s ch (slotOff slot + 224) data mask md
    let b := memRead (chanOf u ch).mem (slotOff slot) 256
    ∃ t, exec (.sealWrite slot data mask md) s = .next t ∧
      (∀ k, k ≠ slot → expectedSeq (chanOf t (k / 8192)) k = expectedSeq (chanOf s (k / 8192)) k) ∧
      expectedSeq (chanOf t ch) slot =
        (if u16 b 254 = 0x5EA1 ∧ slotBusy s slot = false ∧ sealStatus u slot b = 0 then
          (if expectedSeq (chanOf s ch) slot = 65535 then 1 else expectedSeq (chanOf s ch) slot + 1)
        else expectedSeq (chanOf s ch) slot)

/-- O15. A consumer position written at its open row is stored; it is taken if it does not move backward past the value in
force, seen from P, and otherwise it is counted and logged and the value in force stays (R83). Nothing but the host's side
changes, and a channel that is not written keeps its consumer position. -/
def Obligations.ConsumerWriteCompletes : Prop :=
  ∀ (ch : Nat) (value md : BitVec 32) (s : State), Inv s → ch < 2 → RowOpen s ch 0x400000 →
    let c := chanOf s ch
    let u := storeUnit s ch 0x400000 (padTo 32 (leBytes 4 value.toNat)) 0xF md
    ∃ t, exec (.penConsumerWrite ch value md) s = .next t ∧ memRead (chanOf u ch).mem 0x400000 4 = leBytes 4 value.toNat ∧
      (if (c.prod + 2 ^ 32 - value.toNat) % 2 ^ 32 ≤ (c.prod + 2 ^ 32 - c.cons) % 2 ^ 32 then
        restOf t = restOf s ∧ t.log = s.log ∧ PennantsOnly (modChan u ch (fun c => { c with cons := value.toNat })) t
      else Raised (modChan u ch (fun c => { c with consumerInvalid := min (c.consumerInvalid + 1) 0xFFFFFFFF })) t
        0x0381 ch)

/-- O16. NOP completes with OK and body 0 and has no other effect. A read of the event log or of the life log that fails
its checks changes nothing; otherwise it copies the records held from the first sequence on, in order, to the named
pages, and returns their number, the sequence after the last one and the oldest one held (R88, R481, R535, R536). -/
def Obligations.NopAndLogReadsComplete : Prop :=
  (∀ (slot : Nat) (c : Cmd) (s : State), MayStart s slot 0x0001 c →
    ∃ t, exec (.nop slot) s = .next t ∧ CompletedOver s t c 0 (leBytes 16 0)) ∧
  (∀ (slot : Nat) (c : Cmd) (s : State), MayStart s slot 0x0061 c →
    let u := markStarted s slot
    let first := u32 c.bytes 16
    let page := u16 c.bytes 20
    let count := byteAt c.bytes 22
    let sel := (s.log.recs.filter (fun r => decide (first ≤ r.seq))).take (128 * count)
    let st := if count = 0 ∨ 32 < count then 0x1414 else if pagesOk u (slot / 8192) page count = false then 0x030B
      else if s.log.next - 1 < first then 0x1414 else 0
    (st ≠ 0 → ∃ t, exec (.eventLogRead slot) s = .next t ∧ CompletedOver u t c st []) ∧
    (st = 0 → ∃ t w, exec (.eventLogRead slot) s = .next t ∧ Completed t c 0 ∧
      memRead (chanOf t (slot / 8192)).mem (pageOff page) (32 * sel.length) = sel.flatMap logBytes ∧
      LastBody t c (leBytes 4 sel.length ++ leBytes 4 w ++ leBytes 4 ((s.log.recs.head?.map (·.seq)).getD 0)) ∧
      (∀ r, sel.getLast? = some r → w = r.seq + 1) ∧ t.log = s.log ∧ restOf t = restOf s ∧
      ∀ k, k ≠ slot / 8192 → chanOf t k = chanOf s k)) ∧
  ∀ (slot : Nat) (c : Cmd) (s : State), MayStart s slot 0x0053 c →
    let u := markStarted s slot
    let first := u32 c.bytes 16
    let page := u16 c.bytes 20
    let count := byteAt c.bytes 22
    let filter := byteAt c.bytes 23
    let sel := (s.life.recs.filter (fun r => decide (first ≤ r.seq) && (filter == 0 || readType r == filter))).take (64 * count)
    let st := if count = 0 ∨ 32 < count then 0x1601 else if pagesOk u (slot / 8192) page count = false then 0x030B
      else if s.life.next - 1 < first then 0x1601 else 0
    (st ≠ 0 → ∃ t, exec (.lifelogRead slot) s = .next t ∧ CompletedOver u t c st []) ∧
    (st = 0 → ∃ t w, exec (.lifelogRead slot) s = .next t ∧ Completed t c 0 ∧
      (∀ (i : Nat) r, sel[i]? = some r → memRead (chanOf t (slot / 8192)).mem (pageOff page + 64 * i) 1 = leBytes 1 (readType r) ∧
        (r.bad = false → memRead (chanOf t (slot / 8192)).mem (pageOff page + 64 * i) 64 = (lifeBytes s r).1)) ∧
      LastBody t c (leBytes 4 sel.length ++ leBytes 4 w ++ leBytes 4 ((s.life.recs.head?.map (·.seq)).getD 0)) ∧
      (∀ r, sel.getLast? = some r → w = r.seq + 1) ∧ t.log = s.log ∧ restOf t = restOf s ∧
      ∀ k, k ≠ slot / 8192 → chanOf t k = chanOf s k)

/-- O17. TXN_BEGIN opens the next identifier where none is open, TXN_ABORT closes the open transaction and discards its
buffer, and TXN_IDLE_EXPIRY does so after the idle time, with TXN_EXPIRED; TXN_BEGIN with one open, and TXN_ABORT
during a commit, complete with their status and change nothing else (R98, R101, R102). The model's readings: log entry
10. -/
def Obligations.TransactionsOpenAndClose : Prop :=
  (∀ (slot : Nat) (c : Cmd) (s : State), MayStart s slot 0x0012 c →
    ∃ t, exec (.txnBegin slot) s = .next t ∧
      (if s.txn.st = 0 then
        CompletedOver { s with txn := ⟨1, s.txn.nextId, s.txn.nextId % 0xFFFFFFFF + 1, [], s.raw, s.txn.commits⟩ } t c 0
          (leBytes 4 s.txn.nextId)
      else CompletedOver s t c 0x0315 [])) ∧
  (∀ (slot : Nat) (c : Cmd) (s : State), MayStart s slot 0x0014 c → bitOf c.flags 0 = true → s.txn.st ≠ 0 →
    c.txn ≠ 0 → s.txn.id = c.txn → ∃ t, exec (.txnAbort slot) s = .next t ∧
      (if s.txn.st = 2 then CompletedOver s t c 0x0319 []
      else CompletedOver { s with txn := { s.txn with st := 0, id := 0, buf := [], commits := [] } } t c 0 [])) ∧
  ∀ s : State, Inv s → s.txn.st = 1 → cfgFld s rMbxTxnCfg 0 15 0 ≠ 0 →
    s.txn.lastUse + cfgFld s rMbxTxnCfg 0 15 0 * 1000000 ≤ s.raw → ∃ t, exec .txnIdleExpiry s = .next t ∧
      Raised { s with txn := { s.txn with st := 0, id := 0, buf := [], commits := [] } } t 0x0384 0

/-! ## Configuration (03) -/

/-- O18 (R89). CFG_READ takes the register from bytes 16 and 17 and the index from bytes 18 and 19, with bytes 20 to 23
reserved, and its body is the register's active value in 8 bytes and 8 bytes of 0; nothing else changes. -/
def Obligations.ConfigReadReturnsActiveValue : Prop :=
  (catRow 0x0010).map (fun r => (r.len, r.res)) = some (8, [(20, 4)]) ∧
  ∀ (slot : Nat) (c : Cmd) (s : State), MayStart s slot 0x0010 c →
    let reg := u16 c.bytes 16
    let i := u16 c.bytes 18
    let u := markStarted s slot
    (regOf reg).isSome = true → indexOk u reg i = true → readBlocked u reg i = false →
    ∃ t, exec (.cfgRead slot) s = .next t ∧ CompletedOver s t c 0 (leBytes 8 (regRead u reg i).1 ++ leBytes 8 0) ∧
      ((regSpec reg).ro = 0 → (regRead u reg i).1 = inForce s reg (copyIdx reg i))

/-- O19 (R92). A CFG_WRITE that completes with any status but OK and CFG_HELD_PAIR has changed nothing: its pennant stands
behind the ring, the command has left the commands in flight, and nothing else differs. It is completed so wherever a test of
R559 gives a status, a LOCKED field is busy, or the transaction it names is not the open one; the body gives the active value
where register and index name one. -/
def Obligations.RefusedConfigWriteChangesNothing : Prop :=
  (∀ (slot : Nat) (c : Cmd) (s t : State) (st : Nat), MayStart s slot 0x0011 c → exec (.cfgWrite slot) s = .next t →
    Completed t c st → st < 65536 → st ≠ 0 → st ≠ 0x0314 →
    restOf t = restOf s ∧ t.log = s.log ∧ RingOnly s t (slot / 8192) ∧ LeftFlight s t c ∧
      ∀ reg i, cfgGet t reg i = cfgGet s reg i ∧ stagedGet t reg i = stagedGet s reg i) ∧
  ∀ (slot : Nat) (c : Cmd) (s : State), MayStart s slot 0x0011 c →
    let reg := u16 c.bytes 16
    let i := u16 c.bytes 18
    let mask := u64 c.bytes 32
    let u := markStarted s slot
    let test := fun (mode base : Nat) => cfgTests u mode reg i (u64 c.bytes 24) mask base
    let body := if (regOf reg).isSome ∧ indexOk u reg i = true then leBytes 8 (regRead u reg i).1 ++ leBytes 8 0 else []
    let ends := fun st : Nat => ∃ t, exec (.cfgWrite slot) s = .next t ∧ CompletedOver s t c st body
    (bitOf c.flags 0 = false → test 0 (stagedGet u reg (copyIdx reg i)) ≠ 0 →
      ends (test 0 (stagedGet u reg (copyIdx reg i)))) ∧
    (bitOf c.flags 0 = false → test 0 (stagedGet u reg (copyIdx reg i)) = 0 →
      mask &&& (regSpec reg).locked ≠ 0 → lockedBusy u reg i = true → ends 0x0313) ∧
    (bitOf c.flags 0 = true → (s.txn.id = 0 ∨ s.txn.id ≠ c.txn) → ends 0x0309) ∧
    (bitOf c.flags 0 = true → s.txn.id ≠ 0 → s.txn.id = c.txn →
      test 1 (overlayGet u s.txn.buf reg (copyIdx reg i)) ≠ 0 → ends (test 1 (overlayGet u s.txn.buf reg (copyIdx reg i))))

/-- O20. A CFG_WRITE of LIVE fields outside a transaction, with the tests of R559 passed, is in force at once: the masked
bits of the register's active value are the written ones, no other register's value changes, and it completes with OK, the
active value after the write and byte 24 at 1 (R90, R95). PDK_ARB_ORDER_WRITE and LEAVE_BUDGET_WRITE are this write of their register (R246, R474). -/
def Obligations.LiveWriteCompletes : Prop :=
  ∀ (slot : Nat) (c : Cmd) (s : State) (w : Instr), MayStart s slot 0x0011 c →
    let reg := u16 c.bytes 16
    let i := u16 c.bytes 18
    let mask := u64 c.bytes 32
    let u := markStarted s slot
    (w = .cfgWrite slot ∨ (w = .pdkArbOrderWrite slot ∧ reg = rPdkArbOrder) ∨
      (w = .leaveBudgetWrite slot ∧ reg = rDcuLeaveBudget)) →
    bitOf c.flags 0 = false → cfgTests u 0 reg i (u64 c.bytes 24) mask (stagedGet u reg (copyIdx reg i)) = 0 →
    mask &&& stgMask reg = 0 → mask &&& (regSpec reg).live ≠ 0 →
    let v := (regRead (writeLive u reg i (u64 c.bytes 24) mask) reg i).1
    ∃ t, exec w s = .next t ∧ Completed t c 0 ∧ LastBody t c (leBytes 8 v ++ leBytes 1 1 ++ leBytes 7 0) ∧
      ((regSpec reg).ro = 0 → v = inForce t reg (copyIdx reg i)) ∧
      cfgGet t reg i = mergeBits (inForce s reg i) (u64 c.bytes 24) (mask &&& (regSpec reg).live) ∧
      (∀ r j, cfgKey r j ≠ cfgKey reg i → cfgGet t r j = cfgGet s r j) ∧ t.cfg.staged = s.cfg.staged ∧
      t.txn = s.txn ∧ (reg ≠ rDcuStCfg → reg ≠ rVrdCtxCfg → t.dies = s.dies) ∧
      (∀ d, dieOf t d = { dieOf s d with selftest := (dieOf t d).selftest }) ∧ t.ctxs = s.ctxs ∧ t.frames = s.frames ∧ t.pkgs = s.pkgs ∧
      t.tables = s.tables ∧ t.pwr = s.pwr ∧ t.sec = s.sec ∧ t.nv = s.nv ∧ t.life = s.life

/-- O21. A CFG_WRITE of STAGED or LOCKED fields outside a transaction, with the tests passed, enters the staged set of every
copy of its register. Where the block runs it waits for the block's unit boundary; otherwise the block applies its staged set
and the write completes with OK, or keeps its active set, if a pair check fails, with CFG_HELD_PAIR and its event; either way
with the active value as it then is (R90, R95, R96). Where it covers LIVE fields as well, their part is in force at once,
before the rest enters the staged set (R97). The model's readings: log entry 18. -/
def Obligations.StagedWriteCompletes : Prop :=
  ∀ (slot : Nat) (c : Cmd) (s : State), MayStart s slot 0x0011 c →
    let reg := u16 c.bytes 16
    let i := u16 c.bytes 18
    let value := u64 c.bytes 24
    let mask := u64 c.bytes 32
    let u := markStarted s slot
    let lv := mask &&& (regSpec reg).live
    let u0 := writeLive u reg i value mask
    let js := copies u0 reg i
    let inst := fun j : Nat => (reg / 256, blockDie reg j)
    let u1 := js.foldl (stageAt reg value (mask &&& stgMask reg)) u0
    let r := (js.map inst).foldl (applyNow reg i) (u1, [], false)
    bitOf c.flags 0 = false → cfgTests u 0 reg i value mask (stagedGet u reg (copyIdx reg i)) = 0 →
    ¬ (mask &&& (regSpec reg).locked ≠ 0 ∧ lockedBusy u reg i = true) →
    mask &&& stgMask reg ≠ 0 → js ≠ [] →
    (lv = 0 → u0 = u) ∧ (lv ≠ 0 → cfgGet u0 reg i = mergeBits (inForce s reg i) value lv) ∧
    ((∀ j ∈ js, appliesNow u0 (reg / 256) (blockDie reg j) = false) → exec (.cfgWrite slot) s = .next { u1 with cfg := { u1.cfg with
      waits := u1.cfg.waits ++ js.map (fun j =>
        ⟨reg / 256, blockDie reg j, slot, reg, i, pairsOk u1 [] (reg / 256) (blockDie reg j), false⟩) } }) ∧
    ((∀ j ∈ js, appliesNow u0 (reg / 256) (blockDie reg j) = true) →
      let v := (regRead (raise r.1 r.2.1) reg i).1
      ∃ t, exec (.cfgWrite slot) s = .next t ∧ Completed t c (if r.2.2 then 0x0314 else 0) ∧
        LastBody t c (leBytes 8 v ++ leBytes 1 (if r.2.2 then 0 else 1) ++ leBytes 7 0) ∧ restOf t = restOf r.1 ∧
        ((regSpec reg).ro = 0 → v = inForce t reg (copyIdx reg i)) ∧
        ∀ j, js = [j] → (pairsOk u1 [] (reg / 256) (blockDie reg j) = true → r.2.2 = false ∧
            restOf t = restOf (applyInst u1 (reg / 256) (blockDie reg j)).1) ∧
          (pairsOk u1 [] (reg / 256) (blockDie reg j) = false → r.2.2 = true ∧ restOf t = restOf u1 ∧
            Logged u0 t 0x0383 (blockDie reg j * 8192)))

/-- O22. CONFIG_STAGED_APPLY at a block's unit boundary with writes waiting and no part of a commit: if the pair checks pass,
the block's staged set becomes active as a whole; otherwise the active and staged sets stay, CFG_PAIR_MISMATCH is logged, and
the writes count as held. Either way every write that waits for no other block completes, a single one with OK or, held here
or by another block, with CFG_HELD_PAIR (R96). With part of a commit the row is TXN_COMMIT_APPLY (O24). A block of thermal
fields comes to its boundary at its sensors' updates alone (R485). The model's readings: log entry 18. -/
def Obligations.StagedSetAppliesAtBoundary : Prop :=
  ∀ (blk die : Nat) (s : State), Inv s →
    let mine := s.cfg.waits.filter (fun w => w.blk == blk && w.die == die)
    let rest := s.cfg.waits.filter (fun w => !(w.blk == blk && w.die == die))
    let held := rest.map (fun w => if mine.any (fun x => x.slot == w.slot) then { w with held := true } else w)
    (thermBlock blk = true → exec (.configStagedApply blk die) s = .next s) ∧
    ((∃ k ∈ s.txn.commits, (blk, die) ∈ k.todo) →
      exec (.configStagedApply blk die) s = exec (.txnCommitApply blk die) s) ∧
    (thermBlock blk = false → (∀ k ∈ s.txn.commits, (blk, die) ∉ k.todo) → mine ≠ [] →
      ∃ t, exec (.configStagedApply blk die) s = .next t ∧
      (∀ w ∈ mine, (∀ x ∈ rest, x.slot ≠ w.slot) → cmdOf t w.slot = none) ∧
      (∀ w c, mine = [w] → (∀ x ∈ rest, x.slot ≠ w.slot) → cmdOf s w.slot = some c →
        Completed t c (if pairsOk s [] blk die = true ∧ w.held = false then 0 else 0x0314)) ∧
      (if pairsOk s [] blk die then
        restOf t = restOf (applyInst { s with cfg := { s.cfg with waits := rest } } blk die).1
      else restOf t = restOf { s with cfg := { s.cfg with waits := held } } ∧ Logged s t 0x0383 (die * 8192)))

/-- O23. A CFG_WRITE with IN_TXN under the open identifier is buffered and completes with OK, the active value, which it does
not change (R90), and byte 24 at 0; where its
mask covers no writable bit it takes no entry; a 257th entry is refused with TXN_TOO_LARGE (R99). The model's
readings: log entry 26. -/
def Obligations.BufferedWriteCompletes : Prop :=
  ∀ (slot : Nat) (c : Cmd) (s : State), MayStart s slot 0x0011 c →
    let reg := u16 c.bytes 16
    let i := u16 c.bytes 18
    let value := u64 c.bytes 24
    let wr := u64 c.bytes 32 &&& wrMask reg
    let u := markStarted s slot
    let key := cfgKey reg (copyIdx reg i)
    let val := fun x : State => (regRead (markStarted x slot) reg i).1
    bitOf c.flags 0 = true → s.txn.st = 1 → c.txn ≠ 0 → s.txn.id = c.txn →
    cfgTests u 1 reg i value (u64 c.bytes 32) (overlayGet u s.txn.buf reg (copyIdx reg i)) = 0 →
    (wr = 0 → ∃ t, exec (.cfgWrite slot) s = .next t ∧
      CompletedOver s t c 0 (leBytes 8 (val s) ++ leBytes 1 0 ++ leBytes 7 0)) ∧
    (wr ≠ 0 → (∀ e ∈ s.txn.buf, e.key ≠ key) → s.txn.buf.length < 256 →
      ∃ t, exec (.cfgWrite slot) s = .next t ∧
        let x := { s with txn := { s.txn with buf := s.txn.buf ++ [⟨key, value &&& wr, wr⟩] } }
        CompletedOver x t c 0 (leBytes 8 (val x) ++ leBytes 1 0 ++ leBytes 7 0)) ∧
    (wr ≠ 0 → (∃ e ∈ s.txn.buf, e.key = key) →
      ∃ t, exec (.cfgWrite slot) s = .next t ∧
        let x := { s with txn := { s.txn with buf := s.txn.buf.map (fun e =>
          if e.key == key then ⟨key, mergeBits e.value value wr, e.mask ||| wr⟩ else e) } }
        CompletedOver x t c 0 (leBytes 8 (val x) ++ leBytes 1 0 ++ leBytes 7 0)) ∧
    (wr ≠ 0 → (∀ e ∈ s.txn.buf, e.key ≠ key) → 256 ≤ s.txn.buf.length →
      ∃ t, exec (.cfgWrite slot) s = .next t ∧
        CompletedOver s t c 0x0316 (leBytes 8 (val s) ++ leBytes 1 0 ++ leBytes 7 0))

/-- O24. TXN_COMMIT under the open identifier, with the checks of R100 passed, starts to apply: the blocks at a boundary
apply their part, copy by copy, at once; if none is left the commit completes with OK and the transaction closes, otherwise it stays
in flight with the transaction committing. TXN_COMMIT_APPLY applies one more block's part, which is the block's staged set as
it stands then overlaid with the commit's writes, or the set that was checked where a write staged since fails a pair check
(log entry 26); the last one completes the commit with OK, and a write that waited for the block and came into force with it
completes with OK. A block of thermal fields applies its part at its sensors' update (R485). A commit that fails a check
completes with its status and changes nothing (R100, R101). -/
def Obligations.CommitAppliesBlockByBlock : Prop :=
  (∀ (slot : Nat) (c : Cmd) (s : State), MayStart s slot 0x0013 c → bitOf c.flags 0 = true → s.txn.st = 1 →
    c.txn ≠ 0 → s.txn.id = c.txn →
    let u := markStarted s slot
    let buf := spread u s.txn.buf
    let r := startCommit u slot false buf
    (commitCheck u buf ≠ 0 → ∃ t, exec (.txnCommit slot) s = .next t ∧ CompletedOver s t c (commitCheck u buf) []) ∧
    (commitCheck u buf = 0 → r.2.todo = [] → (∀ w ∈ s.cfg.waits, w.slot ≠ slot) →
      ∃ t, exec (.txnCommit slot) s = .next t ∧ Completed t c 0 ∧
      t.txn.st = 0 ∧ t.txn.buf = [] ∧ restOf t = restOf { r.1 with txn := t.txn }) ∧
    (commitCheck u buf = 0 → r.2.todo ≠ [] → exec (.txnCommit slot) s = .next r.1 ∧ r.1.txn.st = 2 ∧
      r.1.txn.commits = [r.2] ∧ r.2.slot = slot ∧ r.2.bundle = false)) ∧
  ∀ (blk die : Nat) (s : State) (k : Commit), Inv s → thermBlock blk = false →
    s.txn.commits.find? (fun k => k.todo.contains (blk, die)) = some k →
    let mine := s.cfg.waits.filter (fun w => w.blk == blk && w.die == die)
    let r := commitInst (boundarySet s k blk die) (s, []) (blk, die)
    let s1 := raise r.1 r.2
    let left := k.todo.filter (· != (blk, die))
    (boundarySet s k blk die = if pairsOk s k.own blk die then commitSet s k.own else k.buf) ∧
    ∃ t, exec (.txnCommitApply blk die) s = .next t ∧
      (mine = [] → left = [] → cmdOf t k.slot = none ∧ t.txn.st = 0 ∧ restOf t = restOf { s1 with txn := t.txn } ∧
        ∀ c, cmdOf s k.slot = some c → Completed t c 0) ∧
      (mine = [] → left ≠ [] → t = { s1 with txn := { s1.txn with commits := [{ k with todo := left }] } }) ∧
      (∀ w c, mine = [w] → left ≠ [] → r.2 = [] → cmdOf s w.slot = some c → w.held = false →
        (∀ x ∈ s.cfg.waits, x ≠ w → x.slot ≠ w.slot) →
        mapFind r.1.cfg.staged (cfgKey w.reg (if w.reg = rDcuStCfg then w.die else w.idx)) = none → Completed t c 0)


/-! ## Contexts, packages and frame trains (04) -/

/-- O25. CTX_CREATE: the first failing check gives its status and nothing else changes; a declaration that passes every
check creates an IDLE context under an unused number with its class, caps and die mask, reserves its result pages, and
completes with number, die mask, first page, bound and stage share (R109 to R111); its data and allocations on its dies are
the only other change. The model's readings: log entries 44, 45, 54, 73. -/
def Obligations.ContextCreateCompletes : Prop :=
  ∀ (slot : Nat) (c : Cmd) (s : State), MayStart s slot 0x0020 c →
    let u := markStarted s slot
    let ch := slot / 8192
    let page := u16 c.bytes 16
    let count := u32 c.bytes 20
    let d := staged u ch page count
    ∃ t, exec (.ctxCreate slot) s = .next t ∧
      (if pagesOk u ch page (pageCount count) = false then CompletedOver s t c 0x030B []
      else if declOk u d = false then CompletedOver s t c 0x0401 []
      else if (pkgOf u (u16 d 2)).isNone then CompletedOver s t c 0x0402 []
      else match freeCtx u with
        | none => CompletedOver s t c 0x0403 []
        | some id =>
          let k := declCtx d id ch 0
          let v := { u with ctxs := u.ctxs ++ [k] }
          let st := if k.guaranteed then guarChecks v k else pageCheck v k
          if st ≠ 0 then CompletedOver s t c st []
          else ∃ k1, ctxOf s id = none ∧ k1 = { k with firstPage := k1.firstPage, bound := k1.bound } ∧ k1.st = 1 ∧
            k1.train = none ∧ (∃ w, w = settleNew u k1 { u with ctxs := u.ctxs ++ [k1] } ∧
              w = { u with ctxs := s.ctxs ++ [k1], dies := w.dies } ∧ restOf t = restOf w) ∧ Completed t c 0 ∧
            LastBody t c (leBytes 2 id ++ leBytes 1 k1.dieMask ++ leBytes 1 0 ++ leBytes 2 k1.firstPage ++
              leBytes 2 0 ++ leBytes 4 k1.bound ++ leBytes 2 k1.stage ++ leBytes 2 0) ∧
            (∀ i, i < k1.pages → mapFind (chanOf t ch).pages (k1.firstPage + i) = some id) ∧
            ∀ p, mapFind (chanOf s ch).pages p ≠ none → mapFind (chanOf t ch).pages p = mapFind (chanOf s ch).pages p)

/-- O26. The acceptance of a CTX_DESTROY of a context whose destruction has not begun stops its train: an open frame closes
now and is refused with ADM_FRAME_SUPERSEDED, as is every pending one, and no other context or frame of one changes; of one
that is being destroyed it changes nothing. CTX_DESTROY then does the same where it is not done, the context keeps the
command's slot, and the command stays in flight; otherwise it completes with ADM_CTX_STATE. Once no frame of the context is
unsealed, CTX_DESTROY_COMPLETE removes the context, its frames, its result pages and its allocations, takes it out of every
steering entry, and completes the command with OK. CTX_QUERY returns state, class, die mask, counts and least slack and
changes nothing. CTX_CLEAR_DEGRADED returns the latched zones and clears latches, histories and degraded state of that
context alone, or completes with VRD_NOT_DEGRADED; a number that no context has is ADM_CTX_UNKNOWN (R115, R134, R412). The
model's readings: log entry 44. -/
def Obligations.ContextsAreQueriedClearedAndDestroyed : Prop :=
  (∀ (slot : Nat) (c : Cmd) (s : State) (k : Ctx), Inv s → cmdOf s slot = some c → c.code = 0x0021 →
    ctxOf s (u16 c.bytes 16) = some k →
    let t := acceptEffect s slot
    (k.destroy ≠ none → t = s) ∧
    (k.destroy = none → t.chans = s.chans ∧ t.log = s.log ∧ t.pkgs = s.pkgs ∧ t.tmu = s.tmu ∧
      (∃ k1, ctxOf t k.id = some k1 ∧ k1.destroy = none ∧ k1.train = none) ∧
      (∀ f, openFrame s k.id = some f → (∀ g ∈ s.frames, g.ctx = k.id → g.phase = .pending → g.num ≠ f.num) →
        ∃ g, frameOf t k.id f.num = some g ∧ g.phase = .refused ∧ g.refusal = 0x0426 ∧ g.closeRaw = s.raw) ∧
      (∀ f ∈ t.frames, f.ctx = k.id → f.phase ≠ .pending) ∧
      (∀ x, x ≠ k.id → ctxOf t x = ctxOf s x) ∧ ∀ x n, x ≠ k.id → frameOf t x n = frameOf s x n)) ∧
  (∀ (slot : Nat) (c : Cmd) (s : State) (k : Ctx), MayStart s slot 0x0021 c → ctxOf s (u16 c.bytes 16) = some k →
    (k.destroy ≠ none → ∃ t, exec (.ctxDestroy slot) s = .next t ∧ CompletedOver s t c 0x040E []) ∧
    (k.destroy = none → ∃ t, exec (.ctxDestroy slot) s = .next t ∧
      t.chans = (markStarted s slot).chans ∧ t.log = s.log ∧ t.pkgs = s.pkgs ∧ t.tmu = s.tmu ∧
      (∃ k1, ctxOf t k.id = some k1 ∧ k1.destroy = some slot ∧ k1.train = none) ∧
      (∀ f, openFrame s k.id = some f → (∀ g ∈ s.frames, g.ctx = k.id → g.phase = .pending → g.num ≠ f.num) →
        ∃ g, frameOf t k.id f.num = some g ∧ g.phase = .refused ∧ g.refusal = 0x0426 ∧ g.closeRaw = s.raw) ∧
      (∀ f ∈ s.frames, f.ctx = k.id → f.phase = .pending →
        ∃ g, frameOf t k.id f.num = some g ∧ (g.phase = .refused ∧ g.refusal = 0x0426 ∨ g.phase = .opened)) ∧
      (∀ f ∈ t.frames, f.ctx = k.id → f.phase ≠ .pending) ∧
      (∀ x, x ≠ k.id → ctxOf t x = ctxOf s x) ∧ ∀ x n, x ≠ k.id → frameOf t x n = frameOf s x n)) ∧
  (∀ (ctx slot : Nat) (s : State) (k : Ctx), Inv s → ctxOf s ctx = some k → k.destroy = some slot → slot < 16384 →
    s.frames.any (unsealed ctx) = false → ∃ t, exec (.ctxDestroyComplete ctx) s = .next t ∧
      cmdOf t slot = none ∧ (∀ c, cmdOf s slot = some c → Completed t c 0) ∧
      t.ctxs = s.ctxs.filter (fun c => c.id != ctx) ∧
      t.frames = s.frames.filter (fun f => f.ctx != ctx) ∧ (∀ e ∈ t.steer, ctx ∉ e.2.ctxs) ∧
      (∀ ch p, (p, ctx) ∉ (chanOf t ch).pages) ∧
      (∀ d, dieOf t d = { dieOf s d with allocs := (dieOf t d).allocs } ∧
        ∀ a ∈ (dieOf t d).allocs, a ∈ (dieOf s d).allocs ∧ a.owner ∉ [ownWork k.id, ownStore k.id, ownMerge k.id, ownHash k.id]) ∧
      t.pkgs = s.pkgs ∧ t.tmu = s.tmu ∧ t.log = s.log) ∧
  (∀ (slot : Nat) (c : Cmd) (s : State) (k : Ctx), MayStart s slot 0x0022 c → ctxOf s (u16 c.bytes 16) = some k →
    ∃ t, exec (.ctxQuery slot) s = .next t ∧
      CompletedOver s t c 0 (leBytes 1 k.st ++ leBytes 1 (b2n k.guaranteed) ++ leBytes 1 k.dieMask ++ leBytes 1 0 ++
        leBytes 4 k.delivered ++ leBytes 4 k.refusedCnt ++ leBytes 2 (min 65535 k.late) ++ leBytes 2 (leastSlack k))) ∧
  (∀ (slot : Nat) (c : Cmd) (s : State) (k : Ctx), MayStart s slot 0x0025 c → ctxOf s (u16 c.bytes 16) = some k →
    let on := k.st = 4 ∨ (k.st = 3 ∧ k.pausedDegraded = true) ∨ (k.st = 1 ∧ anyLatched k = true)
    (¬ on → ∃ t, exec (.ctxClearDegraded slot) s = .next t ∧ CompletedOver s t c 0x1102 []) ∧
    (on → ∃ t u, exec (.ctxClearDegraded slot) s = .next t ∧ u = { s with ctxs := u.ctxs } ∧
      CompletedOver u t c 0 (leBytes 8 (latchMap k)) ∧ u.ctxs.map (·.id) = s.ctxs.map (·.id) ∧
      (∀ x, x ≠ k.id → ctxOf u x = ctxOf s x) ∧
      ctxOf u k.id = some { k with zst := k.zst.map (fun z => { z with hist := 0, latched := false }),
                                   st := if k.st = 4 then 2 else k.st, pausedDegraded := false })) ∧
  ∀ (slot : Nat) (c : Cmd) (s : State) (w : Instr), ctxOf s (u16 c.bytes 16) = none →
    (w = .ctxDestroy slot ∧ MayStart s slot 0x0021 c ∨ w = .ctxQuery slot ∧ MayStart s slot 0x0022 c ∨
      w = .ctxClearDegraded slot ∧ MayStart s slot 0x0025 c) →
    ∃ t, exec w s = .next t ∧ CompletedOver s t c 0x040D []

/-- O27. PKG_LOAD loads a package that passes every check under a handle that no package holds, and PKG_UNLOAD removes one
that no context uses; nothing else changes but the package's copy and its place in hub main memory, which lies within the
package area, between the checker region and the device area. A package in use, and a handle that names none, are refused
(R107, R560). The model's readings: log entries 17, 22, 54, 73. -/
def Obligations.PackagesLoadAndUnload : Prop :=
  (∀ (slot : Nat) (c : Cmd) (s : State) (p : PkgDecl), MayStart s slot 0x0030 c →
    let u := markStarted s slot
    let ch := slot / 8192
    let b := staged u ch (u16 c.bytes 16) (u32 c.bytes 20)
    pagesOk u ch (u16 c.bytes 16) (pageCount (u32 c.bytes 20)) = true → deployed u = true →
    envCheck u ⟨2, 1, true, ownerKey s.nv⟩ b = 0 → pkgStatus p = 0 → pkgFits u (envBody b).length = true →
    ∃ t h, exec (.pkgLoad slot (some p)) s = .next t ∧ 1 ≤ h ∧ pkgOf s h = none ∧
      let v := { u with pkgs := s.pkgs ++ [⟨h, p, (envBody b).length, slice b 40 64⟩] }
      let w := placePackage v h (envBody b)
      CompletedOver w t c 0 (leBytes 2 h) ∧ w = { v with dies := w.dies } ∧ (∀ d, d ≠ 0 → dieOf w d = dieOf s d) ∧
        ∀ a ∈ (dieOf w 0).allocs, a ∈ (dieOf s 0).allocs ∨
          (a.target = 9 ∧ a.owner = ownCopy h ∧ chkLines s ≤ a.base ∧ a.base + a.len ≤ lineCount s 0 9 - 2097152)) ∧
  ∀ (slot : Nat) (c : Cmd) (s : State), MayStart s slot 0x0031 c →
    let h := u16 c.bytes 16
    ∃ t, exec (.pkgUnload slot) s = .next t ∧
      (if (pkgOf s h).isNone then CompletedOver s t c 0x0402 []
      else if s.ctxs.any (fun k => k.pkg == h) then CompletedOver s t c 0x0410 []
      else CompletedOver (release { markStarted s slot with pkgs := s.pkgs.filter (fun p => p.handle != h) } (ownCopy h)
        (fun d => d == 0)) t c 0 [])

/-- O28. FRAME_OPEN on a context that passes its checks opens a train: the first frame is open under the number given, at
the close time given, or one period from the command's acceptance where none is given; the context is RUNNING, or DEGRADED
with a zone latched. On a host-paced context it does so at its acceptance and completes with OK when it starts. A context that
fails a check is refused and nothing changes (R116, R180, R383, R400, R412). The model's readings: log entry 44. -/
def Obligations.FrameOpenCompletes : Prop :=
  let opened := fun (c : Cmd) (s t : State) (k : Ctx) => ∃ f tr, t.frames = s.frames ++ [f] ∧ f.ctx = k.id ∧ f.num = u32 c.bytes 20 ∧
    f.phase = .opened ∧ f.idx = 0 ∧ f.pts = [] ∧
    f.sched = (if u64 c.bytes 24 = 0 then c.corr + k.period * 1000 else u64 c.bytes 24) ∧ tr.first = f.sched ∧
    tr.prev = (if k.hostPaced then c.corr else tr.first - k.period * 1000) ∧ tr.num = u32 c.bytes 20 ∧ tr.stop = false ∧
    t.ctxs = s.ctxs.map (fun x => if x.id == k.id then
      { x with train := some tr, st := if anyLatched x then 4 else 2, stores := true } else x) ∧
    t.pkgs = s.pkgs ∧ t.tables = s.tables ∧ t.tmu = s.tmu ∧ t.log = s.log
  (∀ (slot : Nat) (c : Cmd) (s : State) (k : Ctx), MayStart s slot 0x0023 c → ctxOf s (u16 c.bytes 16) = some k →
    let u := markStarted s slot
    let st := frameOpenCheck u k (u64 c.bytes 24)
    ∃ t, exec (.frameOpen slot) s = .next t ∧
      (if c.note ≠ none then CompletedOver s t c 0 []
      else if st ≠ 0 then CompletedOver s t c st []
      else Completed t c 0 ∧ opened c s t k)) ∧
  ∀ (slot : Nat) (c : Cmd) (s : State) (k : Ctx), Inv s → slot < 16384 → cmdOf s slot = some c → c.code = 0x0023 →
    ctxOf s (u16 c.bytes 16) = some k →
    let t := acceptEffect s slot
    (k.hostPaced = false ∨ frameOpenCheck s k (u64 c.bytes 24) ≠ 0 → t = s) ∧
    (k.hostPaced = true → frameOpenCheck s k (u64 c.bytes 24) = 0 →
      cmdOf t slot = some { c with note := some 0 } ∧ opened c s t k)

/-- O29. A frame closes at FRAME_CLOSE of a host-paced context, not earlier than one period after the previous close, or,
of a periodic context, at PERIODIC_FRAME_CLOSE once corrected time has reached its scheduled close: it takes the close
instant and the deadline, it is no longer open, and the train goes on with the next number or stops. FRAME_CLOSE
completes with the frame's number; too early a close is refused; on a periodic train it can only order the stop, which it
does at its acceptance, for the frame open then (R117, R118, R167). The model's readings: log entry 44. -/
def Obligations.FramesClose : Prop :=
  (∀ (slot : Nat) (c : Cmd) (s : State) (k : Ctx) (tr : Train) (f : Frame), Inv s → slot < 16384 → cmdOf s slot = some c →
    c.code = 0x0024 → ctxOf s (u16 c.bytes 16) = some k → k.hostPaced = false → k.train = some tr →
    openFrame s k.id = some f → bitOf (byteAt c.bytes 18) 0 = true →
    let t := acceptEffect s slot
    cmdOf t slot = some { c with note := some f.num } ∧ ctxOf t k.id = some { k with train := some { tr with stop := true } } ∧
      t = { s with chans := t.chans, ctxs := t.ctxs }) ∧
  (∀ (slot n : Nat) (c : Cmd) (s : State) (k : Ctx), MayStart s slot 0x0024 c → ctxOf s (u16 c.bytes 16) = some k →
    c.note = some n → ∃ t, exec (.frameClose slot) s = .next t ∧ CompletedOver s t c 0 (leBytes 4 n)) ∧
  (∀ (slot : Nat) (c : Cmd) (s : State) (k : Ctx) (tr : Train) (f : Frame), MayStart s slot 0x0024 c →
    ctxOf s (u16 c.bytes 16) = some k → c.note = none → k.train = some tr → openFrame s k.id = some f →
    let stop := bitOf (byteAt c.bytes 18) 0
    ∃ t, exec (.frameClose slot) s = .next t ∧
      (if k.hostPaced = true then
        (if now s < tr.prev + k.period * 1000 then CompletedOver s t c 0x040F []
        else Completed t c 0 ∧ LastBody t c (leBytes 4 f.num) ∧
          (∃ g ∈ t.frames, g.ctx = k.id ∧ g.num = f.num ∧ g.phase ≠ .opened ∧ g.close = now s ∧ g.closeRaw = s.raw ∧
            g.deadline = s.raw + k.deadline * 1000) ∧
          (if stop then (∀ x, ctxOf t k.id = some x → x.train = none)
          else (∀ x, ctxOf t k.id = some x →
              x.train = some ⟨tr.first, tr.n + 1, (tr.num + 1) % 2 ^ 32, now s, stop⟩) ∧
            ∃ g ∈ t.frames, g.ctx = k.id ∧ g.num = (tr.num + 1) % 2 ^ 32 ∧
              (f.num ≠ (tr.num + 1) % 2 ^ 32 → g.phase = .opened)))
      else if stop then ∃ u, u = { s with ctxs := s.ctxs.map (fun x => if x.id == k.id then
          { x with train := some { tr with stop := true } } else x) } ∧ CompletedOver u t c 0 (leBytes 4 f.num)
      else CompletedOver s t c 0x040E [])) ∧
  ∀ (ctx : Nat) (s : State) (k : Ctx) (tr : Train) (f : Frame), ctxOf s ctx = some k → k.hostPaced = false →
    k.train = some tr → openFrame s ctx = some f → f.sched ≤ now s → firstDue s f.sched = true →
    ∃ t, exec (.periodicFrameClose ctx) s = .next t ∧
      (∃ g ∈ t.frames, g.ctx = k.id ∧ g.num = f.num ∧ g.phase ≠ .opened ∧ g.close = now s ∧ g.closeRaw = s.raw ∧
        g.deadline = s.raw + k.deadline * 1000) ∧
      (if tr.stop then (∀ x, ctxOf t k.id = some x → x.train = none)
      else ∃ g ∈ t.frames, g.ctx = k.id ∧ g.num = (tr.num + 1) % 2 ^ 32 ∧
              (f.num ≠ (tr.num + 1) % 2 ^ 32 → g.phase = .opened)) ∧
      t.pkgs = s.pkgs ∧ (AtRest s 0x04 0 → t.chans = s.chans ∧ t.log = s.log)

/-- O30. The exact pass of a pending frame whose voxelisation is complete accepts the frame for the exact pass if the
bound over the exact counts at the present pace meets the deadline and a ring entry is free, and otherwise refuses it with
ADM_FRAME_NO_FIT or with the ring's status, counted in its context; no other frame changes (R125 to R127). Writes that
wait for the ADM block's boundary, which its end is (R135), are another statement's. The
model's readings: log entry 45. -/
def Obligations.ExactPassDecides : Prop :=
  ∀ (ctx num : Nat) (s : State) (k : Ctx) (f : Frame), ctxOf s ctx = some k → frameOf s ctx num = some f →
    f.phase = .pending → f.voxDone = true → hubServes s 0x04 = true → AtRest s 0x04 0 →
    let v := notePace s k.dieMask
    let b := bound? (declOf v k.pkg) (exactCounts v k f) (smallTable v) (evalShares v k) (retryBudget v) false
    ∃ t g, exec (.exactPass ctx num) s = .next t ∧ frameOf t ctx num = some g ∧
      (if (∃ x, b = some x ∧ s.raw + x ≤ f.deadline) ∧ 1 ≤ ringFree s k.chan then
        g.phase = .accepted ∧ g.pass = 2 ∧ g.refRaw = s.raw ∧ g.close = f.close ∧ t.ctxs = s.ctxs
      else g.phase = .refused ∧
        g.refusal = (if (∃ x, b = some x ∧ s.raw + x ≤ f.deadline) then 0x0421 else 0x0420) ∧
        t.ctxs = s.ctxs.map (fun x => if x.id == k.id then { x with refusedCnt := x.refusedCnt + 1 } else x)) ∧
      (∀ x n, (x, n) ≠ (ctx, num) → frameOf t x n = frameOf s x n) ∧ t.chans = s.chans ∧ t.log = s.log

/-! ## Ingest and time (05) -/

/-- O31. DECODER_SET stores a descriptor within its ranges under its number; STEER_SET stores an entry that passes its
checks, or clears one; POSE_WRITE makes a table STATIC, appends samples in ascending time to a MOVING one, of which
the newest 16 stay, or empties it, and a frame that closed at this instant has the write among the poses it was closed with
(R185). Each keeps every other entry and completes with OK; each refusal changes nothing (R146, R147, R182 to R184). -/
def Obligations.DecodersSteeringAndPosesComplete : Prop :=
  (∀ (slot : Nat) (c : Cmd) (s : State), MayStart s slot 0x0040 c →
    let u := markStarted s slot
    let page := u16 c.bytes 16
    let count := u32 c.bytes 20
    let d := staged u (slot / 8192) page count
    ∃ t, exec (.decoderSet slot) s = .next t ∧
      (if pagesOk u (slot / 8192) page (pageCount count) = false then CompletedOver s t c 0x030B []
      else if descOk d = false then CompletedOver s t c 0x0501 []
      else CompletedOver { s with decs := mapPut s.decs (byteAt d 0) d } t c 0 (leBytes 1 (byteAt d 0)))) ∧
  (∀ (slot : Nat) (c : Cmd) (s : State), MayStart s slot 0x0041 c →
    ∃ t, exec (.steerSet slot) s = .next t ∧
      (if steerOk (markStarted s slot) c.bytes = false then CompletedOver s t c 0x0502 []
      else if (steerCtxs c.bytes).any (fun x => (ctxOf s x).isNone) then CompletedOver s t c 0x040D []
      else Completed t c 0 ∧ t.ctxs = s.ctxs ∧ t.frames = s.frames ∧ t.decs = s.decs ∧ t.lanes = s.lanes ∧ t.log = s.log ∧
        (if byteAt c.bytes 18 = 0 then t.steer = mapDel s.steer (u16 c.bytes 16)
        else mapFind t.steer (u16 c.bytes 16) = some (steerEntry c.bytes) ∧
          ∀ k, k ≠ u16 c.bytes 16 → mapFind t.steer k = mapFind s.steer k))) ∧
  ∀ (slot : Nat) (c : Cmd) (s : State), MayStart s slot 0x0042 c →
    let k := u16 c.bytes 16
    let op := byteAt c.bytes 18
    let new := (List.range (byteAt c.bytes 19)).map (poseSample c.bytes)
    let old := if (poseTab s k).mode = 2 then (poseTab s k).samples else []
    let posed := fun g : List (Nat × PoseTab) → List (Nat × PoseTab) => { s with
      poses := g s.poses,
      frames := s.frames.map (fun f => if f.phase ≠ .opened ∧ f.closeRaw = s.raw then { f with poses := g f.poses } else f) }
    ∃ t, exec (.poseWrite slot) s = .next t ∧
      (if poseOk c.bytes = false then CompletedOver s t c 0x0701 []
      else if op = 0 ∧ ascending (old.drop (old.length - 1) ++ new) = false then CompletedOver s t c 0x0702 []
      else if op = 0 then
        CompletedOver (posed (fun l => mapPut l k ⟨2, (old ++ new).drop ((old ++ new).length - 16)⟩)) t c 0 []
      else if op = 1 then CompletedOver (posed (fun l => mapPut l k ⟨1, new⟩)) t c 0 []
      else CompletedOver (posed (fun l => mapDel l k)) t c 0 [])

/-- O32. TIME_SET that passes its checks applies what it selects: a rate from this instant on, which moves corrected time
by nothing now; a step, by which corrected time moves, and by which a slice of the self-test may come to meet a window
(R529); the calendar. The closes that the new time has reached occur, none
where it has reached none, and the command completes with the corrected time after it. A TIME_SET that fails a check
changes nothing (R165 to R167). The model's reading: log entry 69. -/
def Obligations.TimeSetCompletes : Prop :=
  ∀ (slot : Nat) (c : Cmd) (s : State), MayStart s slot 0x0043 c →
    let u := markStarted s slot
    let sel := byteAt c.bytes 16
    let step := i64 c.bytes 24
    (timeSetCheck s sel step ≠ 0 → ∃ t, exec (.timeSet slot) s = .next t ∧
      CompletedOver s t c (timeSetCheck s sel step) []) ∧
    (timeSetCheck s sel step = 0 → ∃ t v, exec (.timeSet slot) s = .next t ∧
      CompletedOver (runCloses v) t c 0 (leBytes 8 (now v)) ∧ (NoCloseDue v → runCloses v = v) ∧
      corrAt v v.raw = corrAt s s.raw + (if bitOf sel 0 then step else 0) ∧
      (∀ d, dieOf v d = { dieOf s d with selftest := (dieOf v d).selftest }) ∧ (bitOf sel 0 = false → v.dies = s.dies) ∧
      v = { u with
        dies := v.dies,
        tmu := { s.tmu with offset := v.tmu.offset, anchor := v.tmu.anchor,
                            rate := if bitOf sel 1 then i32 c.bytes 32 else s.tmu.rate },
        backup := if bitOf sel 2 then { s.backup with
          cal := leNat (slice c.bytes 40 6) % 2 ^ 48, calValid := true, calNs := 0 } else s.backup })

/-- O33. A lane that is enabled gains lock, comes up after 10 ms of lock with its event, and goes down at once when lock
is lost, with its event if it was up; remote fault is noted; the frame at the head of the transmit queue leaves. A
frame received on a lane that holds lock is counted as too long, as wrong, or as correct; a correct one that the MAC
accepts joins the receive buffer with its arrival time, or is dropped and counted where it does not fit; any other is
dropped (R139 to R141, R176). The model's readings: log entry 46. -/
def Obligations.LanesReceiveFrames : Prop :=
  (∀ (lane : Nat) (s : State), Inv s →
    (laneEnabled s lane = true → partOn s = true → 2 ≤ s.pwr.st → (laneOf s lane).locked = false →
      exec (.laneLockGained lane) s = .next (modLane s lane (fun l => { l with locked := true, lockRaw := s.raw }))) ∧
    ((laneOf s lane).locked = true → (laneOf s lane).up = false → (laneOf s lane).lockRaw + 10000000 ≤ s.raw →
      ∃ t, exec (.laneLockTimer lane) s = .next t ∧ Raised (modLane s lane (fun l => { l with up := true })) t 0x0581 lane) ∧
    ((laneOf s lane).locked = true → ∃ t, exec (.laneLockLost lane) s = .next t ∧
      (if (laneOf s lane).up then Raised (modLane s lane (fun l => { l with up := false, locked := false })) t 0x0580 lane
      else t = modLane s lane (fun l => { l with up := false, locked := false }))) ∧
    (∀ present, laneEnabled s lane = true → partOn s = true →
      exec (.remoteFaultReceived lane present) s = .next (modLane s lane (fun l => { l with remoteFault := present }))) ∧
    ∀ f l, (laneOf s lane).tx = f :: l →
      exec (.verdictFrameTransmitted lane) s = .next (modLane s lane (fun x => { x with tx := l, sent := f.bytes }))) ∧
  ∀ (lane : Nat) (b : List Byte) (err : Bool) (s : State), (laneOf s lane).locked = true →
    let bad := err = true ∨ b.length < 4 ∨ crc32 (b.take (b.length - 4)) ≠ leNat (b.drop (b.length - 4))
    let s1 := cntAdd s rPdeLaneCnt (lane * 8) 1
    (9216 < b.length → exec (.ethernetFrameReceived lane b err) s = .next (cntAdd s rPdeLaneCnt (lane * 8 + 7) 1)) ∧
    (b.length ≤ 9216 → bad → exec (.ethernetFrameReceived lane b err) s =
      .next (cntAdd s rPdeLaneCnt (lane * 8 + 1) 1)) ∧
    (b.length ≤ 9216 → ¬ bad → macAccepts s lane b = false → exec (.ethernetFrameReceived lane b err) s = .next s1) ∧
    (b.length ≤ 9216 → ¬ bad → macAccepts s lane b = true → rxBytes s lane + b.length ≤ 65536 →
      exec (.ethernetFrameReceived lane b err) s =
        .next (modLane s1 lane (fun x => { x with rx := x.rx ++ [⟨lane, b, now s⟩] }))) ∧
    (b.length ≤ 9216 → ¬ bad → macAccepts s lane b = true → 65536 < rxBytes s lane + b.length →
      exec (.ethernetFrameReceived lane b err) s = .next (cntAdd s1 rPdeLaneCnt (lane * 8 + 2) 1))

/-- O34. PACKET_STEER takes the oldest buffered frame of a lane with no packet in decode: an incorrect one is counted, a
datagram that an entry matches starts decode with that entry's contexts or is dropped by R150, and any other goes to
the firmware. BLOCK_DECODE starts the packet's next block once the closes that are due have occurred: it takes the block's
points in order and moves on to the following block, or ends the packet; contexts that the entry does not list keep their
frames. It starts unless a later lane's block, or a window's, has started at the same instant (R142 to R144, R150, R156,
R159). The model's readings: log entries 46, 68. -/
def Obligations.PacketsAreSteeredAndDecoded : Prop :=
  (∀ (lane : Nat) (s : State) (f : RxFrame) (l : List RxFrame), hubServes s 0x05 = true → (laneOf s lane).dec = none →
    (laneOf s lane).rx = f :: l →
    let u := modLane s lane (fun x => { x with rx := l })
    (parseFrame f.bytes = .bad → exec (.packetSteer lane) s = .next (cntAdd u rPdeLaneCnt (lane * 8 + 6) 1)) ∧
    (parseFrame f.bytes = .other → exec (.packetSteer lane) s = .next (toFirmware u f)) ∧
    ∀ d, parseFrame f.bytes = .udp d →
      ((d.dport = 319 ∨ d.dport = 320) ∨ s.steer.find? (fun e => steerMatches e.2 lane (vlanOf f.bytes) d) = none →
        exec (.packetSteer lane) s = .next (toFirmware u f)) ∧
      ∀ k e, d.dport ≠ 319 → d.dport ≠ 320 →
        s.steer.find? (fun e => steerMatches e.2 lane (vlanOf f.bytes) d) = some (k, e) →
        let desc := (mapFind s.decs e.desc).getD []
        let v := cntAdd u rPdeLaneCnt (lane * 8 + 3) 1
        exec (.packetSteer lane) s = .next (if payloadOk desc d.payload.length then
            modLane (cntAdd v rPdeSensorCnt (k * 8) 1) lane
              (fun l => { l with dec := some ⟨k, desc, e.ctxs, d.payload, 0, f.arrival⟩ })
          else cntAdd v rPdeSensorCnt (k * 8 + 1) 1)) ∧
  ∀ (lane : Nat) (s : State) (p : Decoding), (laneOf s lane).dec = some p →
    (s.lastBlock.1 = s.raw → s.lastBlock.2 ≤ lane) →
    let v := blockStarts s lane
    (NoCloseDue s → v = { s with lastBlock := (s.raw, lane) }) ∧
    ∃ t, exec (.blockDecode lane) s = .next t ∧
      t.lanes = updAt v.lanes lane (fun l => { l with
        dec := if p.block + 1 < dBlocks p.desc then some { p with block := p.block + 1 } else none }) ∧
      t.frames = ((blockPoints p).foldl (takePoint p.ctxs p.sensor) v).frames ∧
      (∀ x n, x ∉ p.ctxs → frameOf t x n = frameOf v x n) ∧ t.ctxs = v.ctxs ∧ t.chans = v.chans ∧ t.dies = v.dies ∧
      t.log = v.log

/-- O35. An ARP request for the lane's address, and a neighbour solicitation for its link-local address, at the head of
the firmware queue leave the queue and are answered on their lane, behind what waits there, if the lane is up; nothing
else changes (R145). The model's readings: log entry 24. -/
def Obligations.FirmwareAnswersAddressQueries : Prop :=
  ∀ (s : State) (f : RxFrame), fwHead s = some f →
    (isArp s f = true → ∃ t, exec .arpRequest s = .next t ∧
      t = { s with fwq := (fwTake s).fwq, lanes := t.lanes } ∧
      t.lanes = (if (laneOf s f.lane).up then updAt s.lanes f.lane (fun x => { x with tx := x.tx ++ [⟨none, arpReply s f⟩] })
        else s.lanes)) ∧
    (isSolicit s f = true → ∃ t, exec .neighbourSolicitation s = .next t ∧
      t = { s with fwq := (fwTake s).fwq, lanes := t.lanes } ∧
      t.lanes = (if (laneOf s f.lane).up then updAt s.lanes f.lane (fun x => { x with tx := x.tx ++ [⟨none, advertisement s f⟩] })
        else s.lanes))

/-- O36. A usable one-step Sync, or the Follow_Up of the two-step Sync that waits, gives a new offset estimate, which the
servo then acts on: the difference of receive and origin time less the corrections and the mean path delay. The receive time
is within 2 us of the arrival. At the sixteenth good estimate in a row the servo is LOCKED; in HOLDOVER it corrects nothing.
A Delay_Resp to the Delay_Req that was sent gives the mean path delay. An Announce that counts renews its sender's record and
selects the best of the qualified masters that are heard, and another grandmaster than the one before unlocks the servo with
its event. A Delay_Req leaves with its departure time, within 8 ns, and the next sequence. Without a usable Sync for the
holdover time a servo enters HOLDOVER, with its event, unless it lacks the IPv4 address its transport needs (R169 to R171). The model's readings: log entry 25. -/
def Obligations.PtpComplete : Prop :=
  ((∀ (s : State) (adj : Servo) (f : RxFrame) (m : List Byte), ptpHead s 0 = some (f, m) →
    fromMaster s m = true → 44 ≤ m.length →
    ∃ (v : State) (rx : Int), (f.arrival : Int) - 2000 ≤ rx ∧ rx ≤ f.arrival + 2000 ∧
      v.fwq = (fwTake s).fwq ∧ v.frames = s.frames ∧ v.dies = s.dies ∧ v.ctxs = s.ctxs ∧
      (if bitOf (byteAt m 6) 1 then exec (.sync adj) s = .next v ∧
        v.tmu = { s.tmu with pendSync := some (seqId m, rx.toNat, correction m) } ∧ v.log = s.log
      else
        let est := rx - timestamp m - correction m - s.tmu.pathDelay
        let good := if est.natAbs ≤ cfgFld s rTmuPtpCfg 0 15 0 * 1000 then s.tmu.good + 1 else 0
        exec (.sync adj) s = .next (applyServo v adj) ∧
          v.tmu.est = est ∧ v.tmu.good = good ∧ v.tmu.lastSync = s.raw ∧ v.tmu.pathDelay = s.tmu.pathDelay ∧
          v.tmu.offset = s.tmu.offset ∧ v.tmu.servo = (if 16 ≤ good then 2 else s.tmu.servo))) ∧
  (∀ (s : State) (adj : Servo) (f : RxFrame) (m : List Byte) (q rx : Nat) (corr : Int), ptpHead s 8 = some (f, m) →
    s.tmu.pendSync = some (q, rx, corr) → fromMaster s m = true → q = seqId m → 44 ≤ m.length →
    let est := (rx : Int) - timestamp m - corr - correction m - s.tmu.pathDelay
    ∃ v, exec (.followUp adj) s = .next (applyServo v adj) ∧ v.fwq = (fwTake s).fwq ∧ v.tmu.pendSync = none ∧
      v.tmu.est = est ∧ v.tmu.lastSync = s.raw ∧ v.frames = s.frames ∧ v.dies = s.dies ∧ v.ctxs = s.ctxs) ∧
  ∀ (v : State) (adj : Servo), v.tmu.servo = 3 → applyServo v adj = v) ∧
  (∀ (s : State) (f : RxFrame) (m : List Byte) (q t3 : Nat), ptpHead s 9 = some (f, m) → s.tmu.delayReq = some (q, t3) →
    fromMaster s m = true → q = seqId m → slice m 44 10 = ownPort s →
    let delay := (s.tmu.msDiff + (timestamp m - correction m - (t3 : Int))) / 2
    exec .delayResp s = .next (modTmu (fwTake s) (fun t => { t with delayReq := none, pathDelay := delay }))) ∧
  (∀ (s : State) (f : RxFrame) (m : List Byte), Inv s → ptpHead s 11 = some (f, m) → announceOk s m = true →
    let u := modTmu (fwTake s) (fun t => { t with foreign := noteAnnounce s m })
    ∃ t, exec .announce s = .next t ∧ t.tmu.foreign = noteAnnounce s m ∧ t.tmu.master = bestMaster u ∧
      t.fwq = (fwTake s).fwq ∧
      (if (bestMaster u).any (fun k => s.tmu.gm.any (fun g => g != k.gm)) then
        t.tmu.servo = 1 ∧ t.tmu.good = 0 ∧ Logged s t 0x0683 (ptpLane s)
      else t.tmu.servo = s.tmu.servo ∧ t.log = s.log)) ∧
  (∀ s : State, mayRequest s = true → ∃ (t : State) (dep : Nat), exec .delayReq s = .next t ∧
    (now s : Int) - 8 ≤ dep ∧ (dep : Int) ≤ now s + 8 ∧ t.tmu = { s.tmu with
      delayReq := some (s.tmu.reqSeq, dep), reqSeq := (s.tmu.reqSeq + 1) % 65536 } ∧ t.cfg = s.cfg ∧ t.log = s.log ∧
    ∃ o, t.lanes = updAt s.lanes (ptpLane s) (fun l => { l with sent := delayReqFrame s dep o })) ∧
  (∀ s : State, ptpAddressed s = false → exec .ptpHoldoverExpiry s = .next s) ∧
  ∀ s : State, Inv s → cfgFld s rTmuCfg 0 31 31 = 1 → s.tmu.servo ≠ 3 → ptpAddressed s = true →
    s.tmu.lastSync + cfgFld s rTmuPtpCfg 0 31 16 * 1000000 ≤ s.raw → ∃ t, exec .ptpHoldoverExpiry s = .next t ∧
      Raised { s with tmu := { s.tmu with servo := 3, good := 0 } } t 0x0681 (ptpLane s)

/-- O37. A host ingest window with the magic value in its header becomes busy at its publish, a write at the open row of its
header unit, and one that is busy raises PDE_HIW_BUSY. The window reader serves the next one, answers it in its header unit,
and takes its records and advances its expected sequence only where every check passes; the closes that are due come before
the records. A sensor silent for its time raises its event once (R156, R160 to R163). The model's readings: log entries 46,
68. -/
def Obligations.HostWindowsComplete : Prop :=
  (∀ (ch win : Nat) (data : List Byte) (mask md : BitVec 32) (s : State), Inv s → ch < 2 → win < 7 →
    RowOpen s ch (winOff win) → mask.getLsbD 0 = true →
    let u := storeUnit s ch (winOff win) data mask md
    let h := memRead (chanOf u ch).mem (winOff win) 32
    ∃ t, exec (.hostWindowPublish ch win data mask md) s = .next t ∧
      (if u16 h 0 ≠ 0x1A7E then t = u
      else if s.hiw.any (fun b => b.ch == ch && b.win == win) then Raised u t 0x0583 (ch * 7 + win)
      else t = { u with hiw := s.hiw ++ [⟨ch, win, h, s.raw⟩] })) ∧
  (∀ (s : State) (b : HiwBusy), Inv s → hubServes s 0x05 = true → 2 ≤ s.pwr.st → nextWindow s = some b →
    (s.lastBlock.1 = s.raw → s.lastBlock.2 ≤ 16) →
    let s1 := { s with hiw := s.hiw.filter (· != b) }
    let v := if winStatus s b = 0 then blockStarts s1 16 else s1
    (NoCloseDue s → winStatus s b = 0 → v = { s1 with lastBlock := (s.raw, 16) }) ∧
    ∃ t, exec .hostWindowAnswer s = .next t ∧
    t.hiw = v.hiw ∧ (∀ k, k ≠ b.ch → chanOf t k = chanOf v k) ∧ t.log = v.log ∧ t.ctxs = v.ctxs ∧ t.dies = v.dies ∧
    (winStatus s b ≠ 0 → restOf t = restOf v ∧ winExpected t b = winExpected s b) ∧
    (b.ch < 2 → winStatus s b = 0 → winExpected t b = nextSeq (winExpected s b)) ∧
    (b.ch < 2 → memRead (chanOf t b.ch).mem (winOff b.win) 32 =
      padTo 32 (leBytes 2 0 ++ slice b.header 2 14 ++ leBytes 2 (winStatus s b) ++ leBytes 2 (winExpected t b) ++
        leBytes 4 (if winStatus s b = 0 then validRecords (u16 b.header 2) (winRecords s b) else 0) ++
        leBytes 4 (now32 t) ++ leBytes 4 0))) ∧
  ∀ (sensor : Nat) (s : State), Inv s → underSilence s sensor = true → (sensorOf s sensor).raised = false →
    ∃ t, exec (.sensorSilenceExpiry sensor) s = .next t ∧
      Raised (modSensor s sensor (fun k => { k with raised := true })) t 0x0582 sensor

/-! ## Debug and board management (17, 19) -/

/-- O38. The test access port's instructions load their registers: BYPASS 0 and IDCODE the identification, at any debug
level, SAMPLE/PRELOAD from OBSERVE a capture and an update stage, and EXTEST at INTRUSIVE a capture, whose values are free; under
EXTEST the update stage drives the outputs PWR_REQ and CMP_EN, and otherwise they have their functional value. At INTRUSIVE
the cores halt, resume and step, which changes registers and at most the one byte of hub memory that the instruction stores, and
a register of the halted cores reads as last written; x0 reads 0 (the model's reading, log entry 23). The system bus reads hub
memory of domain 0 from OBSERVE and writes it at INTRUSIVE, and has no effect past its end. Below the level it needs, each of
them changes nothing (R507). Over the board management port, in every power state but OFF, a write of 0xA5 starts a forced
stop and 0x5A ends this port's, and the port takes a dynamic address while it has none, by ENTDAA, or by SETDASA under its
static address (R552, R553). The model's readings: log entry 55. -/
def Obligations.DebugAndBoardManagementComplete : Prop :=
  (∀ s : State, partOn s = true →
    exec .bypass s = .next { s with dbg := { s.dbg with ir := 0, dr := 0 } } ∧
    exec .idcode s = .next { s with dbg := { s.dbg with ir := 1, dr := (0x8800 + s.variant) * 4096 + 0x5C * 2 + 1 } } ∧
    (1 ≤ s.sec.debug →
      (∃ v w, exec .samplePreload s = .next { s with free := s.free + 2, dbg := { s.dbg with ir := 2, dr := v, update := w } }) ∧
      ∀ a, a < hubMemBytes s → exec (.systemBusAccess a none) s = .next { s with dbg := { s.dbg with out := (memGet s.dbg.hubMem a).toNat } }) ∧
    (2 ≤ s.sec.debug →
      (∃ v t, t = { s with free := s.free + 1, dbg := { s.dbg with ir := 3, dr := v } } ∧ exec .extest s = .next t ∧
        ballPwrReq t = bitOf s.dbg.update (Config.boundaryCell 0) ∧ ballCmpEn t = bitOf s.dbg.update (Config.boundaryCell 1)) ∧
      (s.dbg.halted = false → exec .debugHalt s = .next { s with dbg := { s.dbg with halted := true, regs := [] } }) ∧
      exec .debugResume s = .next { s with dbg := { s.dbg with halted := false, regs := [] } } ∧
      (∀ a v, a < hubMemBytes s → ∃ t, exec (.systemBusAccess a (some v)) s = .next t ∧
        t = { s with dbg := { s.dbg with hubMem := t.dbg.hubMem } } ∧
        (s.dbg.hubMem.wf = true → ∀ b, memGet t.dbg.hubMem b = if b = a then v else memGet s.dbg.hubMem b)) ∧
      (s.dbg.halted = true →
        (∃ t, exec .debugStep s = .next t ∧ t = { s with free := t.free, dbg := { s.dbg with regs := [], hubMem := t.dbg.hubMem } } ∧
          debugStepAddr s = (freeNat s).1 % hubMemBytes s ∧
          (s.dbg.hubMem.wf = true → ∀ b, b ≠ debugStepAddr s → memGet t.dbg.hubMem b = memGet s.dbg.hubMem b)) ∧
        (∀ r v, r < 65536 → r ≠ 0x1000 → ∃ t, exec (.abstractRegisterAccess r (some v)) s = .next t ∧
          t = { s with dbg := { s.dbg with regs := t.dbg.regs } } ∧
          (∀ q, q ≠ r → mapFind t.dbg.regs q = mapFind s.dbg.regs q) ∧
          exec (.abstractRegisterAccess r none) t = .next { t with dbg := { t.dbg with out := v.toNat } }) ∧
        (∀ v, exec (.abstractRegisterAccess 0x1000 (some v)) s = .next s) ∧
        exec (.abstractRegisterAccess 0x1000 none) s = .next { s with dbg := { s.dbg with out := 0 } }))) ∧
  (∀ (s : State) (a r : Nat) (v : Byte) (w : Option (BitVec 64)),
    (hubMemBytes s ≤ a → exec (.systemBusAccess a none) s = .next s ∧ exec (.systemBusAccess a (some v)) s = .next s) ∧
    (s.dbg.ir ≠ 3 → ballPwrReq s = s.pins.pwrReq ∧ ballCmpEn s = s.pins.cmpEn) ∧
    (s.sec.debug < 1 → exec .samplePreload s = .next s ∧ exec (.systemBusAccess a none) s = .next s) ∧
    (s.sec.debug < 2 → exec .extest s = .next s ∧ exec .debugHalt s = .next s ∧ exec .debugResume s = .next s ∧
      exec .debugStep s = .next s ∧ exec (.abstractRegisterAccess r w) s = .next s ∧
      exec (.systemBusAccess a (some v)) s = .next s)) ∧
  ∀ s : State, partOn s = true → s.pwr.st ≠ 0 →
    forcedStop { s with bmp := { s.bmp with forced := true } } = true ∧
    exec .bmpForceStart s = .next { s with bmp := { s.bmp with forced := true } } ∧
    exec .bmpForceEnd s = .next { s with bmp := { s.bmp with forced := false } } ∧
    ∀ addr, 7 < addr → addr < 128 → addr ≠ 0x7E → s.bmp.dyn = none →
      exec (.entdaa addr) s = .next { s with bmp := { s.bmp with dyn := some addr } } ∧
      ∀ st, st = cfgFld s rBmpCfg 0 6 0 →
        exec (.setdasa st addr) s = .next { s with bmp := { s.bmp with dyn := some addr } }

/-! ## Frame stages (06, 07, 09) -/

/-- O39. A deskew tile reads the next points of a die's share, up to 4,096, and deskews those with a pose by the snapshot
of the frame's close. A voxelise tile, once 4,096 deskewed points wait below the first that a die has yet to read, or the
frame's last ones do, takes points on and creates no cell past the cell cap. With every point read and processed,
voxelisation is complete, the cells are counted and the half of the point store is given back. Other frames and contexts stay
(R187, R195, R198, R200). The model's readings: log entry 49. -/
def Obligations.DeskewAndVoxelisationAdvance : Prop :=
  (∀ (ctx num die : Nat) (s : State) (f : Frame), Inv s → frameOf s ctx num = some f →
    let ds := frameDies s f
    let e := posIn ds die
    let done := mapGet 0 f.dskDone die
    let upto := min (dskTotal f ds.length e) (done + 4096)
    working f = true → die ∈ ds → stageReady s die 0x07 = true → holdsLeave s f die (512 + 0x07) = true →
    done < dskTotal f ds.length e →
    ∃ t g, exec (.deskewTile ctx num die) s = .next t ∧ frameOf t ctx num = some g ∧ g.pts = f.pts ∧
      mapGet 0 g.dskDone die = upto ∧ (∀ d, d ≠ die → mapFind g.dskDone d = mapFind f.dskDone d) ∧
      (∀ q ∈ f.dpts, q ∈ g.dpts) ∧
      (∀ i p q, done ≤ i → i < upto → f.pts[e + ds.length * i]? = some p →
        deskewPt (dskDesc (pkgOfFrame s f)) (snapTab f p.sensor) p = some q → q.fits = true →
        ⟨e + ds.length * i, q.x, q.y, q.z, p⟩ ∈ g.dpts) ∧
      (∀ x n, (x, n) ≠ (ctx, num) → frameOf t x n = frameOf s x n) ∧ t.ctxs = s.ctxs) ∧
  (∀ (ctx num : Nat) (s : State) (c : Ctx) (f : Frame), ctxOf s ctx = some c → frameOf s ctx num = some f →
    let ds := maskDies c.dieMask
    let wait := f.dpts.filter (fun q => f.voxNext ≤ q.j && q.j < dskReach ds f)
    working f = true → f.voxDone = false → vhuReady s f ds = true → f.voxNext < dskReach ds f →
    (4096 ≤ wait.length ∨ dskReach ds f = f.pts.length) →
    ∃ t g, exec (.voxeliseTile ctx num) s = .next t ∧ frameOf t ctx num = some g ∧ f.voxNext < g.voxNext ∧
      g.voxNext ≤ dskReach ds f ∧ g.pts = f.pts ∧ (∀ q ∈ g.dpts, g.voxNext ≤ q.j ∧ q ∈ f.dpts) ∧
      g.cells.length ≤ max f.cells.length c.cellCap ∧
      (∀ x n, (x, n) ≠ (ctx, num) → frameOf t x n = frameOf s x n) ∧ t.ctxs = s.ctxs ∧ t.chans = s.chans) ∧
  ∀ (ctx num : Nat) (s : State) (c : Ctx) (f : Frame), ctxOf s ctx = some c → frameOf s ctx num = some f →
    working f = true → f.voxDone = false → dskAllDone (maskDies c.dieMask) f = true → f.pts.length ≤ f.voxNext →
    ∃ t g, exec (.voxelisationComplete ctx num) s = .next t ∧ frameOf t ctx num = some g ∧ g.voxDone = true ∧
      g.nCells = f.cells.length ∧ g.psHalf = false ∧ g.cells = f.cells ∧ g.phase = f.phase ∧
      (∀ x n, (x, n) ≠ (ctx, num) → frameOf t x n = frameOf s x n) ∧ t.ctxs = s.ctxs ∧ t.chans = s.chans

/-- O40. Curve order starts on an accepted frame with voxelisation complete; its tiles take the cells of each die's home
partition, up to 4,096 each, and with the last one the cells are ranked in ascending curve key and the next operator may
start. A rulebook tile takes a die's next output sites, up to 4,096, once the die's copies stand there and where the data
network reaches the owners of the rows it reads remotely (R13, R18, R213); with the last one the class is built and the next
operator may start. Other frames and contexts stay (R215, R216, R223). The model's readings: log entry 49. -/
def Obligations.CurveOrderAndRulebooksAdvance : Prop :=
  (∀ (ctx num : Nat) (s : State) (f : Frame), frameOf s ctx num = some f → f.voxDone = true → f.phase = .accepted →
    f.csuStarted = false → ∃ t, exec (.curveOrderStart ctx num) s = .next t ∧
      frameOf t ctx num = some { f with csuStarted := true } ∧ t = { s with frames := t.frames } ∧
      ∀ x n, (x, n) ≠ (ctx, num) → frameOf t x n = frameOf s x n) ∧
  (∀ (ctx num die : Nat) (s : State) (c : Ctx) (f : Frame), ctxOf s ctx = some c → frameOf s ctx num = some f →
    let ds := maskDies c.dieMask
    let n := min (homeCells f die) (mapGet 0 f.csuDone die + 4096)
    let done := mapPut f.csuDone die n
    f.csuStarted = true → f.ordered = false → die ∈ ds → stageReady s die 0x09 = true →
    holdsLeave s f die (512 + 0x09) = true → itemsDone f.csuDone die (homeCells f die) = false →
    ∃ t g, exec (.curveOrderTile ctx num die) s = .next t ∧ frameOf t ctx num = some g ∧ g.csuDone = done ∧
      (if ds.all (fun d => itemsDone done d (homeCells f d)) then
        g.ordered = true ∧ g.order.length = f.cells.length ∧ g.order.Pairwise (· ≤ ·) ∧
          g.cells.map (·.rank) = List.range f.cells.length ∧ g.run.op = 3
      else g.ordered = false ∧ g.cells = f.cells) ∧
      (∀ x n, (x, n) ≠ (ctx, num) → frameOf t x n = frameOf s x n) ∧ t.ctxs = s.ctxs ∧ t.chans = s.chans) ∧
  ∀ (ctx num die : Nat) (s : State) (c : Ctx) (f : Frame), ctxOf s ctx = some c → frameOf s ctx num = some f →
    let ds := maskDies c.dieMask
    let d := (runOp s f).desc
    let total := fun x => (buildOutputs c (declOf s c.pkg) f d (posIn ds x)).length
    let done := mapPut f.run.done die (min (total die) (mapGet 0 f.run.done die + 4096))
    let us := ((buildOutputs c (declOf s c.pkg) f d (posIn ds die)).drop (mapGet 0 f.run.done die)).take 4096
    let far := if isQuery d then remoteRows f die (queryForeign f d (posIn ds die) us) else []
    stageServes s f die 0x0A = true → opCode (runOp s f) = cRulebook → itemsDone f.run.done die (total die) = false →
    (∀ x ∈ (dieOf s die).xfers, x.for_ ≠ .frame ctx num) → rowsReach s c (declOf s c.pkg) f die far = true →
    ∃ t g, exec (.rulebookTile ctx num die) s = .next t ∧ frameOf t ctx num = some g ∧
      (if ds.all (fun x => itemsDone done x (total x)) then
        g.run.op = f.run.op + 1 ∧ g.books = f.books ++ [buildClass (declOf s c.pkg) f d] else g.run = { f.run with done := done } ∧ g.books = f.books) ∧
      (∀ x n, (x, n) ≠ (ctx, num) → frameOf t x n = frameOf s x n) ∧ t.ctxs = s.ctxs ∧ t.chans = s.chans

/-! ## Stalls and paddocks (08, 10, 11) -/

/-- O41. An operator starts on a die with its tiles handed to stalls that take them, once the lines of the operator before it
have moved and where the data network reaches the owners of the rows it copies. A stall runs the first of its tiles that
may start, once, when its gathers have arrived, its shadow set has drained, the weights that stream have come, and the rows
that the tile reads are at hand; its rows
and partition values join the run. A row's partitions merge in ascending order, and the last one gives the row. At the end of
an operator's attempts, every access done, the first unit that still overflows runs again if its tiles lie within the budget;
with none left, or when granting has ended or ends with that unit, the run's rows are written and the next operator may
start. Other frames stay, or keep their phase (R231, R237, R248, R270, R280, R282). The model's readings: log entries 32,
50. -/
def Obligations.StallOperatorsAdvance : Prop :=
  (∀ (ctx num die : Nat) (stalls : List Nat) (s : State) (c : Ctx) (f : Frame), ctxOf s ctx = some c →
    frameOf s ctx num = some f →
    let mine := (stalls.filter (fun g => stallDie g == die && takesTiles s g)).eraseDups
    f.phase = .accepted → f.ordered = true → die ∈ maskDies c.dieMask → die ∉ f.run.dies →
    f.run.op < (declOf s c.pkg).ops.length → (isStallOp (runOp s f) = true → mine ≠ []) →
    frameMoved s die f = true →
    rowsReach s c (declOf s c.pkg) f die (haloRows s c (declOf s c.pkg) f (runOp s f) (posIn (maskDies c.dieMask) die)) = true →
    ∃ t g l, exec (.operatorDispatch ctx num die stalls) s = .next t ∧ frameOf t ctx num = some g ∧
      g.run.op = f.run.op ∧ g.run.dies = f.run.dies ++ [die] ∧ g.run.tiles = f.run.tiles ++ l ∧
      (isStallOp (runOp s f) = false → l = []) ∧
      (∀ x ∈ l, x.die = die ∧ x.stall ∈ mine ∧ x.q = 0 ∧ x.done = false) ∧
      (∀ x n, (x, n) ≠ (ctx, num) → frameOf t x n = frameOf s x n) ∧ t.ctxs = s.ctxs) ∧
  (∀ (stall : Nat) (s : State) (c : Ctx) (f : Frame) (x : Tile), takesTiles s stall = true →
    unitServes s (stallDie stall) 0x0C 0 = true → stallFrame s stall = some f → frameOf s f.ctx f.num = some f →
    ctxOf s f.ctx = some c →
    (tilesLeft f.run stall).find? (mayStart s c (declOf s c.pkg) f (runOp s f)) = some x →
    tileEnds (stallOf s stall) = true → streamReady s c (declOf s c.pkg) (runOp s f) x = true →
    tileReady s c (declOf s c.pkg) f (runOp s f) x = true →
    let w := tileWork c (declOf s c.pkg) f (runOp s f) (stallOf s stall) x
    ∃ t g, exec (.stallTile stall) s = .next t ∧ frameOf t f.ctx f.num = some g ∧
      g.run.tiles = f.run.tiles.map (fun y => if y.id == x.id then { y with done := true } else y) ∧
      g.run.rows = w.rows.foldl putRow f.run.rows ∧ g.run.parts = f.run.parts ++ w.parts ∧ g.run.op = f.run.op ∧
      (∀ y n, (y, n) ≠ (f.ctx, f.num) → frameOf t y n = frameOf s y n) ∧ t.ctxs = s.ctxs ∧ t.chans = s.chans) ∧
  (∀ (ctx num row part : Nat) (s : State) (c : Ctx) (f : Frame) (x : PartRes), ctxOf s ctx = some c →
    frameOf s ctx num = some f → f.run.parts.find? (fun x => x.row == row && x.part == part) = some x →
    mergedUpto f.run row = part → unitServes s x.die 0x0C 0 = true →
    ∃ t g, exec (.partitionMerge ctx num row part) s = .next t ∧
      frameOf t ctx num = some g ∧ g.run.parts = f.run.parts.filter (fun y => y != x) ∧
      (if part + 1 = partCount (convOpOf c (declOf s c.pkg) (runOp s f)) then
        (∃ r ∈ g.run.rows, r.row = row) ∧ mergedUpto g.run row = 0
      else g.run.rows = f.run.rows ∧ mergedUpto g.run row = part + 1) ∧
      (∀ y n, (y, n) ≠ (ctx, num) → frameOf t y n = frameOf s y n) ∧ t.ctxs = s.ctxs ∧ t.chans = s.chans) ∧
  ∀ (ctx num : Nat) (s : State) (c : Ctx) (f : Frame), ctxOf s ctx = some c → frameOf s ctx num = some f →
    let p := declOf s c.pkg
    let o := runOp s f
    let rows := (f.run.rows.foldl (fun a r => rowInsert r a) []).map (finalRow p o)
    let ends := fun (g : Frame) => g.run.op = f.run.op + 1 ∧ g.retry = f.retry ∧
      (if onMaps o then g.maps = mapPut f.maps (outNum o) rows else g.tensors = mapPut f.tensors (outNum o) rows)
    f.phase = .accepted → f.ordered = true → isStallOp o = true → runComplete (maskDies c.dieMask) f.run = true →
    accessesDone s f = true →
    ∃ t g, exec (.retryRound ctx num) s = .next t ∧ frameOf t ctx num = some g ∧
      (pendingUnits p o f.run = [] ∨ f.retryEnded = true → ends g) ∧
      (∀ u l, pendingUnits p o f.run = u :: l → f.retryEnded = false →
        let ts := retryTiles (convOpOf c p o) u
        (ts ≠ [] → ts.length ≤ f.retry → g.run.op = f.run.op ∧ g.retry + ts.length ≤ f.retry ∧
          ∃ x ∈ g.run.tiles, x.done = false) ∧
        (f.retry < ts.length → ends g ∧ g.retryEnded = true)) ∧
      ∀ y n, (y, n) ≠ (ctx, num) → (frameOf t y n).map (·.phase) = (frameOf s y n).map (·.phase)

/-! ## Gathers, steals, the paddock engine and its ports (08) -/

/-- O42. A gather of 1 to 64 bytes that the data network carries holds a free thread of a stall that is on, or waits with all
128 outstanding, counted; one of bytes past its target's end is refused and returns zeros (R449). Its return, once its bytes
are read and where the data network carries them, gives the thread the bytes and, if one waits, the next gather. An idle lane takes a chunk of a neighbouring lane; an idle stall takes the last
unstarted tile of the stall of its cluster that has the most. Nothing else changes but the stall's note of a streamed line,
the writes that go ahead of a read of main memory, and what a refused read entails (R229, R249, R250). The model's readings: log entries 32, 51. -/
def Obligations.GathersAndStealsComplete : Prop :=
  (∀ (stall thread len : Nat) (src : GatherSrc) (s : State), Inv s → stallOn s stall = true → thread < 128 → 1 ≤ len →
    len ≤ 64 →
    let x := stallOf s stall
    let y : Gather := ⟨thread, src, len, stallFor s stall, []⟩
    (gatherExists s stall src len = false → (threadHolds s stall thread = true ∨ gatherTarget s stall src = none) →
      exec (.gather stall thread src len) s = .next s) ∧
    (∀ d k, gatherExists s stall src len = false → threadHolds s stall thread = false → gatherTarget s stall src = some (d, k) →
      exec (.gather stall thread src len) s =
        .next (modStall (fwRefuse s d k (domainOf s y.for_) (gatherAddr src) false y.for_) stall (fun x =>
          { x with thrData := mapPut x.thrData thread (List.replicate len 0) }))) ∧
    (gatherExists s stall src len = true → gatherRoute s stall src = true → gatherStreams s stall src = true →
      ∃ t, exec (.gather stall thread src len) s = .next t ∧ StallOnly s t stall ∧
      (if 128 ≤ threadsHeld s stall then
        t.cnt = (cntAdd s rDcuStallCnt (stall * 8 + 4) 1).cnt ∧
          stallOf t stall = { x with waiting := x.waiting ++ [y], streamed := (stallOf t stall).streamed }
      else if threadHolds s stall thread = true then t = s
      else t.cnt = s.cnt ∧
        stallOf t stall = { x with gathers := x.gathers ++ [y], streamed := (stallOf t stall).streamed }))) ∧
  (∀ (stall thread : Nat) (s : State) (x : Gather), Inv s → stallOn s stall = true →
    (stallOf s stall).gathers.find? (fun y => y.thread == thread) = some x → gatherArrived x = true →
    gatherBack s stall x.src = true →
    let r := gatherData s x
    let w := stallOf r.2 stall
    (∀ d a, x.src = .memory d a → fwPermits s d 9 (domainOf s x.for_) a x.len false = true →
      r = ((List.range x.len).map (fun i => memoryByte s d (a + i)), writeAhead s d)) ∧
    ((∀ d a, x.src ≠ .memory d a) → r = (x.got, s)) ∧
    ∃ t, exec (.gatherReturn stall thread) s = .next t ∧ StallOnly r.2 t stall ∧ t.cnt = r.2.cnt ∧
      mapFind (stallOf t stall).thrData thread = some r.1 ∧
      (∀ n, n ≠ thread → mapFind (stallOf t stall).thrData n = mapFind w.thrData n) ∧
      (stallOf t stall).waiting = w.waiting.drop 1 ∧
      (stallOf t stall).gathers = w.gathers.filter (fun y => y.thread != thread) ++
        (w.waiting.take 1).map (fun y => { y with thread := thread })) ∧
  (∀ (stall lane victim : Nat) (s : State) (c : Ctx) (f : Frame) (x : Tile), Inv s → isDie s (stallDie stall) = true →
    stallFrame s stall = some f → ctxOf s f.ctx = some c →
    (tilesLeft f.run stall).find? (mayStart s c (declOf s c.pkg) f (runOp s f)) = some x →
    lane < 32 → victim < 32 → (lane + 1 = victim ∨ victim + 1 = lane) →
    canSteal (laneSim (tileLanes c (declOf s c.pkg) f (runOp s f) x) (stallOf s stall).moved) lane victim = true →
    ∃ t, exec (.chunkSteal stall lane victim) s = .next t ∧ StallOnly s t stall ∧
      stallOf t stall = { stallOf s stall with moved := (stallOf s stall).moved ++ [(victim, lane)] } ∧
      t.cnt = (cntAdd s rDcuStallCnt (stall * 8 + 3) 1).cnt) ∧
  ∀ (stall : Nat) (s : State) (f : Frame), takesTiles s stall = true →
    s.frames.find? (fun f => f.phase == .accepted && isStallOp (runOp s f) && f.run.stalls.contains stall &&
      (tilesLeft f.run stall).isEmpty && (stealVictim f.run stall).isSome) = some f → frameOf s f.ctx f.num = some f →
    ∃ t v x, exec (.tileSteal stall) s = .next t ∧ v ∈ f.run.stalls ∧ v ≠ stall ∧ v / 8 = stall / 8 ∧
      (∀ h ∈ f.run.stalls, h ≠ stall → h / 8 = stall / 8 → (tilesLeft f.run h).length ≤ (tilesLeft f.run v).length) ∧
      (tilesLeft f.run v).getLast? = some x ∧
      frameOf t f.ctx f.num = some { f with run := { f.run with tiles := f.run.tiles.map (fun y => if y.id == x.id then { y with stall := stall } else y) } } ∧
      (∀ y n, (y, n) ≠ (f.ctx, f.num) → frameOf t y n = frameOf s y n) ∧
      t = { s with frames := t.frames, cnt := (cntAdd s rDcuStallCnt (stall * 8 + 2) 1).cnt }

/-- O43. A fill or copy within a paddock is taken by the engine, into its issuer's entry or behind the issuer's own previous
one; past the paddock it is refused as a whole (R449), and with addresses not of lines, or a number of lines out of range, nothing is performed and
the issuing stall's tile is flagged. Once its lines are all moved it completes, counted, its issuer's first waiting one takes
the entry, and the stall's first waiting gather the thread, where that is free. An arbiter whose owner keeps to its limit and drops its grant grants the first to arrive at every eighth
grant and otherwise the highest rank, which becomes the lowest. The owner of a bank port's grant accesses bytes of one line,
with the effect of its kind, up to its burst limit; a write that spans two lines is made as two accesses; past the limit the
grant ends; an access past the end of the paddock is refused (R235, R237 to R244). The model's readings: log entries 32, 51. -/
def Obligations.PaddocksComplete : Prop :=
  (∀ (die cluster issuer thread addr n : Nat) (for_ : ReadFor) (pattern : List Byte) (s : State), Inv s →
    engineOn s die cluster = true → issuer ≤ 8 → issuerOn s die cluster issuer thread = true → pattern.length = 8 →
    EngineTakes s (.fillLines die cluster ⟨issuer, thread, for_⟩ addr n pattern) die cluster
      ⟨issuer, thread, for_, none, addr, n, pattern, 0, none⟩ [addr]) ∧
  (∀ (die cluster issuer thread src dst n : Nat) (for_ : ReadFor) (s : State), Inv s → engineOn s die cluster = true →
    issuer ≤ 8 → issuerOn s die cluster issuer thread = true →
    EngineTakes s (.copyLines die cluster ⟨issuer, thread, for_⟩ src dst n) die cluster
      ⟨issuer, thread, for_, some src, dst, n, [], 0, none⟩ [dst, src]) ∧
  (∀ (die cluster issuer : Nat) (s : State) (op : EngineOp), Inv s → isDie s die = true → cluster < 5 →
    (engineOf s die cluster).ops.find? (fun x => x.issuer == issuer) = some op →
    let e := engineOf s die cluster
    let mine := e.waiting.find? (fun x => x.issuer == issuer)
    let h := stallIdx die (cluster * 8 + issuer)
    let frees := issuer < 8 ∧ threadHolds (modEngine s die cluster (fun e => engineFree e issuer)) h op.thread = false
    (op.moved < op.n → exec (.paddockEngineDone die cluster issuer) s = .next s) ∧
    (op.n ≤ op.moved → ∃ t, exec (.paddockEngineDone die cluster issuer) s = .next t ∧ DieOnly s t die ∧
      dieOf t die = { dieOf s die with engines := (dieOf t die).engines, stalls := (dieOf t die).stalls } ∧
      (frees → stallOf t h = { stallOf s h with
        gathers := (stallOf s h).gathers ++ ((stallOf s h).waiting.take 1).map (fun y => { y with thread := op.thread }),
        waiting := (stallOf s h).waiting.drop 1 }) ∧
      (¬ frees → (dieOf t die).stalls = (dieOf s die).stalls) ∧ (∀ g, g ≠ h → stallOf t g = stallOf s g) ∧
      t.cnt = (cntAdd s rPdkClusterCnt ((die * 5 + cluster) * 8 + (if op.src.isSome then 3 else 2)) op.n).cnt ∧
      (engineOf t die cluster).ops = e.ops.filter (fun x => x.issuer != issuer) ++ mine.toList ∧
      (∀ x, mine = some x → (engineOf t die cluster).waiting = e.waiting.erase x) ∧
      (mine = none → (engineOf t die cluster).waiting = e.waiting) ∧
      ∀ k, k ≠ cluster → engineOf t die k = engineOf s die k)) ∧
  (∀ (arb : ArbId) (served : Nat) (drops : List Nat) (arrivals : List (List Nat)) (s : State), partOn s = true →
    arbExists s arb = true →
    (∀ r, (arbOf s arb).owner = some r → (arbOf s arb).used + servedHere arb served ≤ burstLimit arb r) →
    let o := arbOf s arb
    let y := { o with used := if o.owner.isSome then o.used + servedHere arb served else o.used }
    let x := (arrivals.map (fun l => l.filter (portOpen s arb))).foldl arbArrive (arbDrop y drops)
    ∃ t, exec (.arbiterDecide arb ⟨served, drops, arrivals⟩) s = .next t ∧ t = { s with arbs := t.arbs, cnt := t.cnt } ∧
      (∀ b, arbKey b ≠ arbKey arb → arbOf t b = arbOf s b) ∧
      (x.owner.isSome = true ∨ arbWinner x = none → arbOf t arb = x ∧ t.cnt = s.cnt) ∧
      ∀ w, x.owner = none → arbWinner x = some w → (∃ y ∈ x.waiting, y.req = w) ∧
        (arbOf t arb).owner = some w ∧ (arbOf t arb).used = 0 ∧ (arbOf t arb).n = x.n + 1 ∧
        (arbOf t arb).order.getLast? = some w ∧ (∀ y ∈ (arbOf t arb).waiting, y.req ≠ w) ∧
        ((x.n + 1) % 8 = 0 → x.waiting.head?.map (·.req) = some w) ∧
        ((x.n + 1) % 8 ≠ 0 → ∀ r ∈ x.order.takeWhile (fun r => r != w), ∀ y ∈ x.waiting, y.req ≠ r)) ∧
  ∀ (die cluster req : Nat) (acc : PaddockAcc) (for_ : ReadFor) (drop : Bool) (s : State), Inv s → partOn s = true →
    (isDie s die = false ∨ 5 ≤ cluster → exec (.paddockAccess die cluster ⟨req, for_⟩ acc drop) s = .next s) ∧
    let arb := ArbId.bank die cluster (accAddr acc / 2 ^ 17)
    let r := accFor s die cluster req for_
    (isDie s die = true → cluster < 5 → 1 ≤ accLen acc → accLen acc ≤ 64 →
      pensLive s = true → unitServes s die 0x0B cluster = true → portOpen s (.bank die cluster 0) req = true →
      accThrough s die cluster req acc = true → 2 ^ 23 < accAddr acc + accLen acc →
      exec (.paddockAccess die cluster ⟨req, for_⟩ acc drop) s = .next (match acc with
        | .read a _ => fwRefuse s die cluster (domainOf s r) a false r
        | .write a _ => fwRefuse s die cluster (domainOf s r) a true r
        | _ => s)) ∧
    (isDie s die = true → cluster < 5 → accAddr acc + accLen acc ≤ 2 ^ 23 → 1 ≤ accLen acc → accLen acc ≤ 64 →
      pensLive s = true → unitServes s die 0x0B cluster = true → portOpen s (.bank die cluster 0) req = true →
      accThrough s die cluster req acc = true →
      (accAddr acc % 64 + accLen acc ≤ 64 → (arbOf s arb).owner = some req →
        ∃ t, exec (.paddockAccess die cluster ⟨req, for_⟩ acc drop) s = .next t ∧
          (burstLimit arb req ≤ (arbOf s arb).used → (arbOf t arb).owner = none) ∧
          ((arbOf s arb).used < burstLimit arb req →
            (arbOf t arb).owner = (if drop = true then none else some req) ∧
            (arbOf t arb).used = (arbOf s arb).used + 1 ∧
            (arbOf t arb).waiting = (arbOf s arb).waiting.map (fun w => { w with slots := w.slots + 1 }) ∧
            (∀ k, k ≠ cluster → (dieOf t die).pads.getD k [] = (dieOf s die).pads.getD k []) ∧
            (∀ d, d ≠ die → (dieOf t d).pads = (dieOf s d).pads) ∧ t.ctxs = s.ctxs ∧
            LineAccess s t die cluster req acc r)) ∧
      (∀ a data, acc = .write a data → 64 < a % 64 + data.length →
        let k := 64 - a % 64
        let b := fun x => ArbId.bank die cluster (x / 2 ^ 17)
        (∀ x, x = a ∨ x = a + k → (arbOf s (b x)).owner = some req ∧ (arbOf s (b x)).used + 2 ≤ burstLimit (b x) req) →
        fwPermits s die cluster (domainOf s r) a k true = true →
        fwPermits s die cluster (domainOf s r) (a + k) (data.length - k) true = true →
        ∃ t, exec (.paddockAccess die cluster ⟨req, for_⟩ acc drop) s = .next t ∧ PadWritten s t die cluster a data ∧
          (a / 2 ^ 17 = (a + k) / 2 ^ 17 → (arbOf t (b a)).used = (arbOf s (b a)).used + 2)))

/-! ## Map lookups, scatter, selection, best-effort starts (06, 12, 13) -/

/-- O44. A stage unit that serves a frame on a die takes the die's next window of a map lookup or update, its next 4,096
sites of a scatter, or its next 4,096 elements of a selection. With the last one of the last die a lookup has written
every site's row, a scatter its map, and the next operator may start; a selection is merged by its own command into
one list per row of the map, of entries that the partition lists name and at most its capacity, a suppression into one list,
and zone occupancy gives the frame its ML result. A best-effort frame starts on a free die as the first of those that wait in
close order, once the memory port of the die has moved out the state of the one before; its context's state moves into the
die's paddocks, and it runs once each of its dies has started it. Other
frames stay (R132, R345, R354, R360, R361, R373). The model's readings: log entries 44, 52, 53, 73. -/
def Obligations.StageUnitsAdvance : Prop :=
  (∀ (ctx num die : Nat) (s : State) (c : Ctx) (f : Frame), ctxOf s ctx = some c → frameOf s ctx num = some f →
    let ds := maskDies c.dieMask
    let p := declOf s c.pkg
    let o := runOp s f
    let total := fun x => (opWindows s p f o (posIn ds x)).length
    let done := mapPut f.run.done die (min (total die) (mapGet 0 f.run.done die + 1))
    stageServes s f die 0x0D = true → itemsDone f.run.done die (total die) = false →
    ∃ t g, exec (.mapLookupWindow ctx num die) s = .next t ∧ frameOf t ctx num = some g ∧
      (if ds.all (fun x => itemsDone done x (total x)) then
        g.run.op = f.run.op + 1 ∧ (opCode o = cMapLookup → g.tensors = mapPut f.tensors (u16 o.desc 6)
          ((enumFrom 0 (sitesOf f (byteAt o.desc 4))).map (fun x => (x.1, lookupRow s p f o x.1 x.2))))
      else g = { f with run := { f.run with done := done } } ∧ t.chans = s.chans) ∧
      (∀ x n, (x, n) ≠ (ctx, num) → frameOf t x n = frameOf s x n) ∧ t.ctxs = s.ctxs) ∧
  (∀ (ctx num die : Nat) (s : State) (c : Ctx) (f : Frame), ctxOf s ctx = some c → frameOf s ctx num = some f →
    let ds := maskDies c.dieMask
    let d := (runOp s f).desc
    let total := fun x => (ownedRanks f (byteAt d 3) (posIn ds x)).length
    let done := mapPut f.run.done die (min (total die) (mapGet 0 f.run.done die + 4096))
    stageServes s f die 0x0E = true → itemsDone f.run.done die (total die) = false →
    ∃ t g, exec (.bevScatterTile ctx num die) s = .next t ∧ frameOf t ctx num = some g ∧
      (if ds.all (fun x => itemsDone done x (total x)) then
        g.run.op = f.run.op + 1 ∧ g.maps = mapPut f.maps (u16 d 6) (scatterMap (declOf s c.pkg) f d)
      else g = { f with run := { f.run with done := done } }) ∧
      (∀ x n, (x, n) ≠ (ctx, num) → frameOf t x n = frameOf s x n) ∧ t.ctxs = s.ctxs ∧ t.chans = s.chans) ∧
  (∀ (ctx num die : Nat) (s : State) (c : Ctx) (f : Frame), ctxOf s ctx = some c → frameOf s ctx num = some f →
    let p := declOf s c.pkg
    let o := runOp s f
    let px := heldPixels (weightSums c f) p (selMap o.desc) (posIn (maskDies c.dieMask) die)
    let tile := (px.drop (mapGet 0 f.run.done die)).take 4096
    stageServes s f die 0x0F = true → opCode o = cCompact ∨ opCode o = cTopK →
    itemsDone f.run.done die px.length = false →
    ∃ t g, exec (.selectionTile ctx num die) s = .next t ∧ frameOf t ctx num = some g ∧
      g.run.op = f.run.op ∧ mapFind g.run.done die = some (mapGet 0 f.run.done die + tile.length) ∧
      (∀ d, d ≠ die → mapFind g.run.done d = mapFind f.run.done d) ∧
      g.run.selParts = f.run.selParts ++ [(die, partitionList p f o tile)] ∧
      (∀ x n, (x, n) ≠ (ctx, num) → frameOf t x n = frameOf s x n) ∧
      t = { s with frames := t.frames, cnt := t.cnt, sub := t.sub }) ∧
  (∀ (ctx num : Nat) (s : State) (c : Ctx) (f : Frame), ctxOf s ctx = some c → frameOf s ctx num = some f →
    let ds := maskDies c.dieMask
    let p := declOf s c.pkg
    let o := runOp s f
    isSelOp o = true → stageServes s f (ds.headD 0) 0x0F = true → selScanned c p f o ds = true →
    ∃ t g, exec (.selectionMerge ctx num) s = .next t ∧ frameOf t ctx num = some g ∧ g.run.op = f.run.op + 1 ∧
      (opCode o = cZone → g.ml = some (zoneResult c.zones ((listOf f (byteAt o.desc 2)).headD emptyList)) ∧ g.lists = f.lists) ∧
      (opCode o = cSuppress → g.ml = f.ml ∧
        g.lists = mapPut f.lists (byteAt o.desc 3) [suppressList o.desc ((listOf f (byteAt o.desc 2)).headD emptyList)]) ∧
      (opCode o = cCompact ∨ opCode o = cTopK → g.ml = f.ml ∧ (listOf g (byteAt o.desc 26)).length = selRows p o.desc ∧
        ∀ l ∈ listOf g (byteAt o.desc 26), l.entries.length ≤ selCap o.desc ∧
          ∀ e ∈ l.entries, ∃ q ∈ f.run.selParts, e.index ∈ q.2) ∧
      (∀ x n, (x, n) ≠ (ctx, num) → frameOf t x n = frameOf s x n) ∧ t.ctxs = s.ctxs) ∧
  ∀ (die : Nat) (s : State) (f : Frame) (l : List Frame), Inv s → isDie s die = true → (dieOf s die).beRun = none →
    (∀ x ∈ (dieOf s die).xfers, x.req ≠ 12) →
    waitsFor s die = f :: l → ∃ t, exec (.bestEffortFrameStart die) s = .next t ∧
      (f ∈ s.frames ∧ f.phase = .waiting ∧ ∀ g ∈ s.frames, g.phase = .waiting → frameOn s die g = true → closedBefore g f = false) ∧
      dieOf t die = { dieOf (stateIn s die f.ctx (.frame f.ctx f.num)) die with beRun := some (f.ctx, f.num) } ∧
      (∀ d, d ≠ die → dieOf t d = dieOf s d) ∧
      t = { s with dies := t.dies, frames := t.frames } ∧
      (if (frameDies s f).all (fun d => d == die || runsOn s f d) then
        (∃ g, frameOf t f.ctx f.num = some g ∧ g.phase = .accepted) ∧
          ∀ x n, (x, n) ≠ (f.ctx, f.num) → frameOf t x n = frameOf s x n
      else t.frames = s.frames)

/-! ## The checker, the verdict unit and the stop outputs (14) -/

/-- O45. With every point of a frame taken, the checker verdict of a closed frame is ready and its half of the checker
store free; a verdict that fails is reported not ready; a sealed frame that only the checker held is gone. Neither comes in
after the cut-off of an accepted guaranteed frame, unless the frame is poisoned. The ML results of an accepted frame are in
once zone occupancy has handed them over, no later than its cut-off. Other frames stay (R402, R404, R443, R445, R446). The
model's readings: log entry 35. -/
def Obligations.VerdictsOfBothPathsComeIn : Prop :=
  (∀ (ctx num : Nat) (s : State) (c : Ctx) (f : Frame), ctxOf s ctx = some c →
    s.frames.find? (fun f => f.ctx == ctx && f.num == num && f.phase != .opened && !f.chkReady) = some f →
    hubServes s 0x10 = true → chkFails s c f = true ∨ chkTaken s c f = true →
    (pastCutoff s c f = true → f.poisoned = false → exec (.checkerVerdictReady ctx num) s = .next s) ∧
    let r := if chkFails s c f then none else some (chkResult s c f)
    (pastCutoff s c f = false ∨ f.poisoned = true →
      ∃ t, exec (.checkerVerdictReady ctx num) s = .next t ∧ t = { s with frames := t.frames, cnt := t.cnt } ∧
      (chkFails s c f = true → t.cnt = s.cnt) ∧ (chkFails s c f = false → t.cnt = (chkCount s f (chkResult s c f)).cnt) ∧
      (∀ x n, (x, n) ≠ (ctx, num) → frameOf t x n = frameOf s x n) ∧
      (f.phase = .sealed → ∀ g ∈ t.frames, (g.ctx, g.num) ≠ (ctx, num)) ∧
      (f.phase ≠ .sealed → ∀ g, frameOf s ctx num = some g →
        frameOf t ctx num = some { g with chk := r, chkReady := true, ckHalf := false }))) ∧
  ∀ (ctx num : Nat) (s : State) (c : Ctx) (f : Frame), ctxOf s ctx = some c → frameOf s ctx num = some f →
    f.phase = .accepted → f.ml.isSome = true → pastCutoff s c f = false →
    ∃ t, exec (.mlResultsIn ctx num) s = .next t ∧ t = { s with frames := t.frames } ∧
      frameOf t ctx num = some { f with mlIn := true } ∧
      ∀ x n, (x, n) ≠ (ctx, num) → frameOf t x n = frameOf s x n

/-- O46. An accepted guaranteed frame is sealed once its ML results and its checker verdict are in, no later than its
cut-off, and at its cut-off otherwise, a poisoned one once the checker's work on it has ended; a refused frame is sealed on
its checker verdict, a best-effort frame on both. At the seal the frame is gone, each zone takes the row of R410 that holds
for it, with the persistence of R411, and the context's verdict sequence advances (R405 to R407, R409 to R411, R446). The
model's readings: log entries 35, 36, 75. -/
def Obligations.FramesSeal : Prop :=
  (∀ (ctx num : Nat) (s : State) (c : Ctx) (f : Frame), Inv s → ctxOf s ctx = some c → frameOf s ctx num = some f →
    hubServes s 0x11 = true →
    (f.phase = .refused ∧ f.chkReady = true ∨
      f.phase = .accepted ∧ c.guaranteed = true ∧ f.mlIn = true ∧ f.chk.isSome = true ∧ s.zck.dead = false ∧ s.raw ≤ f.cutoff ∨
      f.phase = .accepted ∧ c.guaranteed = false ∧ f.mlIn = true ∧ f.chkReady = true) →
    ∃ t, exec (.frameSeal ctx num) s = .next t ∧ FrameSealed s t c f) ∧
  ∀ (ctx num : Nat) (s : State) (c : Ctx) (f : Frame), Inv s → ctxOf s ctx = some c → frameOf s ctx num = some f →
    hubServes s 0x11 = true → c.guaranteed = true → f.phase = .accepted → f.cutoff ≤ s.raw →
    (f.poisoned = false ∨ f.chkReady = true ∨ s.zck.dead = true) →
    ∃ t, exec (.cutoffExpiry ctx num) s = .next t ∧ FrameSealed s t c f

/-- O47. At each multiple of 500 us a live stop output toggles if the part serves, some context is a member, no stop is
forced and every member's latest verdict is clear and in time, output B also only where the checker's own verdicts are
clear; otherwise it holds its level. Two readbacks in a row that differ from the level driven make both outputs static
and raise STOP_OUTPUT_FAULT; an equal one clears the count. A heartbeat is noted, and 1 ms without one makes the
hearer's output static and is raised. Nothing else changes (R418 to R421). The model's readings: log entry 40. -/
def Obligations.StopOutputsAreDriven : Prop :=
  ∀ s : State, Inv s →
    (s.zck.boundary + 500000 ≤ s.raw → ∃ t, exec .stopBoundary s = .next t ∧
      let go := partServes s ∧ (stopMembers s ≠ []) ∧ forcedStop s = false ∧ ∀ c ∈ stopMembers s, memberClear s c = true
      t = { s with zck := { s.zck with boundary := s.raw / 500000 * 500000, outA := t.zck.outA, outB := t.zck.outB } } ∧
      AtBoundary s.raw go s.zck.outA t.zck.outA ∧
      AtBoundary s.raw (go ∧ ∀ c ∈ stopMembers s, c.chkClear = true) s.zck.outB t.zck.outB) ∧
    (∀ (o : StopOut) (level lv : Bool) (at_ : Nat), (outOf s o).edge = some (lv, at_) → at_ + 50000 ≤ s.raw →
      ∃ t, exec (.stopReadback o level) s = .next t ∧ (outOf t o).edge = none ∧
        (outOf t o).fails = (if level = lv then 0 else (outOf s o).fails + 1) ∧
        t.zck = { s.zck with outA := t.zck.outA, outB := t.zck.outB } ∧
        (let fault := 2 ≤ (outOf t o).fails ∧ ¬ (s.zck.outA.dead = true ∧ s.zck.outB.dead = true)
         (fault → t.zck.outA.dead = true ∧ t.zck.outB.dead = true ∧ Raised { s with zck := t.zck } t 0x1183 0) ∧
         (¬ fault → t = setOut s o { outOf s o with edge := none, fails := (outOf t o).fails }))) ∧
    ∀ b : Bool, partOn s = true →
      ((outOf s (hearer b)).hb + 100000 ≤ s.raw →
        exec (.heartbeat b) s = .next (setOut s (hearer b) { outOf s (hearer b) with hb := s.raw, heard := true })) ∧
      ((outOf s (hearer (!b))).hb + 1000000 ≤ s.raw → (outOf s (hearer (!b))).dead = false →
        ∃ t, exec (.heartbeatTimeout b) s = .next t ∧
          Raised (setOut s (hearer (!b)) { outOf s (hearer (!b)) with dead := true }) t (if b then 0x1081 else 0x1182) 0)

/-! ## Map tables (13) -/

/-- O48. A part of a replacement that fails a check changes nothing; one that passes adds its rows, of which hot ones may be
placed warm in a large table, and completes with the rows placed, or waits for the switch if it is the last; an abort leaves
the old table in force and ends the wait of a last part. The switch puts the placed rows in force under the next epoch. A
flip copies the rows, with the classes of a re-class that is due; at its cut-off the updates of the frames sealed before are
taken in seal order, rows keep their class, and missing rows and rows that no update names stay as they are; the switch makes
the copy current and keeps the old rows while a frame is bound to them (R379 to R381, R388 to R392). The model's readings:
log entries 53, 76, 77. -/
def Obligations.TablesAreReplacedAndFlipped : Prop :=
  (∀ (slot : Nat) (s : State) (c : Cmd), MayStart s slot 0x0033 c →
    let u := markStarted s slot
    let n := u16 c.bytes 16
    let count := u32 c.bytes 24
    let first := bitOf (byteAt c.bytes 18) 0
    let last := bitOf (byteAt c.bytes 18) 1
    let b := staged u (slot / 8192) (u16 c.bytes 20) count
    let body := if first then b.drop 16 else b
    let w := if first then thW b else (((tableOr u n).load).map (·.width)).getD 0
    let old := if first then [] else (((tableOr u n).load).map (·.rows)).getD []
    pagesOk u (slot / 8192) (u16 c.bytes 20) (pageCount count) = true → n ≤ 255 → byteAt c.bytes 18 < 8 →
    byteAt c.bytes 19 = 0 → u16 c.bytes 22 = 0 →
    (∀ l, bitOf (byteAt c.bytes 18) 2 = true → (tableOr u n).load = some l → l.slot ≠ some slot →
      ∃ t, exec (.maptableReplace slot) s = .next t ∧ (∀ k, l.slot = some k → cmdOf t k = none) ∧ CompletedOver (abortLoad u n) t c 0 [] ∧ (tableOr t n).load = none ∧
        (tableOr t n).rows = (tableOr s n).rows ∧ (tableOr t n).epoch = (tableOr s n).epoch) ∧
    (bitOf (byteAt c.bytes 18) 2 = false → partStatus u n first last (u32 c.bytes 28) b ≠ 0 →
      ∃ t, exec (.maptableReplace slot) s = .next t ∧
        CompletedOver u t c (partStatus u n first last (u32 c.bytes 28) b) []) ∧
    (bitOf (byteAt c.bytes 18) 2 = false → partStatus u n first last (u32 c.bytes 28) b = 0 →
      ∃ t l, exec (.maptableReplace slot) s = .next t ∧ (tableOr t n).load = some l ∧ l.width = w ∧
        l.rows = old ++ (records w body.length body).map (recordRow w) ∧ l.placed.length = l.rows.length ∧
        (l.small = true → l.placed = l.rows) ∧
        (∀ (i : Nat) r r', l.rows[i]? = some r → l.placed[i]? = some r' → r.cls ≠ 0 → r' = r) ∧
        (tableOr t n).rows = (tableOr s n).rows ∧ (tableOr t n).epoch = (tableOr s n).epoch ∧
        (if last then l.slot = some slot ∧ (cmdOf t slot).isSome = true
        else l.slot = none ∧ Completed t c 0 ∧ LastBody t c (leBytes 4 l.rows.length)))) ∧
  (∀ (table k : Nat) (s : State) (x : MapTable) (l : MapLoad) (c : Cmd), Inv s → tableOf s table = some x →
    x.load = some l → l.slot = some k → k < 16384 → cmdOf s k = some c → boundTo s table x.epoch = false → x.oldRows = none →
    ∃ t y, exec (.tableSwitch table) s = .next t ∧ tableOf t table = some y ∧ y.st = 2 ∧ y.width = l.width ∧
      y.shards = l.shards ∧ y.dies = l.dies ∧ y.epoch = x.epoch + 1 ∧ y.load = none ∧ y.flip = none ∧
      y.rows = l.placed ∧ y.small = l.small ∧ y.upd = [] ∧
      Completed t c 0 ∧ LastBody t c (leBytes 4 l.rows.length ++ leBytes 2 (x.epoch + 1)) ∧ t.frames = s.frames) ∧
  (∀ (table : Nat) (s : State) (x : MapTable), Inv s → tableOf s table = some x → x.st = 2 → x.flip = none →
    reclassDue s x = true ∨ x.upd ≠ [] →
    let due := reclassDue s x
    let v := modTable s table (fun y => { y with flip := some ⟨if due then reclassed s x else x.rows, none⟩, hits := if due then [] else y.hits, since := if due then 0 else y.since })
    ∃ t, exec (.flipStart table) s = .next t ∧ (copiesFit v x = true → t = v) ∧ (copiesFit v x = false → FlipHeld s t x)) ∧
  (∀ (table : Nat) (s : State) (x : MapTable) (rows : List MapRow), Inv s → tableOf s table = some x →
    x.flip = some ⟨rows, none⟩ →
    ∃ t v y new, exec (.flipCutoff table) s = .next t ∧ tableOf v table = some y ∧
      y = { x with upd := y.upd, flip := some ⟨new, some (x.upd.filter (fun u => decide (u.order < s.raw))).length⟩ } ∧
      y.upd.Perm x.upd ∧
      y.upd.Pairwise (fun a b => a.order ≤ b.order) ∧ new.map (·.cls) = rows.map (·.cls) ∧
      (∀ (i : Nat) r, rows[i]? = some r → r.cls = 3 ∨ (∀ u ∈ x.upd, ∀ g ∈ u.grads, g.row ≠ i) → new[i]? = some r) ∧
      (∀ n, n ≠ table → tableOf v n = tableOf s n) ∧ v = { s with tables := v.tables, cfg := v.cfg, cnt := v.cnt } ∧
      (copiesFit v x = true → t = v) ∧ (copiesFit v x = false → FlipHeld s t x)) ∧
  ∀ (table n : Nat) (s : State) (x : MapTable) (rows : List MapRow), tableOf s table = some x →
    x.flip = some ⟨rows, some n⟩ → x.oldRows = none →
    ∃ t, exec (.flipSwitch table) s = .next t ∧
      tableOf t table = some { x with epoch := x.epoch + 1, rows := rows, oldRows := if boundTo s table x.epoch then some (x.epoch, x.rows) else none, upd := x.upd.drop n, flip := none, flipHeldRaised := false } ∧
      t = { s with tables := t.tables } ∧
      ∀ m, m ≠ table → (tableOf t m).map (fun y => (y.rows, y.epoch)) = (tableOf s m).map (fun y => (y.rows, y.epoch))

/-! ## Links, the halyard, pace windows, audits (01) -/

/-- O49. A sender puts on a link its copy of the flit that a replay request named, or, by the credit it has, the next flit,
which it holds. One that arrives with its CRC right and the expected sequence is accepted: the next sequence is expected and
the replays end; a write, a read request or a read response arrives at its port, or waits at the hub's link to its die, and a
read request's response waits for its way back; a credit return drops the sender's copies that the other end has accepted,
and a replay request has the rest sent again. Any other arrival is discarded: a replay is asked for and counted, and when the
same flit has been sent again eight times in vain the link is down and a die without its hub link isolated. A halyard message
passes over the hops of an open way and is delivered to its node, or stops at the first hop that fails; eight failures in a
row break the hop. A pace window is kept with the last ten, and one below the floor counts and, from the tenth in a row,
raises PACE_BELOW_FLOOR. An audit sets the management view of each stall, pen and die-level unit by what is observed and
raises MGMT_DATA_SKEW at a unit's first mismatch and MGMT_DATA_FAULT at its third, with the fence of the pen, its power cut
for its warden, or of the die; an unacknowledged unit is skipped (R13, R15 to R18, R25, R26, R32 to R34, R38 to R41). The
model's readings: log entries 28, 29, 60, 61. -/
def Obligations.FabricCompletes : Prop :=
  (∀ (die link : Nat) (flit : List Byte) (s : State), Inv s → flitTaken s die link = true → flit.length = 72 →
    let k := linkOf s die link
    let p := linkPeer s die link
    let e := (flitDst flit).1
    let good := crc16 (flit.take 70) = u16 flit 70 ∧ byteAt flit 0 = k.expect
    let q := linkOf s p.1 p.2
    (q.again = 0 → 128 ≤ q.held.length → exec (.flitReceived die link flit) s = .next s) ∧
    ∀ sent again k2, linkSends q flit = some (sent, again, k2) →
      let v := modLink s p.1 p.2 (fun _ => k2)
      let n := k.replays + (if again = true ∧ byteAt sent 0 = k.expect then 1 else 0)
      (q.again ≠ 0 → again = true ∧ sent = q.held.getD (q.held.length - q.again) [] ∧ k2 = { q with again := q.again - 1 }) ∧
      (q.again = 0 → again = false ∧ byteAt sent 0 = q.next % 256 ∧ k2.held = q.held ++ [sent] ∧ k2.next = (q.next + 1) % 256) ∧
      (good → flit ≠ sent → exec (.flitReceived die link flit) s = .next s) ∧
      (¬ good → n < 8 → exec (.flitReceived die link flit) s =
        .next (cntAdd (modLink v die link (fun k => { k with replays := n, queue := flitBody 0 4 (p.1, 0) (die, 0) [] :: k.queue })) rLnkReplayCnt (die * 8 + link) 1)) ∧
      ∃ t, exec (.flitReceived die link flit) s = .next t ∧
        (good → flit = sent → t = { s with dies := t.dies, free := t.free } ∧ (linkOf t die link).expect = (k.expect + 1) % 256 ∧
          (linkOf t die link).replays = 0 ∧ (linkOf t die link).last = flit ∧
          (flitType flit < 3 → e = die → mapFind (dieOf t die).ports (flitDst flit).2 = some flit) ∧
          (flitType flit = 1 → e = die → ∀ h, (dataRoute s die (flitSrc flit).1).head? = some h →
            linkExists s h.1 h.2 = true → ∃ data : List Byte, data.length = 64 ∧
              flitBody (flitDomain flit) 2 (flitSrc flit) (flitDst flit) data ∈ (linkOf t h.1 h.2).queue) ∧
          (flitType flit < 3 → die = 0 → e ≠ 0 → isDie s e = true → cutOff s e = false →
            flit.take 70 ∈ (linkOf t 0 (e - 1)).queue) ∧
          (flitType flit = 3 → (linkOf t die link).held = keepLast (notAccepted v die link) k.held) ∧
          (flitType flit = 4 → (linkOf t die link).again = notAccepted v die link)) ∧
        (¬ good → 8 ≤ n → linkDown t die link = true ∧ (linkOf t die link).expect = k.expect ∧
          (die = 0 → FenceCause.isolated ∈ (dieOf t (link + 1)).fences) ∧ (die ≠ 0 → link = 0 → FenceCause.isolated ∈ (dieOf t die).fences))) ∧
  (∀ (src dst : HalNode) (msg : List Byte) (fails : List Nat) (s : State), partOn s = true → nodeExists s src = true →
    nodeExists s dst = true → treeOpen s src = true → treeOpen s dst = true → src ≠ dst → msg.length = 16 →
    (route s (nodeDie src) (nodeDie dst) = none → exec (.halyardMessage src dst msg fails) s = .next s) ∧
    ∀ way, route s (nodeDie src) (nodeDie dst) = some way → ∃ t, exec (.halyardMessage src dst msg fails) s = .next t ∧
      (way.find? (fun h => fails.contains h) = none → mapFind t.halyard (nodeKey dst) = some msg ∧
        (∀ n, n ≠ nodeKey dst → mapFind t.halyard n = mapFind s.halyard n) ∧ (∀ h ∈ way, (hopOf t h).fails = 0) ∧
        (∀ h, h ∉ way → hopOf t h = hopOf s h) ∧ t = { s with halyard := t.halyard, hops := t.hops }) ∧
      ∀ h, way.find? (fun h => fails.contains h) = some h → t.halyard = s.halyard ∧ (h < s.hops.length →
        (hopOf t h).fails = (hopOf s h).fails + 1 ∧ (hopOf t h).broken = ((hopOf s h).broken || decide (7 ≤ (hopOf s h).fails)))) ∧
  (∀ (die : Nat) (counts : List Nat) (s : State), Inv s → dieOn s die = true → 2 ≤ s.pwr.st → die = 0 ∨ pensLive s = true →
    let v := addWindow s die counts
    let run := (dieOf s die).lowRun + 1
    let low := modDie v die (fun x => { x with lowRun := run, belowCnt := min 0xFFFF (x.belowCnt + 1) })
    ∃ t w, exec (.paceWindow die counts) s = .next t ∧ (dieOf t die).paceWins = ((dieOf s die).paceWins ++ [w]).drop ((dieOf s die).paceWins.length - 9) ∧
      (∀ c ∈ w.counts, monCounts s die c.1 = true ∧ counts[c.1]? = some c.2) ∧
      (agedFloor v die ≤ paceMeas v die → t = modDie v die (fun x => { x with lowRun := 0 })) ∧
      (paceMeas v die < agedFloor v die → (10 ≤ run ∧ (run - 10) % 1000 = 0 → Raised low t 0x0101 (die * 8192)) ∧
        (¬ (10 ≤ run ∧ (run - 10) % 1000 = 0) → t = low))) ∧
  ∀ (die : Nat) (obs : List UnitObs) (s : State), Inv s → dieOn s die = true →
    ((dieOf s die).audits + 1) * 1000000 ≤ s.raw + 10000 →
    let v := obs.foldl (observe die) s
    let x := dieOf v die
    let differs := fun u : UnitSt => u.unack = false ∧ viewsAgree u = false
    ∃ t, exec (.audit die obs) s = .next t ∧ (dieOf t die).audits = (dieOf s die).audits + 1 ∧
      let y := dieOf t die
      let tells := fun (code loc : Nat) =>
        t.log.next ≤ s.log.next + 8192 → ∃ r ∈ t.log.recs, r.code = code ∧ r.whr = die * 8192 + loc
      (∀ key, Audited (mapGet readyUnit x.units key) (mapGet readyUnit y.units key)) ∧
      (∀ key, (mapGet readyUnit x.units key) = { mapGet readyUnit (dieOf s die).units key with data := (mapGet readyUnit x.units key).data }) ∧
      (∀ key u, mapFind x.units key = some u → differs u → (u.mism = 0 → tells 0x0120 (4096 + key)) ∧
        (u.mism = 2 → tells 0x0121 (4096 + key) ∧ (isDie s die = true → FenceCause.unitFault ∈ y.fences))) ∧
      (∀ (i : Nat) (a b : StallSt) (p : UnitSt), die ≠ 0 → x.stalls[i]? = some a → y.stalls[i]? = some b →
        x.pens[penOf i]? = some p →
        (a.view.unack = true ∨ p.unack = true → b.view = a.view) ∧
        (a.view.unack = false → p.unack = false → penPowered x (penOf i) p = false → b.view = { a.view with mism := 0 }) ∧
        (p.unack = false → penPowered x (penOf i) p = true → Audited a.view b.view ∧
          (differs a.view → (a.view.mism = 0 → tells 0x0120 (stallIdx die i)) ∧
            (a.view.mism = 2 → tells 0x0121 (stallIdx die i) ∧ ∀ z, y.pens[penOf i]? = some z → z.mgmt = .faulted)))) ∧
      (∀ (p : Nat) (u z : UnitSt), die ≠ 0 → (∀ a ∈ x.stalls, viewsAgree a.view = true) →
        (∀ (q : Nat) w, q ≠ p → x.pens[q]? = some w → viewsAgree w = true) → x.pens[p]? = some u → y.pens[p]? = some z →
        (u.mism ≠ 2 → differs u → Audited u z) ∧ (u.unack = true → viewsAgree u = false → z = u) ∧
        (differs u → (u.mism = 0 → tells 0x0120 (2048 + (die - 1) * 4 + p)) ∧
          (u.mism = 2 → z.mgmt = .faulted ∧ z.data = .fenced ∧ z.mism = 3 ∧ p ∈ y.cutPens ∧
            tells 0x0121 (2048 + (die - 1) * 4 + p)))) ∧
      ∀ d, d ≠ die → dieOf t d = dieOf s d

/-! ## Self-test in service and cleared fences (18) -/

/-- O50. A self-test slice starts on the role's pen once its stalls have finished their started tiles, or is deferred and
counted once while a safety window meets it; while a cleared pen is tested its ten slices start and end in the same way and the
rotation is paused. At its end a slice counts, and so does a window known by then that it meets; the tenth slice moves the role
to the next unfenced pen, and a failed one faults the pen. A rotation that passes its interval is overdue, at its double the die
is degraded, and at four times it the die is fenced. The lines of a bank are tested in order, in slots in which no requester
waits; the last one counts the pass if it took more than 60 s, and a line that fails faults its paddock controller and fences
its die. FENCE_CLEAR is refused by its first failing check, and otherwise tests the unit: a pass brings the pen, or the die,
back into service, but for the pens of it that fail; a failure, or a new fault of the unit during the test, leaves it fenced
(R527, R529 to R531, R533, R534). The model's readings: log entries 29, 56, 78. -/
def Obligations.SelfTestAndFencesComplete : Prop :=
  (∀ (die : Nat) (s : State), (dieOf s die).selftest.running = none → (dieOf s die).selftest.clearRun = none →
    selfTestRuns s die = true ∧ penReady s die = true ∨ clearTests s die = true →
    exec (.selftestSliceStart die) s = .next (if sliceBlocked s die s.raw then
        (if (dieOf s die).selftest.deferredMark then s
        else cntAdd (modSelf s die (fun t => { t with deferredMark := true })) rDcuStCnt (die * 8 + 1) 1)
      else if clearTests s die then modSelf s die (fun t => { t with clearRun := some s.raw, deferredMark := false, met := false })
      else modSelf s die (fun t => { t with running := some s.raw, deferredMark := false, met := false }))) ∧
  (∀ (die : Nat) (s : State), selfTestRuns s die = true → penReady s die = false → clearTests s die = false →
    exec (.selftestSliceStart die) s = .next s) ∧
  (∀ (die t0 : Nat) (pass : Bool) (s : State), (dieOf s die).selftest.running = none →
    (dieOf s die).selftest.clearRun = some t0 → t0 + 400000 ≤ s.raw →
    exec (.selftestSliceEnd die pass) s = .next (modSelf (countSlice s die t0) die (fun t =>
      { t with clearRun := none, met := false, clearSlices := t.clearSlices + 1, clearFailed := t.clearFailed || !pass }))) ∧
  (∀ (die t0 : Nat) (pass : Bool) (s : State), Inv s → isDie s die = true →
    (dieOf s die).selftest.running = some t0 → t0 + 400000 ≤ s.raw →
    let x := (dieOf s die).selftest
    ∃ t, exec (.selftestSliceEnd die pass) s = .next t ∧ (dieOf t die).selftest.running = none ∧
      (x.discard = false → pass = true → x.slices + 1 < 10 → DieOnly s t die ∧
        dieOf t die = { dieOf s die with selftest := { x with running := none, met := false, slices := x.slices + 1 } } ∧
        t.cnt = (cntAdd (cntAdd s rDcuStCnt (die * 8) 1) rDcuStCnt (die * 8 + 7) (b2n (x.met || sliceBlocked s die t0))).cnt) ∧
      (x.discard = true ∨ pass = true ∧ 9 ≤ x.slices → ∀ q, nextPen s die x.pen = some q →
        (dieOf t die).selftest.pen = q ∧ (dieOf t die).selftest.slices = 0) ∧
      (x.discard = false → pass = false → ∀ u, (dieOf s die).pens[x.pen]? = some u →
        (dieOf t die).pens[x.pen]? = some { u with mgmt := .faulted, data := .fenced })) ∧
  (∀ (die : Nat) (s : State), Inv s → isDie s die = true → partOn s = true → 3 ≤ s.pwr.st → 0 < pensUp s die →
    let lim := cfgFld s rDcuStCfg die 31 20 * 1000000
    let age := s.raw - (dieOf s die).selftest.rotStart
    lim < age → ∃ t, exec (.rotationAgeExpiry die) s = .next t ∧ (dieOf t die).selftest.overdueRaised = true ∧
      (age < 2 * lim → (dieOf s die).selftest.overdueRaised = false →
        Raised (cntAdd (modSelf s die (fun x => { x with overdueRaised := true })) rDcuStCnt (die * 8 + 3) 1) t 0x0161 (die * 8192)) ∧
      (2 * lim ≤ age → age < 4 * lim → (dieOf t die).selftest.degraded = true) ∧
      (4 * lim ≤ age → FenceCause.starved ∈ (dieOf t die).fences)) ∧
  (∀ (die cluster bank line : Nat) (pass slow : Bool) (s : State), Inv s → dieOn s die = true → 3 ≤ s.pwr.st →
    isDie s die = true → cluster < 5 → bank < 64 → bankIdle s die cluster bank = true → line = (passAt s die cluster bank).1 →
    let began := (passAt s die cluster bank).2
    ∃ t, exec (.paddockLineTest die cluster bank line pass slow) s = .next t ∧
      (pass = true → line ≠ 2047 → t.cnt = s.cnt ∧ passAt t die cluster bank = (line + 1, began)) ∧
      (pass = true → line = 2047 → (slow = true ↔ 60000000000 < s.raw - began) → passAt t die cluster bank = (0, s.raw) ∧
        t.cnt = (cntAdd (cntAdd s rDcuStCnt (die * 8 + 5) 1) rDcuStCnt (die * 8 + 6) (b2n slow)).cnt) ∧
      (pass = true → t = { s with dies := t.dies, cnt := t.cnt } ∧ dieOf t die = { dieOf s die with linePass := (dieOf t die).linePass }) ∧
      (pass = false → FenceCause.bank ∈ (dieOf t die).fences ∧ (unitOf t die 0x0B cluster).mgmt = .faulted) ∧
      ∀ d, d ≠ die → dieOf t d = dieOf s d) ∧
  (∀ (slot : Nat) (c : Cmd) (s : State), MayStart s slot 0x0060 c →
    let u := markStarted s slot
    let st := fenceClearCheck u (byteAt c.bytes 16) (byteAt c.bytes 17) (byteAt c.bytes 18) (powerBusy u || c.note == some 1)
    (st ≠ 0 → ∃ t, exec (.fenceClear slot) s = .next t ∧ CompletedOver u t c st []) ∧
    (st = 0 → exec (.fenceClear slot) s = .next (modPwr (modSelf u (byteAt c.bytes 16) (fun t => { t with
      clearRun := none, clearSlices := 0, clearFailed := false, clearFault := false })) (fun p => { p with
      clear := some (slot, byteAt c.bytes 16, byteAt c.bytes 17, byteAt c.bytes 18, u.raw) })))) ∧
  ∀ (r : FenceResult) (s : State) (slot d kind p t0 : Nat) (c : Cmd), Inv s → s.pwr.clear = some (slot, d, kind, p, t0) →
    slot < 16384 → cmdOf s slot = some c → isDie s d = true → p < 4 →
    let x := (dieOf s d).selftest
    let v := { s with pwr := { s.pwr with clear := none } }
    let ended := kind ≠ 0 ∨ 10 ≤ x.clearSlices ∨ x.clearFailed = true ∨ x.clearFault = true
    let spoilt := x.clearFault = true ∨ (dieOf s d).fences.any forGood = true ∨ (kind = 0 ∧ dieFenced s d = true)
    (¬ ended → exec (.fenceTestComplete r) s = .next s) ∧
    (ended → ∃ t, exec (.fenceTestComplete r) s = .next t ∧ t.pwr = v.pwr ∧
      (spoilt ∨ (r.pass = false ∨ x.clearFailed = true) ∧ kind ≠ 0 → CompletedOver (modSelf v d (fun y => { y with clearRun := none })) t c 0x1413 []) ∧
      (¬ spoilt → r.pass = false ∨ x.clearFailed = true → kind = 0 → Completed t c 0x1413 ∧
        ∃ u, (dieOf t d).pens[p]? = some u ∧ u.mgmt = .faulted) ∧
      (¬ spoilt → r.pass = true → x.clearFailed = false → Completed t c 0 ∧
        (kind = 0 → (∃ u, (dieOf t d).pens[p]? = some u ∧ unitUp u = true) ∧
          ∀ (i : Nat) y, penOf i = p → (dieOf t d).stalls[i]? = some y → y.view.mgmt = .ready ∧ y.view.mism = 0) ∧
        (kind ≠ 0 → (dieOf t d).fences = [] ∧ ∀ q u, dieOff s d = false → (dieOf s d).pens[q]? = some u → unitUp u = true →
          bitOf r.pens q = false → ∃ u', (dieOf t d).pens[q]? = some u' ∧ u'.mgmt = .faulted)))

/-! ## SRAM, main memory and firewalls (15) -/

/-- O51. A scrub counts and logs a corrected word; an uncorrectable one poisons the frame it was read for and fences what
it belongs to: the die of a paddock bank, a loft or a stage unit, the pen of a stall's near buffer; one of the hub's
cores halts them. The last word of a pass is counted and marks the bank's time, and so is each further second in which a
bank was not fully scrubbed (R445, R446). The model's readings: log entry 33. -/
def Obligations.SramScrubsComplete : Prop :=
  ∀ (die target bank : Nat) (victim : ReadFor) (last : Bool) (s : State), Inv s → dieOn s die = true →
    sramTarget (die == 0) target = true →
    let fin := fun (u : State) => if last then scrubMark (sramCnt u die target 3) die target bank s.raw else u
    let due := scrubbedAt s die target bank + 1000000000
    (due ≤ s.raw → exec (.sramScrubOverdue die target bank) s = .next (scrubMark (sramCnt s die target 4) die target bank due)) ∧
    exec (.sramScrub die target bank .none victim last) s = .next (fin s) ∧
    (∀ a, exec (.sramScrub die target bank (.one a) victim last) s =
      .next (fin (bankLog (sramCnt s die target 0) die target bank 0 (2 ^ (a % 79))))) ∧
    (∀ a b, exec (.sramScrub die target bank (.two a b) victim last) s =
      .next (fin (bankLog (sramCnt s die target 1) die target bank 1 (2 ^ (a % 79) ||| 2 ^ (b % 79))))) ∧
    ∃ t, exec (.sramScrub die target bank .uncorrectable victim last) s = .next t ∧
      (∀ x n, victim = .frame x n → (frameOf t x n).map (·.poisoned) = (frameOf s x n).map (fun _ => true)) ∧
      (die ≠ 0 → target ≤ 4 → FenceCause.bank ∈ (dieOf t die).fences) ∧
      (die ≠ 0 → target = 5 → FenceCause.loft ∈ (dieOf t die).fences) ∧
      (die ≠ 0 → 6 ≤ target → target ≤ 8 → FenceCause.sram ∈ (dieOf t die).fences) ∧
      (die ≠ 0 → target = 10 → bank < 40 → (∃ u, (dieOf t die).pens[penOf bank]? = some u ∧ u.mgmt = .faulted) ∧
        ∃ x, (dieOf t die).stalls[bank]? = some x ∧ x.view.mgmt = .faulted) ∧
      (die = 0 → target = 1 → t.boot.halted = true ∧ t.boot.idBoot = 2) ∧
      ∀ d, d ≠ die → dieOf t d = dieOf s d

/-- O52. The owner of the scheduler's grant of a running channel reads and writes bursts of it, each an access under its grant;
one past the burst limit fences its die. A read lets the writes above MMC_WQ_HIGH go ahead, corrects what its code allows and
delivers the newest data; the patrol's read, once no write waits, moves the patrol on by one burst around the channel. A write is
seen at once by every reader, whatever the queue drains, waits behind 64 others, and no other burst of the channel reads
otherwise; refreshes and calibrations change no stored value. Without a grant, on a channel that does not run, and for an
address, bank or channel that does not exist, nothing happens (R241, R244, R435, R439, R441 to R443). The model's readings: log
entries 33, 51. -/
def Obligations.MainMemoryCompletes : Prop :=
  (∀ (die chan addr : Nat) (err : List Byte) (user : MemUser) (s : State), Inv s →
    let off := memBurst addr
    let a : ArbId := .mem die chan
    let may := channelRuns s die chan = true ∧ burstExists s die chan off = true ∧ granted s die chan user.req = true
    (¬ may → exec (.mmcRead die chan addr err user) s = .next s) ∧
    (may → ∃ t v, exec (.mmcRead die chan addr err user) s = .next t ∧
      BurstRead (drainQueue (writesAhead s die chan) s die chan) v die chan off err user.for_ false ∧
      ((arbOf v a).owner ≠ some user.req → t = v) ∧
      ((arbOf v a).owner = some user.req → (arbOf v a).used < 64 → t = setArb v a { arbOf v a with used := (arbOf v a).used + 1 }) ∧
      ((arbOf v a).owner = some user.req → 64 ≤ (arbOf v a).used → die ≠ 0 → FenceCause.burst ∈ (dieOf t die).fences))) ∧
  (∀ (die chan : Nat) (err : List Byte) (s : State), Inv s →
    let m := mmcOf s die chan
    let may := chanOfDie s die chan = true ∧ channelRuns s die chan = true ∧ cfgFld s rMmcCfg 0 15 0 ≠ 0
    (¬ may → exec (.patrolRead die chan err) s = .next s) ∧
    (may → ∃ t v, exec (.patrolRead die chan err) s = .next t ∧
      BurstRead (drainQueue (m.wq.length + m.held.length) s die chan) v die chan m.patrol err .patrol true ∧
      t = modMmc v die chan (fun x => { x with patrol := (m.patrol + 32) % chanBytes m }))) ∧
  (∀ (die chan addr : Nat) (data : List Byte) (user : MemWriter) (s : State), Inv s →
    let off := memBurst addr
    let a : ArbId := .mem die chan
    let may := channelRuns s die chan = true ∧ burstExists s die chan off = true ∧ granted s die chan user.req = true
    (¬ may → exec (.mmcWrite die chan addr data user) s = .next s) ∧
    (may → QueueOk (mmcOf s die chan) →
      ∃ t, exec (.mmcWrite die chan addr data user) s = .next t ∧
        burstData t die chan off = padTo 32 data ∧
        (∀ o, o % 32 = 0 → o ≠ off → burstData t die chan o = burstData s die chan o) ∧
        (mmcOf t die chan).wq ++ (mmcOf t die chan).held =
          ((mmcOf s die chan).wq ++ (mmcOf s die chan).held).drop user.drain ++ [(off, padTo 32 data)] ∧
        QueueOk (mmcOf t die chan) ∧ (∀ d, d ≠ die → dieOf t d = dieOf s d) ∧
        ((arbOf s a).used < 64 → t = { s with dies := t.dies, cnt := t.cnt, sub := t.sub, arbs := t.arbs } ∧
          arbOf t a = { arbOf s a with used := (arbOf s a).used + 1 } ∧
          ∀ k, k ≠ arbKey a → mapFind t.arbs k = mapFind s.arbs k) ∧
        (64 ≤ (arbOf s a).used → die ≠ 0 → FenceCause.burst ∈ (dieOf t die).fences))) ∧
  ∀ (die chan bank : Nat) (s : State),
    exec (.mmcRefresh die chan bank) s = .next (if chanOfDie s die chan = true ∧ bank < 16 ∧ channelRuns s die chan = true then
      modMmc s die chan (fun m => { m with refreshes := m.refreshes + 1 }) else s) ∧
    exec (.mmcZqCalibration die chan) s = .next (if chanOfDie s die chan = true ∧ channelRuns s die chan = true then
      modMmc s die chan (fun m => { m with zqCals := m.zqCals + 1 }) else s)

/-- O53. An access carries a domain that its work may use. A permitted read delivers what the target holds, and every byte of each
target of the die reads as before; of main memory, the writes above MMC_WQ_HIGH go ahead. A permitted write stores its bytes, and
every other byte of each target of the die reads as before; where it meets the place of a frame's cell in the hash store or in
the sort and rulebook store, the cell follows it, of which this statement says nothing. An access that no enabled descriptor
covers delivers zeros or stores nothing, is recorded, and poisons the frame it was made for; one of no bytes or at no target of
the die changes nothing (R447 to R449). The model's readings: log entry 54. -/
def Obligations.FirewallsJudgeAccesses : Prop :=
  ∀ (die target domain addr len : Nat) (write : Option (List Byte)) (r : ReadFor) (s : State), Inv s →
    let there := targetExists s die target = true ∧ 0 < len ∧ dieOn s die = true ∧ domain ∈ domainsOf s r
    (¬ there → exec (.memoryAccess die target domain addr len write r) s = .next s) ∧
    (there → ∃ t, exec (.memoryAccess die target domain addr len write r) s = .next t ∧ (∀ d, d ≠ die → dieOf t d = dieOf s d) ∧
      (fwPermits s die target domain addr len write.isSome = true → write = none →
        (dieOf t die).busOut = targetRead s die target addr len ∧
        t = modDie (if target = 9 then writeAhead s die else s) die (fun x => { x with busOut := (dieOf t die).busOut }) ∧
        ((∀ c, QueueOk (mmcOf s die c)) → ∀ k a n, targetRead t die k a n = targetRead s die k a n)) ∧
      (∀ w, fwPermits s die target domain addr len true = true → write = some w → (∀ c, QueueOk (mmcOf s die c)) →
        keysFrom 0 (dieOf s die).loft = true → (die ≠ 0 → target = 6 ∨ target = 7 → slotsMet s die target addr len = []) →
        targetRead t die target addr len = padTo len w ∧
        ∀ k a n, k ≠ target ∨ a + n ≤ addr ∨ addr + len ≤ a → targetRead t die k a n = targetRead s die k a n) ∧
      (fwPermits s die target domain addr len write.isSome = false →
        dieOf t die = (if write = none then { dieOf s die with busOut := List.replicate len 0 } else dieOf s die) ∧
        mapFind t.fwStat (die * 16 + target) = some ⟨domain, write.isSome, addr / 64,
          min 0x3FFFFFFF (((mapFind s.fwStat (die * 16 + target)).map (·.count)).getD 0 + 1)⟩ ∧
        (∀ k, k ≠ die * 16 + target → mapFind t.fwStat k = mapFind s.fwStat k) ∧
        ∀ x n, r = .frame x n → domain ≠ 1 → (frameOf t x n).map (·.poisoned) = (frameOf s x n).map (fun _ => true)))

/-! ## Leave, thermal limits, power states, pace and gating (16) -/

/-- O54. A stall, stage unit or memory port that serves a run whose operator needs leave asks its die's leave once, in order
of arrival. The next request that arrived within its context's reservation is granted if it still lies within it, and
otherwise waits unreserved, with the event; without one, the first unreserved request is granted if the die stays within its
budget, and otherwise holds the later ones; under a thermal alarm none is. Staged thermal fields apply at a sensor reading,
which is noted, with its peak, and the alarm rises at the alarm temperature and falls below it by the hysteresis. A critical
trip is latched, and resets a part that is not OFF (R472, R473, R475, R476). The model's readings: log entries 31, 56. -/
def Obligations.LeaveAndThermalLimitsComplete : Prop :=
  (∀ (ctx num die who : Nat) (s : State) (f : Frame), Inv s → isDie s die = true → frameOf s ctx num = some f →
    servesRun s f die who = true → (opFor s f who).cost.leaveReq = true →
    (∀ g ∈ (dieOf s die).grants ++ (dieOf s die).requests, isItem f who g = false) →
    let fig := (opFor s f who).cost.leaveMw
    let g : LeaveItem := ⟨who, ctx, num, leaveOp f who, fig, withinReserve s die ctx fig, s.raw⟩
    let v := modDie s die (fun x => { x with requests := leaveInsert g x.requests })
    let w := if who < 512 then cntAdd v rDcuStallCnt (who * 8 + 5) 1 else v
    let past := guarCtx s ctx = true ∧ withinReserve s die ctx fig = false
    ∃ t, exec (.leaveRequest ctx num die who) s = .next t ∧
      (dieOf t die).requests.Perm (g :: (dieOf s die).requests) ∧
      ((dieOf s die).requests.Pairwise (fun a b => a.at_ ≤ b.at_) → (dieOf t die).requests.Pairwise (fun a b => a.at_ ≤ b.at_)) ∧
      (¬ past → t = w) ∧ (past → Raised (modTot w die (fun x => { x with overs := x.overs + 1 })) t 0x0150 (die * 8192 + ctx))) ∧
  (∀ (die : Nat) (s : State), Inv s → isDie s die = true →
    ((dieOf s die).therm.alarmed = true → exec (.leaveGrant die) s = .next s) ∧
    ((dieOf s die).therm.alarmed = false →
      (∀ g, (dieOf s die).requests.find? (·.reserved) = some g → withinReserve s die g.ctx g.fig = true →
        ∃ t c, exec (.leaveGrant die) s = .next t ∧ LeaveGranted s t die g ∧ ctxOf s g.ctx = some c ∧
          heldLeave t die g.ctx ≤ ctxLeaveAt s c (leaveLevel s)) ∧
      (∀ g, (dieOf s die).requests.find? (·.reserved) = some g → withinReserve s die g.ctx g.fig = false →
        ∃ t, exec (.leaveGrant die) s = .next t ∧ (dieOf t die).grants = (dieOf s die).grants ∧
          (dieOf t die).requests = (dieOf s die).requests.map (fun r => if r = g then { r with reserved := false } else r) ∧
          Logged s t 0x0150 (die * 8192 + g.ctx)) ∧
      ((dieOf s die).requests.find? (·.reserved) = none → ∀ g, (dieOf s die).requests.find? (fun g => !g.reserved) = some g →
        (unresFits s die g = true → ∃ t, exec (.leaveGrant die) s = .next t ∧ LeaveGranted s t die g ∧
          baseLeave t die (leaveLevel t) + leaveRes t die (leaveLevel t) + unresLeave t die (leaveLevel t) ≤ leaveBudget t die) ∧
        (unresFits s die g = false → exec (.leaveGrant die) s = .next s)))) ∧
  (∀ (die : Nat) (temp : Int) (s : State), Inv s → partOn s = true →
    (dieOf s die).powered = true → die = 0 ∨ isDie s die = true →
    let u := thermApply s die
    let v := thermNow temp
    let alarm := bitsOf (thermCfg u die) 31 24
    let old := (dieOf u die).therm
    ∃ t, exec (.thermalSensorUpdate die temp) s = .next t ∧ (dieOf t die).therm.now = v ∧
      (dieOf t die).therm.peak = max v old.peak ∧
      (dieOf t die).therm.alarmed = (if old.alarmed then !decide (v + bitsOf (thermCfg u die) 23 16 ≤ alarm) else decide (alarm ≤ v)) ∧
      dieOf t die = { dieOf u die with therm := (dieOf t die).therm } ∧ (∀ d, d ≠ die → dieOf t d = dieOf u d) ∧
      t.frames = u.frames ∧ t.ctxs = u.ctxs ∧ t.cfg = u.cfg) ∧
  (∀ (die : Nat) (s : State), s.pins.supplied = true → die ≤ nDies s → s.boot.phase = .off → exec (.criticalTrip die) s = .next
    { s with backup := { s.backup with trip := some die }, pins := { s.pins with tripN := false, pwrReq := false } }) ∧
  ∀ (die : Nat) (s : State), s.pins.supplied = true → die ≤ nDies s → s.boot.phase ≠ .off → ∃ t, exec (.criticalTrip die) s = .next t ∧
    t.boot = Boot.reset ∧ t.pins.tripN = false ∧ t.pins.pwrReq = false ∧ t.pins.cmpEn = false ∧
    t.backup = { s.backup with cause := 4, trip := some die } ∧ t.nv = s.nv ∧ t.life = lifeKept s.life ∧ t.ctxs = [] ∧
    t.frames = [] ∧ t.cfg.active = [] ∧ t.pending = s.pending

/-- O55. A PWR_STATE_SET or a PACE_SET that passes its checks begins its change at its acceptance, and goes on with it when it starts;
one accepted while a command of R464 executes is refused. PWR_STATE_SET is refused for a bad state, a train below READY, or a
command of R464 that executes; otherwise the part moves one state at a time, out of SERVING once its frames are out, to OFF once the earlier commands are done, and to READY
once 100 us of pace windows are measured, and the command completes at its target; entry to RETENTION under INTRUSIVE resets
the part. PACE_SET is refused while a command of R464 executes, for a bad level, and for contexts or leave that do not fit;
the level is driven once the frames it waits for are out, and the change ends 600 us later (R129, R459, R460, R461, R464,
R466). The model's readings: log entry 30. -/
def Obligations.PowerAndPaceComplete : Prop :=
  (∀ (slot : Nat) (c : Cmd) (s : State), cmdOf s slot = some c →
    let b := byteAt c.bytes 16
    let t := acceptEffect s slot
    (c.code ∈ [0x0050, 0x0051, 0x0052, 0x0060] → powerBusy s = true → t = setNote s slot 1) ∧
    (c.code = 0x0050 → powerBusy s = false → pwrCheck s b false = 0 → b ≠ s.pwr.st → t = setNote { s with pwr := { s.pwr with
      changing := true, from_ := s.pwr.st, target := b, slot := some slot, before := otherSlots s slot, stepAt := s.raw } } slot 2) ∧
    (c.code = 0x0051 → powerBusy s = false → paceCheck s b false = 0 → b ≠ s.pwr.level →
      let wait := if b < s.pwr.level then acceptedFrames s else []
      let v := { s with pwr := { s.pwr with paceTo := some b, paceSlot := slot, paceDriven := none, paceWait := wait } }
      t = setNote (if wait = [] then { v with pins := { v.pins with vsel := b }, pwr := { v.pwr with paceDriven := some s.raw } } else v)
        slot 2)) ∧
  (∀ (slot : Nat) (c : Cmd) (s : State), c.note = some 2 →
    (MayStart s slot 0x0050 c → exec (.pwrStateSet slot) s = .next (markStarted s slot)) ∧
    (MayStart s slot 0x0051 c → exec (.paceSet slot) s = .next (markStarted s slot))) ∧
  (∀ (slot : Nat) (c : Cmd) (s : State), MayStart s slot 0x0050 c → c.note ≠ some 2 →
    let u := markStarted s slot
    let b := byteAt c.bytes 16
    let busy := powerBusy u || c.note == some 1
    let st := if 4 < b then 0x1401 else if b < 3 ∧ anyTrain u = true then 0x1403 else if busy then 0x1402 else 0
    (st ≠ 0 → ∃ t, exec (.pwrStateSet slot) s = .next t ∧ CompletedOver u t c st []) ∧
    (st = 0 → b = s.pwr.st → ∃ t, exec (.pwrStateSet slot) s = .next t ∧
      CompletedOver { u with pwr := { u.pwr with target := b } } t c 0 []) ∧
    (st = 0 → b ≠ s.pwr.st → exec (.pwrStateSet slot) s = .next { u with pwr := { u.pwr with
      changing := true, from_ := u.pwr.st, target := b, slot := some slot, before := otherSlots u slot, stepAt := u.raw } })) ∧
  (∀ s : State, s.pwr.changing = false ∨ s.pwr.slot.all (begun s) = false → exec .powerStep s = .next s) ∧
  (∀ s : State, Inv s → s.pwr.changing = true → partOn s = true → 1 ≤ s.pwr.st → s.pwr.target ≠ s.pwr.st →
    s.pwr.slot.all (begun s) = true →
    let down := s.pwr.target < s.pwr.st
    let b := if down then s.pwr.st - 1 else s.pwr.st + 1
    let waits := down ∧ s.pwr.st = 4 ∧ framesOut s = true ∨ down ∧ s.pwr.st = 1 ∧ (∃ k ∈ s.pwr.before, (cmdOf s k).isSome = true) ∨
      ¬ down ∧ s.pwr.st = 2 ∧ (s.raw < s.pwr.stepAt + 100000 ∨ paceMeasured s = false)
    let resets := down ∧ s.pwr.st = 2 ∧ s.sec.debug = 2
    (waits → exec .powerStep s = .next s) ∧
    (resets → ∃ t, exec .powerStep s = .next t ∧ t.boot = Boot.reset ∧ t.backup.cause = 3 ∧ t.nv = s.nv) ∧
    (¬ waits → ¬ resets → ∃ t, exec .powerStep s = .next t ∧ t.pwr.st = b ∧ t.pwr.changing = decide (b ≠ s.pwr.target) ∧
      (b = 0 → t.boot.phase = .off ∧ t.pins.pwrReq = false) ∧ (b = 1 → t.sec.debug = 0 ∧ t.sec.keyReady = false) ∧
      (b = 2 → ¬ down → t.sec.keyReady = s.nv.seed.isSome) ∧
      (b = s.pwr.target → b ≠ 0 → ∀ k c, s.pwr.slot = some k → k < 16384 → cmdOf s k = some c → Completed t c 0))) ∧
  (∀ (slot : Nat) (c : Cmd) (s : State), MayStart s slot 0x0051 c → c.note ≠ some 2 →
    let u := markStarted s slot
    let l := byteAt c.bytes 16
    let refused := if powerBusy u || c.note == some 1 then some 0x1402 else if 2 < l then some 0x1401 else if l = u.pwr.level then some 0
      else if paceNoFit u l then some 0x0412
      else if (computeDies u).any (fun d => !leaveFits u d l (baseLeave u d l)) then some 0x1404 else none
    let wait := if l < u.pwr.level then acceptedFrames u else []
    let v := { u with pwr := { u.pwr with paceTo := some l, paceSlot := slot, paceDriven := none, paceWait := wait } }
    (∀ st, refused = some st → ∃ t, exec (.paceSet slot) s = .next t ∧ CompletedOver u t c st []) ∧
    (refused = none → wait ≠ [] → exec (.paceSet slot) s = .next v) ∧
    (refused = none → wait = [] → exec (.paceSet slot) s =
      .next { v with pins := { v.pins with vsel := l }, pwr := { v.pwr with paceDriven := some s.raw } })) ∧
  ∀ (s : State) (l : Nat), Inv s → s.pwr.paceTo = some l →
    (s.pwr.paceDriven = none → (∀ k ∈ s.pwr.paceWait, k ∉ acceptedFrames s) → exec .paceChangeStep s =
      .next { s with pins := { s.pins with vsel := l }, pwr := { s.pwr with paceDriven := some s.raw } }) ∧
    ∀ t0 c, s.pwr.paceDriven = some t0 → t0 + 600000 ≤ s.raw → s.pwr.paceSlot < 16384 → cmdOf s s.pwr.paceSlot = some c →
      c.started = true →
      ∃ t, exec .paceChangeStep s = .next t ∧
        CompletedOver { s with pwr := { s.pwr with level := l, paceTo := none, paceDriven := none, paceWait := [] } } t c 0 []

/-- O56. GATE_SET is refused by its first failing check, and completes at once where the die is off already; pens that are gated
read OFF to management, and once their stalls have finished their tiles read OFF to the data path and lose what those hold; a
pen powered is tested and is in service or FAULTED, one whose fence stayed in force FAULTED, with the READY ones in the body; a
die turned off loses its paddocks and what its stalls hold, and has its channels in self-refresh; a die turned on has its pens
tested, and is fenced by a channel that does not train; die on of a die that is not off powers its four pens (R467 to R470).
The model's readings: log entries 29, 30, 78. -/
def Obligations.GatingCompletes : Prop :=
  (∀ (slot : Nat) (c : Cmd) (s : State), MayStart s slot 0x0052 c →
    let u := markStarted s slot
    let d := byteAt c.bytes 16
    let mask := byteAt c.bytes 17 % 16
    let act := byteAt c.bytes 18
    let st := gateCheck u d mask act (powerBusy u || c.note == some 1)
    let already := act = 2 ∧ dieOff u d = true
    let runs := act = 3 ∧ dieOff u d = false
    (st ≠ 0 ∨ already → ∃ t, exec (.gateSet slot) s = .next t ∧ CompletedOver u t c st []) ∧
    (st = 0 → act = 2 → ¬ already → ∃ t, exec (.gateSet slot) s = .next t ∧ Completed t c 0 ∧ d ∈ t.pwr.diesOff ∧
      (∀ x ∈ (dieOf t d).pens, x.mgmt = .off ∧ x.data = .off) ∧ (∀ m ∈ (dieOf t d).mmc, m.selfRefresh = true) ∧
      (∀ p ∈ (dieOf t d).pads, p = []) ∧ (∀ x ∈ (dieOf t d).stalls, x = stallPowerLost x) ∧ t.pwr.gate = none) ∧
    (st = 0 → act = 0 → ∃ t, exec (.gateSet slot) s = .next t ∧ t.pwr.gate = some (slot, d, mask, 0, s.raw) ∧
      (cmdOf t slot).isSome = true ∧ ∀ (p : Nat) x, (dieOf t d).pens[p]? = some x → bitOf mask p = true → x.mgmt = .off) ∧
    (st = 0 → act = 1 ∨ act = 3 → (¬ runs →
        exec (.gateSet slot) s = .next { u with pwr := { u.pwr with gate := some (slot, d, mask, act, s.raw) } }) ∧
      (runs → exec (.gateSet slot) s = .next { u with pwr := { u.pwr with gate := some (slot, d, 15, 1, s.raw) } }))) ∧
  ∀ (s : State) (slot d mask t0 : Nat) (c : Cmd), Inv s → slot < 16384 → cmdOf s slot = some c → isDie s d = true →
    (s.pwr.gate = some (slot, d, mask, 0, t0) → tilesFinished s d mask = false → exec .pensOffComplete s = .next s) ∧
    (s.pwr.gate = some (slot, d, mask, 0, t0) → tilesFinished s d mask = true → ∃ t, exec .pensOffComplete s = .next t ∧
      Completed t c 0 ∧ t.pwr.gate = none ∧ (∀ (i : Nat) x y, bitOf mask (penOf i) = true →
        (dieOf s d).stalls[i]? = some x → (dieOf t d).stalls[i]? = some y → y = stallPowerLost x) ∧
      ∀ (p : Nat) x y, bitOf mask p = true → (dieOf s d).pens[p]? = some x → (dieOf t d).pens[p]? = some y →
        y = { x with data := .off, unack := false }) ∧
    (∀ passed, s.pwr.gate = some (slot, d, mask, 1, t0) → t0 + 400000 ≤ s.raw →
      ∃ t, exec (.pensOnTestComplete passed) s = .next t ∧ Completed t c 0 ∧ LastBody t c (leBytes 1 (readyMask t d)) ∧
        t.pwr.gate = none ∧ ∀ (p : Nat) x y, bitOf mask p = true → (dieOf s d).pens[p]? = some x →
          (dieOf t d).pens[p]? = some y → PenPowered ((dieOf s d).fencedOff.contains p) (bitOf passed p) x y) ∧
    ∀ passed trained, s.pwr.gate = some (slot, d, mask, 3, t0) →
      ∃ t, exec (.dieOnComplete passed trained) s = .next t ∧ Completed t c 0 ∧ LastBody t c (leBytes 1 (readyMask t d)) ∧
        t.pwr.gate = none ∧ d ∉ t.pwr.diesOff ∧
        (∀ (p : Nat) x y, (dieOf s d).pens[p]? = some x → (dieOf t d).pens[p]? = some y →
          PenPowered ((dieOf s d).fencedOff.contains p) (bitOf passed p) x y) ∧
        ((∃ k, k < 4 ∧ bitOf trained k = false) → FenceCause.channel ∈ (dieOf t d).fences)

/-! ## Security, resets, start-up and the life log (16 to 18) -/

/-- O57. A part of a firmware update joins the open update or is refused; the last one is judged whole, and if every check
passes its image is programmed; programmed, the image stands in the inactive slot as the boot candidate, and otherwise
the update fails. A bundle that every check passes is committed as one transaction. A report is written to the named
page with a READY device key and an entropy source that has not failed; it waits while the source is tested (R494, R496 to R498, R501). The model's readings: log
entries 22, 42, 65. -/
def Obligations.FirmwareBundlesAndReportsComplete : Prop :=
  (∀ (slot : Nat) (c : Cmd) (s : State), MayStart s slot 0x0070 c →
    let u := markStarted s slot
    let flags := byteAt c.bytes 18
    let count := u32 c.bytes 20
    let b := u.sec.upd.getD [] ++ staged u (slot / 8192) (u16 c.bytes 16) count
    let refused := if pagesOk u (slot / 8192) (u16 c.bytes 16) (pageCount count) = false then 0x030B
      else if bitOf flags 2 then (if u.sec.upd.isSome then 0 else 0x150F)
      else if partWrong u (bitOf flags 0) (u32 c.bytes 24) then 0x150F else 0
    (refused ≠ 0 → ∃ t, exec (.fwUpdate slot) s = .next t ∧ CompletedOver u t c refused []) ∧
    (refused = 0 → bitOf flags 2 = true → ∃ t, exec (.fwUpdate slot) s = .next t ∧
      CompletedOver { u with sec := { u.sec with upd := none } } t c 0 []) ∧
    (refused = 0 → bitOf flags 2 = false → bitOf flags 1 = false → ∃ t, exec (.fwUpdate slot) s = .next t ∧
      CompletedOver { u with sec := { u.sec with upd := some b } } t c 0 []) ∧
    (refused = 0 → bitOf flags 2 = false → bitOf flags 1 = true → envCheck u (fwRule b) b ≠ 0 →
      ∃ t, exec (.fwUpdate slot) s = .next t ∧ Completed t c (envCheck u (fwRule b) b) ∧ restOf t = restOf u) ∧
    (refused = 0 → bitOf flags 2 = false → bitOf flags 1 = true → envCheck u (fwRule b) b = 0 →
      exec (.fwUpdate slot) s = .next { u with sec := { u.sec with
        upd := none, updSlot := some slot, updImage := some ⟨true, envVersion b, envIndex b, slice b 40 64⟩ } })) ∧
  (∀ (ok : Bool) (s : State) (k : Nat) (img : Image) (c : Cmd), Inv s → s.sec.updSlot = some k → s.sec.updImage = some img →
    k < 16384 → cmdOf s k = some c → s.nv.recs.length = 2 →
    let v := { s with sec := { s.sec with updSlot := none, updImage := none } }
    ∃ t, exec (.flashProgramComplete ok) s = .next t ∧
      (ok = false → CompletedOver v t c 0x1510 []) ∧
      (ok = true → CompletedOver { v with nv := t.nv } t c 0 [] ∧
        t.nv.images = updAt s.nv.images (1 - (bootRec s.nv).active) (fun _ => img) ∧
        t.nv = { s.nv with images := t.nv.images, recs := t.nv.recs } ∧ ((bootRec s.nv).seq + 1 < 2 ^ 32 →
          bootRec t.nv = ⟨1 - (bootRec s.nv).active, (bootRec s.nv).active, 0, (bootRec s.nv).seq + 1⟩))) ∧
  (∀ (slot : Nat) (c : Cmd) (s : State), MayStart s slot 0x0032 c →
    let u := markStarted s slot
    let count := u32 c.bytes 20
    let b := staged u (slot / 8192) (u16 c.bytes 16) count
    let env := envCheck u ⟨3, 1, true, ownerKey u.nv⟩ b
    let d := envBody b
    let recs := bundleRecs u d (u32 d 0) 0 []
    let buf := spread u recs.1
    let st := if pagesOk u (slot / 8192) (u16 c.bytes 16) (pageCount count) = false then 0x030B
      else if deployed u = false then 0x1508 else if env ≠ 0 then env else if u.txn.st ≠ 0 then 0x0315
      else if bundleForm d = false then 0x1501 else if recs.2.1 ≠ 0 then recs.2.1 else commitCheck u buf
    let k := startCommit u slot true buf
    (st ≠ 0 → ∃ t w, exec (.bundleApply slot) s = .next t ∧ Completed t c st ∧ LastBody t c (leBytes 2 w) ∧ restOf t = restOf u) ∧
    (st = 0 → k.2.todo = [] → ∃ t, exec (.bundleApply slot) s = .next t ∧ Completed t c 0 ∧ LastBody t c (leBytes 2 0xFFFF) ∧
      t.txn.st = 0 ∧ t.txn.buf = [] ∧ restOf t = restOf { k.1 with txn := t.txn }) ∧
    (st = 0 → k.2.todo ≠ [] → exec (.bundleApply slot) s = .next k.1 ∧ k.1.txn.commits = [k.2] ∧ k.2.bundle = true)) ∧
  ∀ (slot : Nat) (c : Cmd) (s : State), MayStart s slot 0x0071 c →
    let u := markStarted s slot
    let page := u16 c.bytes 16
    let st := if pagesOk u (slot / 8192) page 2 = false then 0x030B
      else if u.sec.keyReady = false ∨ u.nv.seed = none then 0x1512 else if u.sec.trng = 3 then 0x150D else 0
    (st ≠ 0 → ∃ t, exec (.attest slot) s = .next t ∧ CompletedOver u t c st []) ∧
    (st = 0 → s.sec.trng ≠ 1 → exec (.attest slot) s = .next s) ∧
    (st = 0 → s.sec.trng = 1 → ∃ t r seed rnd, exec (.attest slot) s = .next t ∧ Completed t c 0 ∧ LastBody t c (leBytes 4 1912) ∧
      u.nv.seed = some seed ∧ r = attestReport u seed rnd (slice c.bytes 24 32) ∧
      memRead (chanOf t (slot / 8192)).mem (pageOff page) r.length = r ∧
      restOf t = restOf { u with cnt := t.cnt, sub := t.sub } ∧ t.log = s.log ∧
      ∀ k, k ≠ slot / 8192 → chanOf t k = chanOf s k)

/-- O58. A challenge of level 1 or 2 gives 16 bytes and closes after 60 s; level 0 discards it, closes an OBSERVE unlock, or
has an INTRUSIVE one end within 1 ms. An unlock consumes the open challenge whatever its outcome; only one that passes every
check changes the debug level, and an INTRUSIVE one in DEPLOYED zeroises the owner's record. A lifecycle transition completes
with its first failing check, and only one that passes every check changes the one-time-programmable fields, as far as the
fuses and the flash take the change; unlocks expire, an INTRUSIVE one by a reset. A command that draws output waits while the
source is tested, and neither a challenge nor an unlock runs in RETENTION (R504 to R506, R508 to R514). The model's readings:
log entry 42. -/
def Obligations.UnlocksAndLifecycleComplete : Prop :=
  (∀ (slot : Nat) (c : Cmd) (s : State), MayStart s slot 0x0072 c →
    let u := markStarted s slot
    let l := byteAt c.bytes 16
    let st := if 2 < l then 0x1501 else if l = 0 then 0 else if u.sec.debug = 2 then 0x1509
      else if u.sec.trng = 3 then 0x150D else 0
    (s.pwr.st ≤ 1 ∨ st = 0 ∧ l ≠ 0 ∧ s.sec.trng ≠ 1 → exec (.debugChallenge slot) s = .next s) ∧
    (2 ≤ s.pwr.st → st ≠ 0 → ∃ t, exec (.debugChallenge slot) s = .next t ∧ CompletedOver u t c st []) ∧
    (2 ≤ s.pwr.st → st = 0 → l ≠ 0 → s.sec.trng = 1 → ∃ t n, exec (.debugChallenge slot) s = .next t ∧ Completed t c 0 ∧ n.length = 16 ∧ LastBody t c n ∧
      t.sec = { s.sec with chal := some (l, n, s.raw) } ∧ t.nv = s.nv ∧ t.log = s.log) ∧
    (2 ≤ s.pwr.st → l = 0 → ∃ t, exec (.debugChallenge slot) s = .next t ∧ Completed t c 0 ∧ t.nv = s.nv ∧
      (s.sec.debug = 0 → t.sec = { s.sec with chal := none }) ∧
      (s.sec.debug = 1 → t.sec = { s.sec with debug := 0, until_ := none }) ∧
      (s.sec.debug = 2 → ∃ x, x ≤ s.raw + 1000000 ∧ t.sec = { s.sec with resetAt := some x }))) ∧
  (∀ (slot : Nat) (flashOk : FlashSteps) (s : State), s.pwr.st ≤ 1 → exec (.debugUnlock slot flashOk) s = .next s) ∧
  (∀ (slot : Nat) (flashOk : FlashSteps) (c : Cmd) (s : State), MayStart s slot 0x0073 c → 2 ≤ s.pwr.st →
    let u := { markStarted s slot with sec := { s.sec with chal := none } }
    let count := u32 c.bytes 20
    let b := staged u (slot / 8192) (u16 c.bytes 16) count
    let late := fun (l : Nat) => if l = 2 ∧ (u.ctxs ≠ [] ∨ u.pkgs ≠ []) then 0x150B else if l = 2 ∧ u.pwr.st = 4 then 0x1508
      else if l = 2 ∧ lifecycle u.nv = 2 ∧ flashOk.first = false then 0x1510 else 0
    let judge := fun (l : Nat) (nonce : List Byte) =>
      if (count = 0 ↔ 2 ≤ lifecycle u.nv) then 0x1501 else if count = 0 then late l
      else if envCheck u (unlockRule u b (unlockBodyOk u l nonce (envBody b))) b ≠ 0 then
        envCheck u (unlockRule u b (unlockBodyOk u l nonce (envBody b))) b else late l
    let paged := pagesOk u (slot / 8192) (u16 c.bytes 16) (pageCount count)
    (paged = false → ∃ t, exec (.debugUnlock slot flashOk) s = .next t ∧ CompletedOver u t c 0x030B []) ∧
    (paged = true → s.sec.chal = none → ∃ t, exec (.debugUnlock slot flashOk) s = .next t ∧ CompletedOver u t c 0x150A []) ∧
    (paged = true → ∀ l nonce at_, s.sec.chal = some (l, nonce, at_) →
      (judge l nonce ≠ 0 → ∃ t, exec (.debugUnlock slot flashOk) s = .next t ∧ Completed t c (judge l nonce) ∧ restOf t = restOf u) ∧
      (judge l nonce = 0 → ∃ t, exec (.debugUnlock slot flashOk) s = .next t ∧ Completed t c 0 ∧
        restOf t = restOf { u with
          nv := if l = 2 ∧ lifecycle s.nv = 2 then zeroise s.nv flashOk else s.nv, sec := { u.sec with
            debug := l, resetAt := none, until_ := if count = 0 then none else some (s.raw + u32 (envBody b) 4 * 1000000000) } }))) ∧
  (∀ (slot : Nat) (flashOk : FlashSteps) (c : Cmd) (s : State), MayStart s slot 0x0074 c →
    let u := markStarted s slot
    let target := byteAt c.bytes 16
    let count := u32 c.bytes 20
    let b := staged u (slot / 8192) (u16 c.bytes 18) count
    let r := lifeRule u target b
    let st := if pagesOk u (slot / 8192) (u16 c.bytes 18) (pageCount count) = false then 0x030B
      else if envCheck u r b ≠ 0 then envCheck u r b else lifeCheck u target r b
    let made := lifeChange s.nv target b flashOk
    (st ≠ 0 → ∃ t, exec (.lifecycleSet slot flashOk) s = .next t ∧ Completed t c st ∧ restOf t = restOf u) ∧
    (st = 0 → target = 2 → s.sec.trng ≠ 1 → exec (.lifecycleSet slot flashOk) s = .next s) ∧
    (st = 0 → target ≠ 2 ∨ s.sec.trng = 1 → ∃ t, exec (.lifecycleSet slot flashOk) s = .next t ∧
      Completed t c (if made.2 then 0 else 0x1510) ∧ restOf t = restOf { u with
        nv := made.1, life := if lifecycle s.nv = 0 ∧ lifecycle made.1 ≠ 0 then lifeKept s.life else s.life,
        cnt := t.cnt, sub := t.sub })) ∧
  ∀ s : State, Inv s →
    (∀ l n at_, s.sec.chal = some (l, n, at_) → at_ + 60000000000 ≤ s.raw →
      exec .challengeExpiry s = .next { s with sec := { s.sec with chal := none } }) ∧
    (∀ x, s.sec.until_ = some x → x ≤ s.raw →
      (s.sec.debug = 1 → ∃ t, exec .unlockExpiry s = .next t ∧
        Raised { s with sec := { s.sec with debug := 0, until_ := none } } t 0x1583 0) ∧
      (s.sec.debug = 2 → ∃ t, exec .unlockExpiry s = .next t ∧ t.boot = Boot.reset ∧ t.backup.cause = 3 ∧ t.nv = s.nv)) ∧
    ∀ x, s.sec.resetAt = some x → x ≤ s.raw → s.sec.debug = 2 →
      ∃ t, exec .unlockExpiry s = .next t ∧ t.boot = Boot.reset ∧ t.backup.cause = 3 ∧ t.nv = s.nv

/-- O59. Power-on, the reset pin, a supply failure, a lockstep mismatch and the watchdog reset the part with their causes,
and keep the backup domain, the records of the life log and the one-time-programmable memory; every slot then expects sequence 1
and the rings are empty. On its release, once the rails stand and a trip has cleared, the straps are sampled, the
cause is read and cleared, and start-up begins; at its end, as time passes, the part is READY under the chosen image, or in
the boot fault of the step that fails. An entropy source fails its health tests, and passes or fails its retry; the safety
supply is noted, and the loss of the backup supply clears the backup domain where the core supplies are absent (R72, R477, R497,
R514, R518, R519, R521, R522, R525, R546, R547, R550). The model's readings: log entries 14, 43. -/
def Obligations.ResetsAndStartUpComplete : Prop :=
  (∀ s : State, ∃ t, exec .powerOn s = .next t ∧ ResetKeeps s t 1 ∧ t.pins.supplied = true ∧ t.pins.resetN = false ∧ t.pins.pwrReq = false) ∧
  (∀ (ns : Nat) (taken : Bool) (s : State), s.boot.phase ≠ .off → s.pins.resetN = true →
    10000 ≤ ns ∨ 1000 ≤ ns ∧ taken = true →
    ∃ t, exec (.resetNAssert ns taken) s = .next t ∧ ResetKeeps s t 2 ∧ t.pins.resetN = false) ∧
  (∀ s : State, s.boot.phase ≠ .off → ∃ t, exec .supplyBrownout s = .next t ∧ ResetKeeps s t 1 ∧ t.pins.supplied = false ∧
    t.pins.pwrReq = s.pins.pwrReq) ∧
  (∀ s : State, (partOn s = true ∨ s.boot.phase = .starting → ∃ t, exec .lockstepMismatch s = .next t ∧ ResetKeeps s t 5) ∧
    (partOn s = true → ∃ t, exec .watchdogExpiry s = .next t ∧ ResetKeeps s t 6)) ∧
  (∀ (rep : BootReport) (s : State), s.boot.phase ≠ .held ∨ holdEnds rep s = false → exec (.resetNRelease rep) s = .next s) ∧
  (∀ (rep : BootReport) (s : State), s.boot.phase = .held → holdEnds rep s = true → ∃ t, exec (.resetNRelease rep) s = .next t ∧
    t.boot.phase = .starting ∧ t.boot.plan = some rep ∧ t.boot.cause = s.backup.cause ∧ t.backup = { s.backup with cause := 0 } ∧
    t.pins.resetN = true ∧ t.pins.pwrReq = true ∧ t.pins.sampledSingle = s.pins.hpSingle ∧
    t.pins.sampledOctal = s.pins.flOctal ∧ s.raw < t.boot.answerAt ∧ t.boot.answerAt ≤ s.raw + 20000000 ∧
    t.boot.doneAt ≤ s.raw + 1800000000 ∧ t = { s with pins := t.pins, boot := t.boot, backup := t.backup }) ∧
  (∀ (rep : BootReport) (s : State), Inv s → s.pending = [] → s.boot.phase ≠ .off → s.pins.supplied = true →
    s.boot.plan = some rep → s.boot.doneAt ≤ s.raw + 1 →
    let nv := countAttempt s.nv
    let codes := if rep.otpOk = false then some (1, 5) else if rep.flashOk = false ∨ chooseImage nv = none then some (3, 1)
      else if rep.hubTrained = false then some (5, 2) else if populationOk s rep = false then some (6, 3)
      else if rep.hubOk = false then some (7, 4) else none
    ∃ t, step s = .next t ∧ t.raw = s.raw + 1 ∧ t.boot.cause = s.boot.cause ∧
      (∀ step code, codes = some (step, code) → t.boot.phase = .faulted ∧ t.boot.idBoot = 2 ∧ t.boot.step = step ∧ t.boot.fault = code ∧
        (5 ≤ step → chooseImage nv = some (t.boot.slot, t.boot.fellBack)) ∧ (6 ≤ step → t.pins.cmpEn = true)) ∧
      (codes = none → t.boot.phase = .running ∧ t.boot.idBoot = 1 ∧ t.boot.step = 9 ∧ t.backup.trip = none ∧
        chooseImage nv = some (t.boot.slot, t.boot.fellBack) ∧ imageOk nv t.boot.slot = true ∧
        (∀ i, s.nv.images[t.boot.slot]? = some i → t.nv.svn = max s.nv.svn i.svn ∧ ∀ k, k < i.key → k < 4 → k ∈ t.nv.revoked))) ∧
  (∀ (b : Bool) (l : List Bool) (s : State), Inv s →
    let due := s.sec.trng = 2 ∧ s.sec.trngAt + 1000000 ≤ s.raw
    let failed := fun (f : Bool × Bool) (st n : Nat) =>
      { cntAdd (cntAdd s rSecTrngCnt 0 (b2n f.1)) rSecTrngCnt 1 (b2n f.2) with
        sec := { s.sec with trng := st, trngFails := n, trngAt := s.raw } }
    (partOn s = true → 2 ≤ s.pwr.st → s.sec.trng = 1 → ∀ f, healthFail l = some f →
      ∃ t, exec (.entropyHealthTestFail l) s = .next t ∧ Raised (failed f 2 1) t 0x1586 0) ∧
    (healthFail l = none → exec (.entropyHealthTestFail l) s = .next s) ∧
    (due → ∀ f, healthFail l = some f → ∃ t, exec (.trngRetry l) s = .next t ∧ Raised (failed f 3 2) t 0x1586 0) ∧
    (due → healthFail l = none → l.length = 4096 → exec (.trngRetry l) s =
      .next { cntAdd s rSecTrngCnt 3 1 with sec := { s.sec with trng := 1, trngFails := 0 } }) ∧
    exec (.vddSafeOutOfTolerance b) s = .next { s with pins := { s.pins with safeOk := !b } }) ∧
  ∀ s : State, s.boot.phase = .off ∨ s.pins.supplied = false →
    exec .backupSupplyLoss s = .next { s with backup := ⟨0, false, 0, none, 1⟩ }

/-- O60. A checkpoint that is due writes its header and its body, which count from the first provisioning on, in consecutive records
while no sector must be erased; a
daily index joins the die's last sixteen; a year of operation is recorded for each die with the least, the lower
median and the number of its indices, unless the flash fails, and the year's indices start anew (R479, R480, R482, R484). The
model's readings: log entries 27, 79. -/
def Obligations.LifeLogAdvances : Prop :=
  (∀ (ok : Bool) (s : State), Inv s → partOn s = true →
    s.life.lastCkpt + cfgFld s rLflCfg 0 15 0 * 60000000000 ≤ s.life.opNs →
    ∃ t l, exec (.lifelogCheckpoint ok) s = .next t ∧ t.life.lastCkpt = s.life.opNs ∧ t.dies = s.dies ∧ t.frames = s.frames ∧
      t.life = { s.life with recs := t.life.recs, next := t.life.next, lastCkpt := t.life.lastCkpt, flashBad := !ok } ∧
      (ok = false → t.life.recs = s.life.recs ∧ t.life.next = s.life.next) ∧
      (ok = true → s.life.next + (checkpointBody s).length ≤ 65536 → t.life.recs = s.life.recs ++ l ∧
        t.life.next = s.life.next + l.length ∧ l.map (fun r => (r.typ, r.die, r.fields)) =
          (1, 255, [(checkpointBody s).length + 1, (counted s).opNs / 1000000000, (counted s).powerOns, (counted s).dropped]) ::
            checkpointBody s ∧
        ∀ (i : Nat) r, l[i]? = some r → r.seq = s.life.next + i ∧ r.bad = false)) ∧
  (∀ (die newPace : Nat) (s : State), Inv s → die ≤ nDies s → newPace ≠ 0 → 3 ≤ s.pwr.st → partOn s = true →
    ((totOf s die).days + 1) * 86400000000000 ≤ s.life.readyNs →
    let idx := min 10000 (10000 * paceMeas s die / newPace)
    ∃ t, exec (.agingDailyIndex die newPace) s = .next t ∧
      (dieOf t die).aging.days = ((dieOf s die).aging.days ++ [idx]).drop ((dieOf s die).aging.days.length - 15) ∧
      dieOf t die = { dieOf s die with aging := (dieOf t die).aging } ∧ (∀ d, d ≠ die → dieOf t d = dieOf s d) ∧
      mapFind t.life.yearDays die = some (mapGet [] s.life.yearDays die ++ [idx]) ∧
      (die < s.life.tot.length → (totOf t die).days = (totOf s die).days + 1) ∧ t.frames = s.frames ∧ t.ctxs = s.ctxs) ∧
  ∀ (ok : Bool) (s : State), Inv s → partOn s = true → (s.life.years + 1) * (8760 * 3600000000000) ≤ s.life.opNs →
    ∃ t, exec (.agingYear ok) s = .next t ∧ t.life.years = s.life.years + 1 ∧ t.life.yearDays = [] ∧ t.frames = s.frames ∧
      (ok = false → t.dies = s.dies ∧ t.life.recs = s.life.recs) ∧
      (ok = true → s.life.next + nDies s ≤ 65536 → ∀ d, d ≤ nDies s → ∃ y, (dieOf t d).aging.years = (dieOf s d).aging.years ++ [y] ∧
        y.year = s.life.years + 1 ∧ y.days = (mapGet [] s.life.yearDays d).length ∧ (mapGet [] s.life.yearDays d ≠ [] →
          y.least ∈ mapGet [] s.life.yearDays d ∧ (∀ x ∈ mapGet [] s.life.yearDays d, y.least ≤ x) ∧
          y.median = lowerMedian (mapGet [] s.life.yearDays d)))
end

