-- ==== Sys2Proof/Laws/Memory.lean ====
section
/-!
SUPPORT. Sparse maps and memories: every operation keeps the canonical form, a read after a write gives the value
written, and a write leaves every other key alone.
-/
namespace Sys2Proof.Machine

theorem keysFrom_mono {β : Type} {m : List (Nat × β)} {a b : Nat} (h : keysFrom b m = true) (ab : a ≤ b) :
    keysFrom a m = true := by
  cases m with
  | nil => rfl
  | cons e m =>
    simp only [keysFrom, Bool.and_eq_true, decide_eq_true_eq] at h ⊢
    exact ⟨Nat.le_trans ab h.1, h.2⟩

/-- Below the least key nothing is listed. -/
theorem mapFind_below {β : Type} {m : List (Nat × β)} {a i : Nat} (h : keysFrom a m = true) (hi : i < a) :
    mapFind m i = none := by
  induction m generalizing a with
  | nil => rfl
  | cons e m ih =>
    simp only [keysFrom, Bool.and_eq_true, decide_eq_true_eq] at h
    have h1 : i < e.1 := Nat.lt_of_lt_of_le hi h.1
    simp [mapFind, Nat.ne_of_lt h1, h1]

theorem mapFind_mapPut_same {β : Type} (m : List (Nat × β)) (i : Nat) (v : β) :
    mapFind (mapPut m i v) i = some v := by
  induction m with
  | nil => simp [mapPut, mapFind]
  | cons e m ih =>
    simp only [mapPut]
    split
    · simp [mapFind]
    · split
      · simp [mapFind]
      · rename_i h1 h2
        simp [mapFind, h1, h2, ih]

theorem mapFind_mapPut_other {β : Type} (m : List (Nat × β)) {i j : Nat} (v : β) (h : j ≠ i) :
    mapFind (mapPut m i v) j = mapFind m j := by
  induction m with
  | nil => simp [mapPut, mapFind, h]
  | cons e m ih =>
    simp only [mapPut]
    split
    · rename_i h1
      simp only [mapFind, ← h1]
      simp [h]
    · split
      · rename_i h1 h2
        simp only [mapFind, h, if_false]
        split
        · rename_i h3
          rw [if_neg (by omega), if_pos (by omega)]
        · rfl
      · simp only [mapFind, ih]

theorem mapFind_mapDel_other {β : Type} {m : List (Nat × β)} {a i j : Nat} (w : keysFrom a m = true) (h : j ≠ i) :
    mapFind (mapDel m i) j = mapFind m j := by
  induction m generalizing a with
  | nil => rfl
  | cons e m ih =>
    simp only [keysFrom, Bool.and_eq_true, decide_eq_true_eq] at w
    simp only [mapDel]
    split
    · rename_i h1
      simp only [mapFind]
      by_cases h2 : j < e.1
      · rw [if_neg (by omega), if_pos h2, mapFind_below w.2 (by omega)]
      · rw [if_neg (by omega), if_neg h2]
    · split
      · rfl
      · simp only [mapFind, ih w.2]

theorem mapFind_mapDel_same {β : Type} {m : List (Nat × β)} {a i : Nat} (w : keysFrom a m = true) :
    mapFind (mapDel m i) i = none := by
  induction m generalizing a with
  | nil => rfl
  | cons e m ih =>
    simp only [keysFrom, Bool.and_eq_true, decide_eq_true_eq] at w
    simp only [mapDel]
    split
    · rename_i h1
      exact mapFind_below w.2 (by omega)
    · split
      · rename_i h1 h2
        simp [mapFind, h1, h2]
      · rename_i h1 h2
        simp [mapFind, h1, h2, ih w.2]

theorem mapPut_keys {β : Type} {m : List (Nat × β)} {a i : Nat} (v : β) (w : keysFrom a m = true) (h : a ≤ i) :
    keysFrom a (mapPut m i v) = true := by
  induction m generalizing a with
  | nil => simp [mapPut, keysFrom, h]
  | cons e m ih =>
    simp only [keysFrom, Bool.and_eq_true, decide_eq_true_eq] at w
    simp only [mapPut]
    split
    · rename_i h1
      simp only [keysFrom, Bool.and_eq_true, decide_eq_true_eq]
      exact ⟨h, h1 ▸ w.2⟩
    · split
      · simp only [keysFrom, Bool.and_eq_true, decide_eq_true_eq]
        exact ⟨h, by omega, w.2⟩
      · simp only [keysFrom, Bool.and_eq_true, decide_eq_true_eq]
        exact ⟨w.1, ih w.2 (by omega)⟩

theorem mapDel_keys {β : Type} {m : List (Nat × β)} {a : Nat} (i : Nat) (w : keysFrom a m = true) :
    keysFrom a (mapDel m i) = true := by
  induction m generalizing a with
  | nil => rfl
  | cons e m ih =>
    simp only [keysFrom, Bool.and_eq_true, decide_eq_true_eq] at w
    simp only [mapDel]
    split
    · exact keysFrom_mono w.2 (by omega)
    · split
      · simp [keysFrom, w]
      · simp only [keysFrom, Bool.and_eq_true, decide_eq_true_eq]
        exact ⟨w.1, ih w.2⟩

theorem mem_mapDel {β : Type} {m : List (Nat × β)} {i : Nat} {e : Nat × β} (h : e ∈ mapDel m i) : e ∈ m := by
  induction m with
  | nil => simp [mapDel] at h
  | cons x m ih =>
    simp only [mapDel] at h
    split at h
    · exact List.mem_cons_of_mem _ h
    · split at h
      · exact h
      · rcases List.mem_cons.1 h with h | h
        · exact h ▸ List.mem_cons_self
        · exact List.mem_cons_of_mem _ (ih h)

theorem mem_mapPut {β : Type} {m : List (Nat × β)} {i : Nat} {v : β} {e : Nat × β} (h : e ∈ mapPut m i v) :
    e = (i, v) ∨ e ∈ m := by
  induction m with
  | nil => simpa [mapPut] using h
  | cons x m ih =>
    simp only [mapPut] at h
    split at h
    · rcases List.mem_cons.1 h with h | h
      · exact .inl h
      · exact .inr (List.mem_cons_of_mem _ h)
    · split at h
      · rcases List.mem_cons.1 h with h | h
        · exact .inl h
        · exact .inr h
      · rcases List.mem_cons.1 h with h | h
        · exact .inr (h ▸ List.mem_cons_self)
        · exact (ih h).imp id (List.mem_cons_of_mem _)

theorem keysFrom_filter {β : Type} (p : Nat × β → Bool) :
    ∀ (m : List (Nat × β)) (a : Nat), keysFrom a m = true → keysFrom a (m.filter p) = true := by
  intro m
  induction m with
  | nil => exact fun _ h => h
  | cons e m ih =>
    intro a h
    obtain ⟨k, v⟩ := e
    simp only [keysFrom, Bool.and_eq_true, decide_eq_true_eq] at h
    have g := ih _ h.2
    simp only [List.filter_cons]
    split
    · simpa [keysFrom, h.1] using g
    · exact keysFrom_mono g (by omega)

/-- A write keeps the canonical form. -/
theorem mapSet_wf {β : Type} [DecidableEq β] {d : β} {m : List (Nat × β)} (i : Nat) (v : β) (w : mapWf d m = true) :
    mapWf d (mapSet d m i v) = true := by
  simp only [mapWf, Bool.and_eq_true, List.all_eq_true] at w ⊢
  simp only [mapSet]
  split
  · exact ⟨mapDel_keys i w.1, fun e he => w.2 e (mem_mapDel he)⟩
  · rename_i hv
    refine ⟨mapPut_keys v w.1 (Nat.zero_le i), fun e he => ?_⟩
    rcases mem_mapPut he with he | he
    · simp [he, hv]
    · exact w.2 e he

/-- A read after a write: the value written at its key, the old value at every other. -/
theorem mapGet_mapSet {β : Type} [DecidableEq β] {d : β} {m : List (Nat × β)} (i j : Nat) (v : β)
    (w : mapWf d m = true) : mapGet d (mapSet d m i v) j = if j = i then v else mapGet d m j := by
  simp only [mapWf, Bool.and_eq_true] at w
  simp only [mapSet, mapGet]
  by_cases hj : j = i
  · subst hj
    split
    · rename_i hv
      simp [mapFind_mapDel_same w.1, hv]
    · simp [mapFind_mapPut_same]
  · split
    · simp [mapFind_mapDel_other w.1 hj]
    · simp [mapFind_mapPut_other m v hj]

theorem mapSetMany_wf {β : Type} [DecidableEq β] {d : β} (vs : List β) :
    ∀ (m : List (Nat × β)) (i : Nat), mapWf d m = true → mapWf d (mapSetMany d m i vs) = true := by
  induction vs with
  | nil => intro m i w; exact w
  | cons v vs ih => intro m i w; exact ih _ _ (mapSet_wf i v w)

theorem mapGet_mapSetMany {β : Type} [DecidableEq β] {d : β} (vs : List β) :
    ∀ (m : List (Nat × β)) (i j : Nat), mapWf d m = true →
      mapGet d (mapSetMany d m i vs) j = if i ≤ j ∧ j < i + vs.length then vs.getD (j - i) d else mapGet d m j := by
  induction vs with
  | nil => intro m i j _; rw [if_neg (by simp only [List.length_nil]; omega)]; rfl
  | cons v vs ih =>
    intro m i j w
    simp only [mapSetMany]
    rw [ih _ _ _ (mapSet_wf i v w), mapGet_mapSet i j v w]
    by_cases h1 : j = i
    · subst h1
      rw [if_neg (by omega), if_pos rfl, if_pos (by simp)]
      simp
    · rw [if_neg h1]
      by_cases h2 : i + 1 ≤ j ∧ j < i + 1 + vs.length
      · rw [if_pos h2, if_pos (by simp only [List.length_cons]; omega)]
        obtain ⟨k, rfl⟩ : ∃ k, j = i + 1 + k := ⟨j - (i + 1), by omega⟩
        have e1 : i + 1 + k - (i + 1) = k := by omega
        have e2 : i + 1 + k - i = k + 1 := by omega
        simp [e1, e2]
      · rw [if_neg h2, if_neg (by simp only [List.length_cons]; omega)]

/-- A memory write keeps the canonical form. -/
@[simp] theorem memWrite_wf {m : Memory} (a : Nat) (d : List Byte) (w : m.wf = true) :
    Memory.wf (memWrite m a d) = true := mapSetMany_wf d m a w

/-- One byte after a write. -/
theorem memGet_memWrite {m : Memory} (a j : Nat) (d : List Byte) (w : m.wf = true) :
    memGet (memWrite m a d) j = if a ≤ j ∧ j < a + d.length then d.getD (j - a) 0 else memGet m j :=
  mapGet_mapSetMany d m a j w

@[simp] theorem memRead_length (m : Memory) (a n : Nat) : (memRead m a n).length = n := by
  simp [memRead, mapGetMany]

/-- Reading back what was written. -/
theorem memRead_memWrite {m : Memory} (a : Nat) (d : List Byte) (w : m.wf = true) :
    memRead (memWrite m a d) a d.length = d := by
  apply List.ext_getElem
  · simp
  · intro i h1 h2
    have h := memGet_memWrite a (a + i) d w
    simp only [memGet] at h
    simp only [memRead, mapGetMany, List.getElem_map, List.getElem_range, h]
    rw [if_pos (by omega)]
    simp [List.getD_eq_getElem?_getD, h2]

/-- Reading a range that a write does not touch. -/
theorem memRead_memWrite_other {m : Memory} {a b n : Nat} {d : List Byte} (w : m.wf = true)
    (h : b + n ≤ a ∨ a + d.length ≤ b) : memRead (memWrite m a d) b n = memRead m b n := by
  apply List.ext_getElem
  · simp
  · intro i h1 h2
    simp only [memRead_length] at h1
    have e := memGet_memWrite a (b + i) d w
    simp only [memGet] at e
    simp only [memRead, mapGetMany, List.getElem_map, List.getElem_range, e]
    rw [if_neg (by omega)]

/-- Clearing a range keeps the canonical form. -/
@[simp] theorem memClear_wf {m : Memory} (a n : Nat) (w : m.wf = true) : Memory.wf (memClear m a n) = true := by
  simp only [Memory.wf, mapWf, Bool.and_eq_true, List.all_eq_true] at w ⊢
  exact ⟨keysFrom_filter _ m 0 w.1, fun e he => w.2 e (List.mem_filter.1 he).1⟩

/-- So does a copy from any memory. -/
@[simp] theorem memMove_wf {m : Memory} (src : Memory) (a n b : Nat) (w : m.wf = true) :
    Memory.wf (memMove src a n m b) = true := by
  unfold memMove
  generalize src.filter _ = l
  have h : ∀ (l : Memory) (k : Memory), k.wf = true → Memory.wf (l.foldl
      (fun m e => mapSet (0 : Byte) m (b + (e.1 - a)) e.2) k) = true := by
    intro l
    induction l with
    | nil => exact fun _ h => h
    | cons e l ih => exact fun k hk => ih _ (mapSet_wf _ _ hk)
  exact h l _ (memClear_wf b n w)

@[simp] theorem empty_wf : Memory.wf [] = true := rfl

end Sys2Proof.Machine
end

