-- ==== Sys2Proof/Laws/Good.lean ====
section
/-!
SUPPORT. What every operation keeps: `Good s0 s` says that `s` has the waiting queue and the variant of `s0`, has cleared
no one-time-programmable bit of it, and is sound. One lemma per operation over the state.
-/
namespace Sys2Proof.Machine

/-- `Good` over the fields it speaks about. -/
def GoodF (s0 : State) (pending : List Instr) (variant : Nat) (nv : NonVol) (chans : List Chan) (dies : List Die)
    (hubMem : Memory) (st target level : Nat) (paceTo : Option Nat) (debug : Nat)
    (chal : Option (Nat × List Byte × Nat)) (recs : List LogRec) : Prop :=
  pending = s0.pending ∧ variant = s0.variant ∧ Grows s0.nv nv ∧ chans.length = 2 ∧ (∀ c ∈ chans, ChanOk c) ∧
    dies.map dieShape = dieShapes ∧ (∀ d ∈ dies, DieOk d) ∧ hubMem.wf = true ∧ ModesOk st target level paceTo debug chal ∧
    NvOk nv ∧ recs.length ≤ 8192

/-- What every operation keeps of `s0`. -/
def Good (s0 s : State) : Prop :=
  GoodF s0 s.pending s.variant s.nv s.chans s.dies s.dbg.hubMem s.pwr.st s.pwr.target s.pwr.level s.pwr.paceTo
    s.sec.debug s.sec.chal s.log.recs

variable {s0 s : State}

@[simp ↓] theorem good_mk (a1 a2 a3 a4 a5 a6 a7 a8 a9 a10 a11 a12 a13 a14 a15 a16 a17 a18 a19 a20 a21 a22 a23 a24
      a25 a26 a27 a28 a29 a30 a31 a32 a33 a34 a35 a36 a37 a38) :
        Good s0 (State.mk a1 a2 a3 a4 a5 a6 a7 a8 a9 a10 a11 a12 a13 a14 a15 a16 a17 a18 a19 a20 a21 a22 a23 a24 a25
      a26 a27 a28 a29 a30 a31 a32 a33 a34 a35 a36 a37 a38) =
        GoodF s0 a1 a3 a34 a7 a13 a37.hubMem a31.st a31.target a31.level a31.paceTo a35.debug a35.chal a12.recs :=
      id rfl

@[simp] theorem good_fold (s : State) :
    GoodF s0 s.pending s.variant s.nv s.chans s.dies s.dbg.hubMem s.pwr.st s.pwr.target s.pwr.level s.pwr.paceTo
      s.sec.debug s.sec.chal s.log.recs = Good s0 s := id rfl

@[simp ↓] theorem good_ite (c : Prop) [Decidable c] (a b : State) :
    Good s0 (if c then a else b) = ((c → Good s0 a) ∧ (¬ c → Good s0 b)) := by
  split <;> simp_all

@[simp ↓] theorem good_ite_fst {α : Type} (c : Prop) [Decidable c] (a b : State × α) :
    Good s0 (if c then a else b).1 = ((c → Good s0 a.1) ∧ (¬ c → Good s0 b.1)) := by
  split <;> simp_all

theorem mem_enumFrom {α : Type} {l : List α} {n : Nat} {x : Nat × α} (h : x ∈ enumFrom n l) : x.2 ∈ l := by
  induction l generalizing n with
  | nil => simp [enumFrom] at h
  | cons a l ih =>
    rcases List.mem_cons.1 h with rfl | h
    · exact List.mem_cons_self
    · exact List.mem_cons_of_mem _ (ih h)

@[simp] theorem enumFrom_length {α : Type} (l : List α) (n : Nat) : (enumFrom n l).length = l.length := by
  induction l generalizing n with
  | nil => rfl
  | cons a l ih => simp [enumFrom, ih]

theorem enumFrom_snd {α : Type} (l : List α) (n : Nat) : (enumFrom n l).map (·.2) = l := by
  induction l generalizing n with
  | nil => rfl
  | cons a l ih => simp [enumFrom, ih]

@[simp] theorem updAt_length {α : Type} (l : List α) (i : Nat) (f : α → α) : (updAt l i f).length = l.length := by
  induction l generalizing i with
  | nil => rfl
  | cons a l ih => cases i <;> simp [updAt, ih]

theorem updAt_all {α : Type} {P : α → Prop} {f : α → α} {l : List α} (h : ∀ x ∈ l, P x) (hf : ∀ x, P x → P (f x))
    (i : Nat) : ∀ x ∈ updAt l i f, P x := by
  induction l generalizing i with
  | nil => simp [updAt]
  | cons a l ih =>
    have h1 := List.forall_mem_cons.1 h
    cases i with
    | zero => exact List.forall_mem_cons.2 ⟨hf a h1.1, h1.2⟩
    | succ n => exact List.forall_mem_cons.2 ⟨h1.1, ih h1.2 n⟩

/-- A memory stays canonical. -/
def KeepM (a b : Memory) : Prop := a.wf = true → b.wf = true

/-- A 32-bit value stays one. -/
def KeepN (a b : Nat) : Prop := a < 2 ^ 32 → b < 2 ^ 32

/-- Memories of a list stay canonical. -/
def KeepL (a b : List Memory) : Prop := (∀ p ∈ a, Memory.wf p = true) → ∀ p ∈ b, Memory.wf p = true

/-- Memories of a map stay canonical. -/
def KeepR (a b : List (Nat × Memory)) : Prop := (∀ e ∈ a, Memory.wf e.2 = true) → ∀ e ∈ b, Memory.wf e.2 = true

/-- The keys of a map stay rising. -/
def KeepK {β : Type} (a b : List (Nat × β)) : Prop := keysFrom 0 a = true → keysFrom 0 b = true

@[simp] theorem keepK_self {β : Type} (a : List (Nat × β)) : KeepK a a := id
@[simp] theorem keepK_nil {β : Type} (a : List (Nat × β)) : KeepK a [] := fun _ => rfl
@[simp] theorem keepK_put {β : Type} (a : List (Nat × β)) (i : Nat) (v : β) : KeepK a (mapPut a i v) :=
  fun h => mapPut_keys v h (Nat.zero_le _)
@[simp] theorem keepK_del {β : Type} (a : List (Nat × β)) (i : Nat) : KeepK a (mapDel a i) := mapDel_keys i
@[simp] theorem keepK_filter {β : Type} (a : List (Nat × β)) (p : Nat × β → Bool) : KeepK a (a.filter p) :=
  keysFrom_filter p a 0
@[simp] theorem keepK_set {β : Type} [DecidableEq β] (d : β) (a : List (Nat × β)) (i : Nat) (v : β) :
    KeepK a (mapSet d a i v) := by
  unfold mapSet; split
  · exact keepK_del a i
  · exact keepK_put a i v

@[simp] theorem keepM_self (a : Memory) : KeepM a a := id
@[simp] theorem keepM_nil (a : Memory) : KeepM a [] := fun _ => rfl
@[simp] theorem keepM_write (a : Memory) (i : Nat) (d : List Byte) : KeepM a (memWrite a i d) := memWrite_wf i d
@[simp] theorem keepN_self (a : Nat) : KeepN a a := id
@[simp] theorem keepN_zero (a : Nat) : KeepN a 0 := fun _ => by decide
@[simp] theorem keepN_sat (a n : Nat) : KeepN a (sat32 n) := fun _ => by unfold sat32; omega
@[simp] theorem keepN_mod (a n : Nat) : KeepN a (n % 4294967296) := fun _ => Nat.mod_lt _ (by decide)
@[simp] theorem keepN_toNat (a : Nat) (v : BitVec 32) : KeepN a v.toNat := fun _ => v.isLt
@[simp] theorem keepL_self (a : List Memory) : KeepL a a := id
@[simp ↓] theorem keepL_reset (a : List Memory) {α : Type} (l : List α) : KeepL a (l.map (fun _ => [])) := fun _ p hp => by
  obtain ⟨_, _, rfl⟩ := List.mem_map.1 hp; rfl
@[simp] theorem keepL_upd (a : List Memory) (i : Nat) (f : Memory → Memory) (hf : ∀ m, KeepM m (f m)) :
    KeepL a (updAt a i f) := fun h => updAt_all h (fun m hm => hf m hm) i

theorem mapFind_mem {β : Type} {m : List (Nat × β)} {i : Nat} {v : β} (h : mapFind m i = some v) :
    ∃ e ∈ m, e.2 = v := by
  induction m with
  | nil => cases h
  | cons e m ih =>
    simp only [mapFind] at h
    split at h
    · exact ⟨e, List.mem_cons_self, Option.some.inj h⟩
    · split at h
      · cases h
      · obtain ⟨x, hx, hv⟩ := ih h
        exact ⟨x, List.mem_cons_of_mem _ hx, hv⟩

@[simp] theorem keepR_self (a : List (Nat × Memory)) : KeepR a a := id
@[simp] theorem keepR_nil (a : List (Nat × Memory)) : KeepR a [] := fun _ _ h => by cases h
theorem keepR_put (a : List (Nat × Memory)) (i : Nat) (m : Memory) (h : (∀ e ∈ a, Memory.wf e.2 = true) → m.wf = true) :
    KeepR a (mapPut a i m) := fun w e he => by
  rcases mem_mapPut he with he | he
  · rw [he]; exact h w
  · exact w e he
@[simp] theorem keepR_write (a : List (Nat × Memory)) (i x : Nat) (d : List Byte) :
    KeepR a (mapPut a i (memWrite ((mapFind a i).getD []) x d)) := by
  apply keepR_put
  intro w
  apply memWrite_wf
  cases h : mapFind a i with
  | none => rfl
  | some v =>
    obtain ⟨e, he, rfl⟩ := mapFind_mem h
    exact w e he

/-- A channel stays sound. -/
def KeepC (a b : Chan) : Prop :=
    KeepM a.mem b.mem ∧ KeepN a.prod b.prod ∧ KeepN a.cons b.cons ∧ KeepN a.unbacked b.unbacked ∧ KeepN a.roWrites
      b.roWrites ∧ KeepN a.unsupported b.unsupported ∧ KeepN a.latencyErr b.latencyErr ∧ KeepN a.sramUe b.sramUe ∧
      KeepN a.refused b.refused ∧ KeepN a.busySeals b.busySeals ∧ KeepN a.consumerInvalid b.consumerInvalid ∧ KeepN
      a.lost b.lost ∧ KeepK a.rows b.rows ∧ KeepK a.seqs b.seqs ∧ KeepK a.winSeq b.winSeq

/-- A die stays sound. -/
def KeepD (a b : Die) : Prop :=
  KeepM a.mem b.mem ∧ KeepL a.pads b.pads ∧ KeepR a.sram b.sram ∧ KeepK a.units b.units ∧ b.pens.length = a.pens.length ∧
    b.stalls.length = a.stalls.length ∧ b.links.length = a.links.length ∧ b.pads.length = a.pads.length ∧
    b.engines.length = a.engines.length ∧ b.mmc.length = a.mmc.length

@[simp] theorem keepC_self (a : Chan) : KeepC a a := by simp [KeepC]
@[simp] theorem keepD_self (a : Die) : KeepD a a := by simp [KeepD]

@[simp ↓] theorem keepC_mk (a : Chan) (a1 a2 a3 a4 a5 a6 a7 a8 a9 a10 a11 a12 a13 a14 a15 a16 a17 a18 a19 a20 a21
      a22 a23 a24 a25 a26 a27 a28 a29 a30) :
        KeepC a (Chan.mk a1 a2 a3 a4 a5 a6 a7 a8 a9 a10 a11 a12 a13 a14 a15 a16 a17 a18 a19 a20 a21 a22 a23 a24 a25
      a26 a27 a28 a29 a30) =
            (KeepM a.mem a8 ∧ KeepN a.prod a21 ∧ KeepN a.cons a22 ∧ KeepN a.unbacked a13 ∧ KeepN a.roWrites a14 ∧
      KeepN a.unsupported a15 ∧ KeepN a.latencyErr a16 ∧ KeepN a.sramUe a17 ∧ KeepN a.refused a18 ∧ KeepN
      a.busySeals a19 ∧ KeepN a.consumerInvalid a20 ∧ KeepN a.lost a24 ∧ KeepK a.rows a7 ∧
      KeepK a.seqs a26 ∧ KeepK a.winSeq a30) := id rfl

@[simp ↓] theorem keepD_mk (a : Die) (a1 a2 a3 a4 a5 a6 a7 a8 a9 a10 a11 a12 a13 a14 a15 a16 a17 a18 a19 a20 a21 a22
      a23 a24 a25 a26 a27 a28 a29 a30 a31 a32 a33 a34 a35 a36) :
        KeepD a (Die.mk a1 a2 a3 a4 a5 a6 a7 a8 a9 a10 a11 a12 a13 a14 a15 a16 a17 a18 a19 a20 a21 a22 a23 a24 a25
      a26 a27 a28 a29 a30 a31 a32 a33 a34 a35 a36) = (KeepM a.mem a26 ∧ KeepL a.pads a23 ∧ KeepR a.sram a31 ∧ KeepK a.units a6 ∧
      a4.length = a.pens.length ∧ a5.length = a.stalls.length ∧ a10.length = a.links.length ∧
      a23.length = a.pads.length ∧ a24.length = a.engines.length ∧ a25.length = a.mmc.length) := id rfl

@[simp ↓] theorem keepC_ite (a : Chan) (c : Prop) [Decidable c] (x y : Chan) :
    KeepC a (if c then x else y) = ((c → KeepC a x) ∧ (¬ c → KeepC a y)) := by
  split <;> simp_all

@[simp ↓] theorem keepD_ite (a : Die) (c : Prop) [Decidable c] (x y : Die) :
    KeepD a (if c then x else y) = ((c → KeepD a x) ∧ (¬ c → KeepD a y)) := by
  split <;> simp_all

theorem KeepC.ok {a b : Chan} (h : KeepC a b) (ha : ChanOk a) : ChanOk b := by
  simp only [KeepC, KeepM, KeepN, KeepK, ChanOk] at *
  exact ⟨h.1 ha.1, h.2.1 ha.2.1, h.2.2.1 ha.2.2.1, by simp_all⟩

theorem KeepD.ok {a b : Die} (h : KeepD a b) (ha : DieOk a) : DieOk b :=
  ⟨h.1 ha.1, h.2.1 ha.2.1, h.2.2.1 ha.2.2.1, h.2.2.2.1 ha.2.2.2⟩

theorem KeepD.shape {a b : Die} (h : KeepD a b) : dieShape b = dieShape a := by
  obtain ⟨_, _, _, _, h4, h5, h6, h7, h8, h9⟩ := h
  simp [dieShape, h4, h5, h6, h7, h8, h9]

theorem map_updAt {α β : Type} (g : α → β) (f : α → α) (hf : ∀ x, g (f x) = g x) (l : List α) (i : Nat) :
    (updAt l i f).map g = l.map g := by
  induction l generalizing i with
  | nil => rfl
  | cons a l ih => cases i <;> simp [updAt, ih, hf]

@[simp ↓] theorem good_modDie (d : Nat) (f : Die → Die) (hf : ∀ x, KeepD x (f x)) (h : Good s0 s) :
    Good s0 (modDie s d f) := by
  unfold Good GoodF at *
  simp only [modDie, map_updAt dieShape f (fun x => (hf x).shape)]
  exact ⟨h.1, h.2.1, h.2.2.1, h.2.2.2.1, h.2.2.2.2.1, h.2.2.2.2.2.1,
    updAt_all h.2.2.2.2.2.2.1 (fun x hx => (hf x).ok hx) d, h.2.2.2.2.2.2.2⟩

@[simp ↓] theorem good_modChan (ch : Nat) (f : Chan → Chan) (hf : ∀ x, KeepC x (f x)) (h : Good s0 s) :
    Good s0 (modChan s ch f) := by
  unfold Good GoodF at *
  simp only [modChan, updAt_length]
  exact ⟨h.1, h.2.1, h.2.2.1, h.2.2.2.1, updAt_all h.2.2.2.2.1 (fun x hx => (hf x).ok hx) ch, h.2.2.2.2.2⟩

@[simp] theorem good_mapDies (f : Die → Die) (hf : ∀ x, KeepD x (f x)) (h : Good s0 s) :
    GoodF s0 s.pending s.variant s.nv s.chans (s.dies.map f) s.dbg.hubMem s.pwr.st s.pwr.target s.pwr.level
      s.pwr.paceTo s.sec.debug s.sec.chal s.log.recs := by
  obtain ⟨h0, h1, h2, h3, h4, h5, h6, h7⟩ := h
  refine ⟨h0, h1, h2, h3, h4, ?_, fun d hd => ?_, h7⟩
  · rw [List.map_map, ← h5]; exact List.map_congr_left (fun x _ => (hf x).shape)
  · obtain ⟨x, hx, rfl⟩ := List.mem_map.1 hd
    exact (hf x).ok (h6 x hx)

@[simp] theorem good_mapChans (f : Chan → Chan) (hf : ∀ x, KeepC x (f x)) (h : Good s0 s) :
    GoodF s0 s.pending s.variant s.nv (s.chans.map f) s.dies s.dbg.hubMem s.pwr.st s.pwr.target s.pwr.level
      s.pwr.paceTo s.sec.debug s.sec.chal s.log.recs := by
  obtain ⟨h0, h1, h2, h3, h4, h7⟩ := h
  refine ⟨h0, h1, h2, by rw [List.length_map]; exact h3, fun d hd => ?_, h7⟩
  obtain ⟨x, hx, rfl⟩ := List.mem_map.1 hd
  exact (hf x).ok (h4 x hx)

@[simp] theorem good_enumDies (f : Nat × Die → Die) (hf : ∀ x, KeepD x.2 (f x)) (h : Good s0 s) :
    GoodF s0 s.pending s.variant s.nv s.chans ((enumFrom 0 s.dies).map f) s.dbg.hubMem s.pwr.st s.pwr.target
      s.pwr.level s.pwr.paceTo s.sec.debug s.sec.chal s.log.recs := by
  obtain ⟨h0, h1, h2, h3, h4, h5, h6, h7⟩ := h
  refine ⟨h0, h1, h2, h3, h4, ?_, fun d hd => ?_, h7⟩
  · rw [List.map_map, ← h5]
    conv => rhs; rw [← enumFrom_snd s.dies 0, List.map_map]
    exact List.map_congr_left (fun x _ => (hf x).shape)
  · obtain ⟨x, hx, rfl⟩ := List.mem_map.1 hd
    exact (hf x).ok (h6 x.2 (mem_enumFrom hx))

theorem keepL_foldl {α : Type} (a : List Memory) (f : List Memory → α → List Memory) (hf : ∀ x y, KeepL x (f x y))
    (l : List α) : KeepL a (l.foldl f a) := by
  induction l generalizing a with
  | nil => exact keepL_self a
  | cons y l ih => exact fun h => ih (f a y) (hf a y h)

theorem foldl_length {α β : Type} (f : List β → α → List β) (hf : ∀ x y, (f x y).length = x.length) (l : List α) :
    ∀ a : List β, (l.foldl f a).length = a.length := by
  induction l with
  | nil => exact fun _ => rfl
  | cons y l ih => exact fun a => (ih _).trans (hf a y)

theorem good_getD {o : Option State} (ho : ∀ t, o = some t → Good s0 t) (h : Good s0 s) : Good s0 (o.getD s) := by
  cases o with
  | none => exact h
  | some t => exact ho t rfl

/-- The power modes stay legal. -/
theorem good_pwr {st target level : Nat} {paceTo : Option Nat} (h : Good s0 s) (h1 : st ≤ 4) (h2 : target ≤ 4)
    (h3 : level ≤ 2) (h4 : ∀ l, paceTo = some l → l ≤ 2) :
    GoodF s0 s.pending s.variant s.nv s.chans s.dies s.dbg.hubMem st target level paceTo s.sec.debug s.sec.chal
      s.log.recs := by
  obtain ⟨g0, g1, g2, g3, g4, g5, g6, g7, ⟨_, _, _, _, m⟩, g9⟩ := h
  exact ⟨g0, g1, g2, g3, g4, g5, g6, g7, ⟨h1, h2, h3, h4, m⟩, g9⟩

theorem Good.modes (h : Good s0 s) : ModesOk s.pwr.st s.pwr.target s.pwr.level s.pwr.paceTo s.sec.debug s.sec.chal :=
  h.2.2.2.2.2.2.2.2.1

theorem Good.otp (h : Good s0 s) : NvOk s.nv := h.2.2.2.2.2.2.2.2.2.1

theorem Good.grows (h : Good s0 s) : Grows s0.nv s.nv := h.2.2.1

/-- The debug level and the open challenge stay legal. -/
theorem good_debug {debug : Nat} {chal : Option (Nat × List Byte × Nat)} (h : Good s0 s) (h1 : debug ≤ 2)
    (h2 : ∀ c, chal = some c → c.1 ≤ 2) :
    GoodF s0 s.pending s.variant s.nv s.chans s.dies s.dbg.hubMem s.pwr.st s.pwr.target s.pwr.level s.pwr.paceTo
      debug chal s.log.recs := by
  obtain ⟨g0, g1, g2, g3, g4, g5, g6, g7, ⟨m1, m2, m3, m4, _⟩, g9⟩ := h
  exact ⟨g0, g1, g2, g3, g4, g5, g6, g7, ⟨m1, m2, m3, m4, h1, h2⟩, g9⟩

@[simp] theorem good_locked (h : Good s0 s) :
    GoodF s0 s.pending s.variant s.nv s.chans s.dies s.dbg.hubMem s.pwr.st s.pwr.target s.pwr.level s.pwr.paceTo 0
      s.sec.chal s.log.recs := good_debug h (Nat.zero_le _) h.modes.2.2.2.2.2

@[simp] theorem good_noChal (h : Good s0 s) :
    GoodF s0 s.pending s.variant s.nv s.chans s.dies s.dbg.hubMem s.pwr.st s.pwr.target s.pwr.level s.pwr.paceTo
      s.sec.debug none s.log.recs := good_debug h h.modes.2.2.2.2.1 (fun _ hc => by cases hc)

theorem Grows.trans {a b c : NonVol} (h : Grows a b) (g : Grows b c) : Grows a c :=
  ⟨fun v hv => g.1 v (h.1 v hv), fun x => g.2.1 (h.2.1 x), fun x => g.2.2.1 (h.2.2.1 x),
    Nat.le_trans h.2.2.2.1 g.2.2.2.1, Nat.le_trans h.2.2.2.2.1 g.2.2.2.2.1,
    fun k hk => g.2.2.2.2.2 k (h.2.2.2.2.2 k hk)⟩

theorem Grows.refl (nv : NonVol) : Grows nv nv :=
  ⟨fun _ h => h, fun h => h, fun h => h, Nat.le_refl _, Nat.le_refl _, fun _ h => h⟩

/-- The one-time-programmable fields grow and stay within their widths. -/
theorem good_nv {nv : NonVol} (h : Good s0 s) (hg : NvOk s.nv → Grows s.nv nv ∧ NvOk nv) :
    GoodF s0 s.pending s.variant nv s.chans s.dies s.dbg.hubMem s.pwr.st s.pwr.target s.pwr.level s.pwr.paceTo
      s.sec.debug s.sec.chal s.log.recs := by
  have hn := hg h.otp
  obtain ⟨g0, g1, g2, g3, g4, g5, g6, g7, g8, g9, g10⟩ := h
  exact ⟨g0, g1, g2.trans hn.1, g3, g4, g5, g6, g7, g8, hn.2, g10⟩

theorem good_foldl {α : Type} (f : State → α → State) (hf : ∀ s a, Good s0 s → Good s0 (f s a)) (l : List α) :
    ∀ s, Good s0 s → Good s0 (l.foldl f s) := by
  induction l with
  | nil => exact fun _ h => h
  | cons a l ih => exact fun s h => ih _ (hf s a h)

theorem good_foldl_fst {α β : Type} (f : State × β → α → State × β)
    (hf : ∀ r a, Good s0 r.1 → Good s0 (f r a).1) (l : List α) :
    ∀ r : State × β, Good s0 r.1 → Good s0 (l.foldl f r).1 := by
  induction l with
  | nil => exact fun _ h => h
  | cons a l ih => exact fun r h => ih _ (hf r a h)

theorem good_foldl_snd {α β : Type} (f : β × State → α → β × State)
    (hf : ∀ r a, Good s0 r.2 → Good s0 (f r a).2) (l : List α) :
    ∀ r : β × State, Good s0 r.2 → Good s0 (l.foldl f r).2 := by
  induction l with
  | nil => exact fun _ h => h
  | cons a l ih => exact fun r h => ih _ (hf r a h)

@[simp ↓] theorem good_foldl' {α : Type} (f : State → α → State) (l : List α)
    (hf : ∀ s a, Good s0 s → Good s0 (f s a)) (h : Good s0 s) : Good s0 (l.foldl f s) := good_foldl f hf l s h

@[simp ↓] theorem good_foldl_fst' {α β : Type} (f : State × β → α → State × β) (l : List α) {r : State × β}
    (hf : ∀ r a, Good s0 r.1 → Good s0 (f r a).1) (h : Good s0 r.1) : Good s0 (l.foldl f r).1 :=
  good_foldl_fst f hf l r h

@[simp ↓] theorem good_freeNat (h : Good s0 s) : Good s0 (freeNat s).2 := by
  simp [freeNat, h]

@[simp ↓] theorem good_freeBytes (n : Nat) (h : Good s0 s) : Good s0 (freeBytes s n).2 := by
  simp [freeBytes, h]

end Sys2Proof.Machine
end

