-- ==== Sys2Proof/Laws/Operations.lean ====
section
/-!
SUPPORT. What every operation over the state keeps (`Good`): one lemma per operation, in the order of the files of
Machine/.
-/
namespace Sys2Proof.Machine

variable {s0 : State}

set_option linter.unusedSimpArgs false
set_option linter.unusedVariables false

/-! ## Ops -/

@[simp ↓] theorem setNote_good (s : State) (slot n : Nat) (hg : Good s0 s) :
    Good s0 (setNote s slot n) := by
  simp +contextual (maxDischargeDepth := 99) [setNote, hg]

@[simp ↓] theorem keepC_devWriteUnit (a : Chan) (unit : Nat) (d : List Byte) : KeepC a (devWriteUnit a unit d) := by
  simp [devWriteUnit]

theorem KeepC.trans {a b c : Chan} (h : KeepC a b) (g : KeepC b c) : KeepC a c := by
  obtain ⟨h0, h1, h2, h3, h4, h5, h6, h7, h8, h9, h10, h11, h12, h13, h14⟩ := h
  obtain ⟨g0, g1, g2, g3, g4, g5, g6, g7, g8, g9, g10, g11, g12, g13, g14⟩ := g
  exact ⟨g0 ∘ h0, g1 ∘ h1, g2 ∘ h2, g3 ∘ h3, g4 ∘ h4, g5 ∘ h5, g6 ∘ h6, g7 ∘ h7, g8 ∘ h8, g9 ∘ h9, g10 ∘ h10, g11 ∘
    h11, g12 ∘ h12, g13 ∘ h13, g14 ∘ h14⟩

theorem keepC_devWrite' (n : Nat) : ∀ (c : Chan) (off : Nat) (d : List Byte), KeepC c (devWrite n c off d) := by
  induction n with
  | zero => exact fun c _ _ => keepC_self c
  | succ n ih => exact fun c off d => (keepC_devWriteUnit c _ _).trans (ih _ _ _)

@[simp ↓] theorem keepC_devWrite (n : Nat) (c : Chan) (off : Nat) (d : List Byte) : KeepC c (devWrite n c off d) :=
  keepC_devWrite' n c off d

@[simp ↓] theorem cfgPut_good (s : State) (reg idx v : Nat) (hg : Good s0 s) :
    Good s0 (cfgPut s reg idx v) := by
  simp +contextual (maxDischargeDepth := 99) [cfgPut, hg]

@[simp ↓] theorem cntAdd_good (s : State) (reg idx n : Nat) (hg : Good s0 s) :
    Good s0 (cntAdd s reg idx n) := by
  simp +contextual (maxDischargeDepth := 99) [cntAdd, hg]

@[simp ↓] theorem cntMax_good (s : State) (reg idx n : Nat) (hg : Good s0 s) :
    Good s0 (cntMax s reg idx n) := by
  simp +contextual (maxDischargeDepth := 99) [cntMax, hg]

@[simp ↓] theorem cntUnits_good (s : State) (reg idx unit n : Nat) (hg : Good s0 s) :
    Good s0 (cntUnits s reg idx unit n) := by
  simp +contextual (maxDischargeDepth := 99) [cntUnits, hg]

@[simp ↓] theorem ctxCnt_good (s : State) (reg ctx n k : Nat) (hg : Good s0 s) :
    Good s0 (ctxCnt s reg ctx n k) := by
  simp +contextual (maxDischargeDepth := 99) [ctxCnt, hg]

@[simp ↓] theorem freeNat_good (s : State) (hg : Good s0 s) :
    Good s0 (freeNat s).2 := by
  simp +contextual (maxDischargeDepth := 99) [freeNat, hg]

@[simp ↓] theorem freeBytes_good (s : State) (n : Nat) (hg : Good s0 s) :
    Good s0 (freeBytes s n).2 := by
  simp +contextual (maxDischargeDepth := 99) [freeBytes, hg]

@[simp ↓] theorem apertureWrite_good (s : State) (ch off : Nat) (d : List Byte) (hg : Good s0 s) :
    Good s0 (apertureWrite s ch off d) := by
  simp +contextual (maxDischargeDepth := 99) [apertureWrite, hg]

@[simp ↓] theorem hintUpdate_good (s : State) (hg : Good s0 s) :
    Good s0 (hintUpdate s) := by
  simp +contextual (maxDischargeDepth := 99) [hintUpdate, hg]

@[simp ↓] theorem writePennant_good (s : State) (ch : Nat) (x : Pennant) (h : Good s0 s) :
    Good s0 (writePennant s ch x) := by
  simp (maxDischargeDepth := 99) [writePennant, devWriteUnit, h]

@[simp ↓] theorem flushMarker_good (s : State) (ch : Nat) (hg : Good s0 s) :
    Good s0 (flushMarker s ch) := by
  simp +contextual (maxDischargeDepth := 99) [flushMarker, hg]

@[simp ↓] theorem reservedPennant_good (s : State) (ch : Nat) (x : Pennant) (hg : Good s0 s) :
    Good s0 (reservedPennant s ch x) := by
  simp +contextual (maxDischargeDepth := 99) [reservedPennant, hg]

@[simp ↓] theorem looseP_good (s : State) (ch : Nat) (x : Pennant) (hg : Good s0 s) :
    Good s0 (looseP s ch x) := by
  simp +contextual (maxDischargeDepth := 99) [looseP, hg]

theorem length_lastN {α : Type} (n : Nat) (l : List α) : (keepLast n l).length ≤ n := by
  rw [keepLast, List.length_drop]; omega

theorem good_recs {recs : List LogRec} (h : Good s0 s) (hr : recs.length ≤ 8192) :
    GoodF s0 s.pending s.variant s.nv s.chans s.dies s.dbg.hubMem s.pwr.st s.pwr.target s.pwr.level s.pwr.paceTo
      s.sec.debug s.sec.chal recs := by
  obtain ⟨h0, h1, h2, h3, h4, h5, h6, h7, h8, h9, _⟩ := h
  exact ⟨h0, h1, h2, h3, h4, h5, h6, h7, h8, h9, hr⟩

theorem good_lastRecs (h : Good s0 s) (l : List LogRec) :
    GoodF s0 s.pending s.variant s.nv s.chans s.dies s.dbg.hubMem s.pwr.st s.pwr.target s.pwr.level s.pwr.paceTo
      s.sec.debug s.sec.chal (keepLast 8192 l) := by
  have := length_lastN 8192 l
  exact good_recs h this

@[simp ↓] theorem logEvent_good (s : State) (e : Ev) (h : Good s0 s) :
    Good s0 (logEvent s e) := by
  unfold logEvent
  rw [good_mk]
  dsimp only
  exact good_lastRecs h _

@[simp ↓] theorem ringEvent_good (s : State) (e : Ev) (h : Good s0 s) :
    Good s0 (ringEvent s e) := by
  simp only [ringEvent]
  generalize hs : (if e.limited = true then
    ({ s with log := { s.log with ring := mapPut s.log.ring e.key s.raw } } : State) else s) = t
  have h1 : Good s0 t := by rw [← hs]; simp [h]
  repeat' split
  all_goals simp (maxDischargeDepth := 99) [h, h1]

@[simp ↓] theorem raiseOne_good (s : State) (e : Ev) (hg : Good s0 s) :
    Good s0 (raiseOne s e) := by
  simp +contextual (maxDischargeDepth := 99) [raiseOne, hg]

@[simp ↓] theorem raise_good (s : State) (l : List Ev) (hg : Good s0 s) :
    Good s0 (raise s l) := by
  simp +contextual (maxDischargeDepth := 99) [raise, hg]

@[simp ↓] theorem markStarted_good (s : State) (slot : Nat) (hg : Good s0 s) :
    Good s0 (markStarted s slot) := by
  simp +contextual (maxDischargeDepth := 99) [markStarted, hg]

@[simp ↓] theorem complete_good (s : State) (c : Cmd) (status : Nat) (body : List Byte) (hg : Good s0 s) :
    Good s0 (complete s c status body) := by
  simp +contextual (maxDischargeDepth := 99) [complete, hg]

@[simp ↓] theorem completeSlot_good (s : State) (slot status : Nat) (body : List Byte) (hg : Good s0 s) :
    Good s0 (completeSlot s slot status body) := by
  unfold completeSlot
  split <;> simp +contextual (maxDischargeDepth := 99) [hg]

@[simp ↓] theorem withCmd_good (code slot : Nat) (s : State) (f : Cmd → State → State × CmdRes)
    (hf : ∀ c t, Good s0 t → Good s0 (f c t).1) (h : Good s0 s) : Good s0 (withCmd code slot s f) := by
  unfold withCmd
  split
  · exact h
  · rename_i c _
    have h1 := hf c _ (markStarted_good s slot h)
    dsimp only
    split <;> simp (maxDischargeDepth := 99) [h1]

@[simp ↓] theorem fail_good (s : State) (st : Nat) (hg : Good s0 s) :
    Good s0 (fail s st).1 := by
  simp +contextual (maxDischargeDepth := 99) [fail, hg]

@[simp ↓] theorem putFrame_good (s : State) (f : Frame) (hg : Good s0 s) :
    Good s0 (putFrame s f) := by
  simp +contextual (maxDischargeDepth := 99) [putFrame, hg]

@[simp ↓] theorem putCtx_good (s : State) (c : Ctx) (hg : Good s0 s) :
    Good s0 (putCtx s c) := by
  simp +contextual (maxDischargeDepth := 99) [putCtx, hg]

/-! ## Mailbox -/

@[simp ↓] theorem answerSeal_good (s : State) (slot status seq : Nat) (hg : Good s0 s) :
    Good s0 (answerSeal s slot status seq) := by
  simp +contextual (maxDischargeDepth := 99) [answerSeal, hg]

@[simp ↓] theorem acceptSeal_good (s : State) (slot : Nat) (b : List Byte) (hg : Good s0 s) :
    Good s0 (acceptSeal s slot b) := by
  simp +contextual (maxDischargeDepth := 99) [acceptSeal, hg]

@[simp ↓] theorem decideSeal_good (s : State) (slot : Nat) (b : List Byte) (hg : Good s0 s) :
    Good s0 (decideSeal s slot b) := by
  simp +contextual (maxDischargeDepth := 99) [decideSeal, hg]

@[simp ↓] theorem sealEval_good (s : State) (slot : Nat) (hg : Good s0 s) :
    Good s0 (sealEval s slot) := by
  simp +contextual (maxDischargeDepth := 99) [sealEval, hg]

@[simp ↓] theorem takeConsumer_good (s : State) (ch v : Nat) (hv : v < 4294967296) (h : Good s0 s) :
    Good s0 (takeConsumer s ch v) := by
  have hk : ∀ a, KeepN a v := fun _ _ => hv
  simp (maxDischargeDepth := 99) [takeConsumer, h, hk]

/-! ## Extents -/

@[simp ↓] theorem addAlloc_good (s : State) (d : Nat) (a : Alloc) (hg : Good s0 s) :
    Good s0 (addAlloc s d a) := by
  simp +contextual (maxDischargeDepth := 99) [addAlloc, hg]

@[simp ↓] theorem allocateLines_good (s : State) (d t grp : Nat) (owner : List Nat) (n : Nat) (hg : Good s0 s) :
    Good s0 (allocateLines s d t grp owner n) := by
  simp +contextual (maxDischargeDepth := 99) [allocateLines, hg]

@[simp ↓] theorem release_good (s : State) (owner : List Nat) (p : Nat → Bool) (hg : Good s0 s) :
    Good s0 (release s owner p) := by
  unfold release
  rw [good_mk]
  refine good_enumDies _ (fun x => ?_) hg
  dsimp only
  split
  · simp
  · exact keepD_self _

theorem allocate_good {u : State} (s : State) (d t grp : Nat) (owner : List Nat) (n : Nat)
    (h : allocate s d t grp owner n = some u) (hg : Good s0 s) : Good s0 u := by
  unfold allocate at h
  split at h
  · cases h; exact hg
  · obtain ⟨b, _, rfl⟩ := Option.map_eq_some_iff.1 h
    exact addAlloc_good _ _ _ hg

theorem allocateAll_good {u : State} (t grp : Nat) (owner : List Nat) (n : Nat) (l : List Nat) :
    ∀ s, allocateAll t grp owner n l s = some u → Good s0 s → Good s0 u := by
  induction l with
  | nil => intro s h hg; cases h; exact hg
  | cons d l ih =>
    intro s h hg
    obtain ⟨v, hv, h⟩ := Option.bind_eq_some_iff.1 h
    exact ih v h (allocate_good _ _ _ _ _ _ hv hg)

/-! ## RegRead -/

@[simp ↓] theorem regRead_good (s : State) (reg i : Nat) (hg : Good s0 s) :
    Good s0 (regRead s reg i).2 := by
  unfold regRead
  split <;> simp +contextual (maxDischargeDepth := 99) [hg]

/-! ## LifeLog -/

@[simp ↓] theorem lifeWrite_good (s : State) (typ die : Nat) (fields : List Nat) (ok : Bool) (hg : Good s0 s) :
    Good s0 (lifeWrite s typ die fields ok).1 := by
  simp +contextual (maxDischargeDepth := 99) [lifeWrite, hg]

@[simp ↓] theorem lifeWriteAll_good (s : State) (ok : Bool) (l : List (Nat × Nat × List Nat)) (hg : Good s0 s) :
    Good s0 (lifeWriteAll s ok l).1 := by
  simp +contextual (maxDischargeDepth := 99) [lifeWriteAll, hg]

@[simp ↓] theorem lifeEvent_good (s : State) (typ die : Nat) (fields : List Nat) (hg : Good s0 s) :
    Good s0 (lifeEvent s typ die fields).1 := by
  simp +contextual (maxDischargeDepth := 99) [lifeEvent, hg]

@[simp ↓] theorem modTot_good (s : State) (d : Nat) (f : DieTot → DieTot) (hg : Good s0 s) :
    Good s0 (modTot s d f) := by
  simp +contextual (maxDischargeDepth := 99) [modTot, hg]

@[simp ↓] theorem writeCheckpoint_good (s : State) (ok : Bool) (hg : Good s0 s) :
    Good s0 (writeCheckpoint s ok).1 := by
  simp +contextual (maxDischargeDepth := 99) [writeCheckpoint, hg]

@[simp ↓] theorem noteFlash_good (s : State) (ok : Bool) (hg : Good s0 s) :
    Good s0 (noteFlash s ok) := by
  simp +contextual (maxDischargeDepth := 99) [noteFlash, hg]

@[simp ↓] theorem lifeBytes_good (s : State) (r : LifeRec) (hg : Good s0 s) :
    Good s0 (lifeBytes s r).2 := by
  unfold lifeBytes
  split <;> simp +contextual (maxDischargeDepth := 99) [hg]

@[simp ↓] theorem lifeBytesAll_good (s : State) (l : List LifeRec) (hg : Good s0 s) :
    Good s0 (lifeBytesAll s l).2 := by
  unfold lifeBytesAll
  repeat' first
    | (simp +contextual (maxDischargeDepth := 99) [*]; done)
    | dsimp only
    | refine andThen_good _ _ (fun t h => ?_) ?_
    | refine good_foldl _ (fun t a h => ?_) _ _ ?_
    | refine good_foldl_fst _ (fun t a h => ?_) _ _ ?_
    | refine good_foldl_snd _ (fun t a h => ?_) _ _ ?_
    | split

@[simp ↓] theorem logReadBody_good (s : State) (last : Option Nat) (n oldest : Nat) (hg : Good s0 s) :
    Good s0 (logReadBody s last n oldest).2 := by
  unfold logReadBody
  split <;> simp +contextual (maxDischargeDepth := 99) [hg]

@[simp ↓] theorem lifelogReadCmd_good (c : Cmd) (s : State) (hg : Good s0 s) :
    Good s0 (lifelogReadCmd c s).1 := by
  simp +contextual (maxDischargeDepth := 99) [lifelogReadCmd, hg]

@[simp ↓] theorem eventLogReadCmd_good (c : Cmd) (s : State) (hg : Good s0 s) :
    Good s0 (eventLogReadCmd c s).1 := by
  simp +contextual (maxDischargeDepth := 99) [eventLogReadCmd, hg]

@[simp ↓] theorem closeYear_good (ok : Bool) (a : State × List Ev) (d : Nat) (hg : Good s0 a.1) :
    Good s0 (closeYear ok a d).1 := by
  simp +contextual (maxDischargeDepth := 99) [closeYear, hg]

@[simp ↓] theorem loadLife_good (s : State) (hg : Good s0 s) :
    Good s0 (loadLife s).1 := by
  simp only [loadLife]
  (repeat' split) <;> simp +contextual (maxDischargeDepth := 99) [hg, *]

/-! ## Fences -/

@[simp ↓] theorem handOver_good (s : State) (d : Nat) (hg : Good s0 s) :
    Good s0 (handOver s d) := by
  simp +contextual (maxDischargeDepth := 99) [handOver, hg]

@[simp ↓] theorem modSelf_good (s : State) (d : Nat) (f : SelfTest → SelfTest) (hg : Good s0 s) :
    Good s0 (modSelf s d f) := by
  simp +contextual (maxDischargeDepth := 99) [modSelf, hg]

@[simp ↓] theorem setPen_good (s : State) (d p : Nat) (f : UnitSt → UnitSt) (hg : Good s0 s) :
    Good s0 (setPen s d p f) := by
  simp +contextual (maxDischargeDepth := 99) [setPen, hg]

@[simp ↓] theorem moveRole_good (s : State) (d : Nat) (hg : Good s0 s) :
    Good s0 (moveRole s d) := by
  simp only [moveRole]
  (repeat' split) <;> simp +contextual (maxDischargeDepth := 99) [hg, *]

@[simp ↓] theorem moveRoleEv_good (s : State) (d : Nat) (hg : Good s0 s) :
    Good s0 (moveRoleEv s d).1 := by
  simp +contextual (maxDischargeDepth := 99) [moveRoleEv, hg]

@[simp ↓] theorem rotationCheck_good (s : State) (d : Nat) (hg : Good s0 s) :
    Good s0 (rotationCheck s d).1 := by
  simp +contextual (maxDischargeDepth := 99) [rotationCheck, hg]

@[simp ↓] theorem penLeaves_good (s : State) (d p : Nat) (hg : Good s0 s) :
    Good s0 (penLeaves s d p).1 := by
  simp +contextual (maxDischargeDepth := 99) [penLeaves, hg]

@[simp ↓] theorem cutPorts_good (s : State) (d : Nat) (out : Nat → Bool) (hg : Good s0 s) :
    Good s0 (cutPorts s d out) := by
  simp +contextual (maxDischargeDepth := 99) [cutPorts, hg]

@[simp ↓] theorem markClear_good (s : State) (d : Nat) (pen : Option Nat) (hg : Good s0 s) :
    Good s0 (markClear s d pen) := by
  unfold markClear
  split <;> simp +contextual (maxDischargeDepth := 99) [hg]

@[simp ↓] theorem fencePen_good (s : State) (d p code : Nat) (hg : Good s0 s) :
    Good s0 (fencePen s d p code).1 := by
  simp +contextual (maxDischargeDepth := 99) [fencePen, hg]

@[simp ↓] theorem fenceStall_good (s : State) (d i : Nat) (u : UnitSt) (hg : Good s0 s) :
    Good s0 (fenceStall s d i u).1 := by
  simp +contextual (maxDischargeDepth := 99) [fenceStall, hg]

@[simp ↓] theorem loseTables_good (s : State) (d : Nat) (hg : Good s0 s) :
    Good s0 (loseTables s d).1 := by
  simp +contextual (maxDischargeDepth := 99) [loseTables, hg]

@[simp ↓] theorem cutDie_good (s : State) (d : Nat) (hg : Good s0 s) :
    Good s0 (cutDie s d) := by
  simp +contextual (maxDischargeDepth := 99) [cutDie, hg]

@[simp ↓] theorem fenceDie_good (s : State) (d : Nat) (c : FenceCause) (hg : Good s0 s) :
    Good s0 (fenceDie s d c).1 := by
  simp +contextual (maxDischargeDepth := 99) [fenceDie, hg]

@[simp ↓] theorem andThen_good (a : State × List Ev) (f : State → State × List Ev)
    (hf : ∀ t, Good s0 t → Good s0 (f t).1) (h : Good s0 a.1) : Good s0 (andThen a f).1 := hf _ h

/-! ## SelfTest -/

@[simp ↓] theorem noteWindows_good (s : State) (hg : Good s0 s) :
    Good s0 (noteWindows s) := by
  unfold noteWindows
  repeat' first
    | (simp +contextual (maxDischargeDepth := 99) [*]; done)
    | dsimp only
    | refine andThen_good _ _ (fun t h => ?_) ?_
    | refine good_foldl _ (fun t a h => ?_) _ _ ?_
    | refine good_foldl_fst _ (fun t a h => ?_) _ _ ?_
    | refine good_foldl_snd _ (fun t a h => ?_) _ _ ?_
    | split

@[simp ↓] theorem sliceFails_good (s : State) (d : Nat) (hg : Good s0 s) :
    Good s0 (sliceFails s d).1 := by
  simp +contextual (maxDischargeDepth := 99) [sliceFails, hg]

@[simp ↓] theorem slicePasses_good (s : State) (d : Nat) (hg : Good s0 s) :
    Good s0 (slicePasses s d).1 := by
  simp +contextual (maxDischargeDepth := 99) [slicePasses, hg]

@[simp ↓] theorem countSlice_good (s : State) (d t0 : Nat) (hg : Good s0 s) :
    Good s0 (countSlice s d t0) := by
  simp +contextual (maxDischargeDepth := 99) [countSlice, hg]

@[simp ↓] theorem faultUnit_good (s : State) (d blk inst : Nat) (hg : Good s0 s) :
    Good s0 (faultUnit s d blk inst) := by
  simp +contextual (maxDischargeDepth := 99) [faultUnit, hg]

@[simp ↓] theorem bankFails_good (s : State) (d cluster bank : Nat) (c : FenceCause) (hg : Good s0 s) :
    Good s0 (bankFails s d cluster bank c).1 := by
  simp +contextual (maxDischargeDepth := 99) [bankFails, hg]

/-! ## ConfigCmds -/

@[simp ↓] theorem laneDown_good (s : State) (l : Nat) (hg : Good s0 s) :
    Good s0 (laneDown s l).1 := by
  simp +contextual (maxDischargeDepth := 99) [laneDown, hg]

@[simp ↓] theorem applyArbOrder_good (s : State) (i v : Nat) (hg : Good s0 s) :
    Good s0 (applyArbOrder s i v).1 := by
  simp +contextual (maxDischargeDepth := 99) [applyArbOrder, hg]

@[simp ↓] theorem cfgEffect_good (s : State) (reg i old new : Nat) (hg : Good s0 s) :
    Good s0 (cfgEffect s reg i old new).1 := by
  simp +contextual (maxDischargeDepth := 99) [cfgEffect, hg]

@[simp ↓] theorem cfgSet_good (s : State) (reg i v : Nat) (hg : Good s0 s) :
    Good s0 (cfgSet s reg i v).1 := by
  simp +contextual (maxDischargeDepth := 99) [cfgSet, hg]

@[simp ↓] theorem applyKey_good (a : State × List Ev) (k : Nat) (hg : Good s0 a.1) :
    Good s0 (applyKey a k).1 := by
  simp +contextual (maxDischargeDepth := 99) [applyKey, hg]

@[simp ↓] theorem applyInst_good (s : State) (blk die : Nat) (hg : Good s0 s) :
    Good s0 (applyInst s blk die).1 := by
  simp +contextual (maxDischargeDepth := 99) [applyInst, hg]

@[simp ↓] theorem cfgBody_good (s : State) (reg i inForce : Nat) (hg : Good s0 s) :
    Good s0 (cfgBody s reg i inForce).2 := by
  simp +contextual (maxDischargeDepth := 99) [cfgBody, hg]

@[simp ↓] theorem finishWait_good (ok : Bool) (s : State) (w : StagedWait) (hg : Good s0 s) :
    Good s0 (finishWait ok s w) := by
  simp +contextual (maxDischargeDepth := 99) [finishWait, hg]

@[simp ↓] theorem finishWaits_good (ok : Bool) (mine : List StagedWait) (s : State) (hg : Good s0 s) :
    Good s0 (finishWaits ok mine s) := by
  simp +contextual (maxDischargeDepth := 99) [finishWaits, hg]

@[simp ↓] theorem boundaryApply_good (s : State) (blk die : Nat) (hg : Good s0 s) :
    Good s0 (boundaryApply s blk die) := by
  simp only [boundaryApply]
  (repeat' split) <;> simp +contextual (maxDischargeDepth := 99) [hg, *]

@[simp ↓] theorem refusedBody_good (s : State) (reg i : Nat) (hg : Good s0 s) :
    Good s0 (refusedBody s reg i).2 := by
  unfold refusedBody
  split <;> simp +contextual (maxDischargeDepth := 99) [hg]

@[simp ↓] theorem refuseWrite_good (s : State) (reg i st : Nat) (hg : Good s0 s) :
    Good s0 (refuseWrite s reg i st).1 := by
  simp +contextual (maxDischargeDepth := 99) [refuseWrite, hg]

@[simp ↓] theorem writeInTxn_good (s : State) (reg i value mask : Nat) (hg : Good s0 s) :
    Good s0 (writeInTxn s reg i value mask).1 := by
  simp only [writeInTxn]
  (repeat' split) <;> simp +contextual (maxDischargeDepth := 99) [hg, *]

@[simp ↓] theorem writeLive_good (s : State) (reg i value mask : Nat) (hg : Good s0 s) :
    Good s0 (writeLive s reg i value mask) := by
  simp +contextual (maxDischargeDepth := 99) [writeLive, hg]

@[simp ↓] theorem stageAt_good (reg value sm : Nat) (s : State) (j : Nat) (hg : Good s0 s) :
    Good s0 (stageAt reg value sm s j) := by
  simp +contextual (maxDischargeDepth := 99) [stageAt, hg]

@[simp ↓] theorem applyNow_good (reg i : Nat) (a : State × List Ev × Bool) (b : Nat × Nat) (hg : Good s0 a.1) :
    Good s0 (applyNow reg i a b).1 := by
  simp +contextual (maxDischargeDepth := 99) [applyNow, hg]

@[simp ↓] theorem writeStaged_good (s : State) (slot reg i value mask : Nat) (hg : Good s0 s) :
    Good s0 (writeStaged s slot reg i value mask).1 := by
  unfold writeStaged
  (repeat' split) <;> simp +contextual (maxDischargeDepth := 99) [hg, *]

@[simp ↓] theorem writeNow_good (s : State) (slot reg i value mask : Nat) (hg : Good s0 s) :
    Good s0 (writeNow s slot reg i value mask).1 := by
  simp +contextual (maxDischargeDepth := 99) [writeNow, hg]

@[simp ↓] theorem cfgWriteCmd_good (c : Cmd) (s : State) (hg : Good s0 s) :
    Good s0 (cfgWriteCmd c s).1 := by
  simp +contextual (maxDischargeDepth := 99) [cfgWriteCmd, hg]

@[simp ↓] theorem cfgReadCmd_good (c : Cmd) (s : State) (hg : Good s0 s) :
    Good s0 (cfgReadCmd c s).1 := by
  simp +contextual (maxDischargeDepth := 99) [cfgReadCmd, hg]

@[simp ↓] theorem closeTxn_good (s : State) (hg : Good s0 s) :
    Good s0 (closeTxn s) := by
  simp +contextual (maxDischargeDepth := 99) [closeTxn, hg]

@[simp ↓] theorem openTxn_good (s : State) (hg : Good s0 s) :
    Good s0 (openTxn s) := by
  simp +contextual (maxDischargeDepth := 99) [openTxn, hg]

@[simp ↓] theorem txnBeginCmd_good (x_c : Cmd) (s : State) (hg : Good s0 s) :
    Good s0 (txnBeginCmd x_c s).1 := by
  simp +contextual (maxDischargeDepth := 99) [txnBeginCmd, hg]

@[simp ↓] theorem txnAbortCmd_good (c : Cmd) (s : State) (hg : Good s0 s) :
    Good s0 (txnAbortCmd c s).1 := by
  simp +contextual (maxDischargeDepth := 99) [txnAbortCmd, hg]

@[simp ↓] theorem commitEntry_good (a : State × List Ev) (e : BufEntry) (hg : Good s0 a.1) :
    Good s0 (commitEntry a e).1 := by
  simp +contextual (maxDischargeDepth := 99) [commitEntry, hg]

@[simp ↓] theorem commitInst_good (buf : List BufEntry) (a : State × List Ev) (b : Nat × Nat) (hg : Good s0 a.1) :
    Good s0 (commitInst buf a b).1 := by
  simp +contextual (maxDischargeDepth := 99) [commitInst, hg]

@[simp ↓] theorem finishCommit_good (s : State) (k : Commit) (hg : Good s0 s) :
    Good s0 (finishCommit s k) := by
  simp +contextual (maxDischargeDepth := 99) [finishCommit, hg]

@[simp ↓] theorem startCommit_good (s : State) (slot : Nat) (bundle : Bool) (buf : List BufEntry) (hg : Good s0 s) :
    Good s0 (startCommit s slot bundle buf).1 := by
  unfold startCommit
  (repeat' split) <;> simp +contextual (maxDischargeDepth := 99) [hg, *]

@[simp ↓] theorem txnCommitCmd_good (c : Cmd) (s : State) (hg : Good s0 s) :
    Good s0 (txnCommitCmd c s).1 := by
  simp +contextual (maxDischargeDepth := 99) [txnCommitCmd, hg]

@[simp ↓] theorem commitApply_good (s : State) (blk die : Nat) (hg : Good s0 s) :
    Good s0 (commitApply s blk die) := by
  unfold commitApply
  (repeat' split) <;> simp +contextual (maxDischargeDepth := 99) [hg, *]

@[simp ↓] theorem blockBoundary_good (s : State) (blk die : Nat) (hg : Good s0 s) :
    Good s0 (blockBoundary s blk die) := by
  simp +contextual (maxDischargeDepth := 99) [blockBoundary, hg]

/-! ## Fabric -/

@[simp ↓] theorem modLink_good (s : State) (d l : Nat) (f : LinkSt → LinkSt) (hg : Good s0 s) :
    Good s0 (modLink s d l f) := by
  simp +contextual (maxDischargeDepth := 99) [modLink, hg]

@[simp ↓] theorem isolate_good (s : State) (d : Nat) (hg : Good s0 s) :
    Good s0 (isolate s d).1 := by
  simp +contextual (maxDischargeDepth := 99) [isolate, hg]

@[simp ↓] theorem flitQueue_good (s : State) (d l : Nat) (body : List Byte) (hg : Good s0 s) :
    Good s0 (flitQueue s d l body) := by
  simp +contextual (maxDischargeDepth := 99) [flitQueue, hg]

@[simp ↓] theorem flitDeliver_good (s : State) (d : Nat) (b : List Byte) (hg : Good s0 s) :
    Good s0 (flitDeliver s d b) := by
  simp only [flitDeliver]
  (repeat' split) <;> simp +contextual (maxDischargeDepth := 99) [hg, *]

@[simp ↓] theorem flitRoute_good (s : State) (d : Nat) (b : List Byte) (hg : Good s0 s) :
    Good s0 (flitRoute s d b) := by
  simp +contextual (maxDischargeDepth := 99) [flitRoute, hg]

@[simp ↓] theorem flitAccept_good (s : State) (d l : Nat) (b : List Byte) (hg : Good s0 s) :
    Good s0 (flitAccept s d l b) := by
  simp +contextual (maxDischargeDepth := 99) [flitAccept, hg]

@[simp ↓] theorem linkGoesDown_good (s : State) (d l : Nat) (hg : Good s0 s) :
    Good s0 (linkGoesDown s d l) := by
  simp +contextual (maxDischargeDepth := 99) [linkGoesDown, hg]

@[simp ↓] theorem flitReject_good (s : State) (d l : Nat) (again : Bool) (hg : Good s0 s) :
    Good s0 (flitReject s d l again).1 := by
  simp +contextual (maxDischargeDepth := 99) [flitReject, hg]

@[simp ↓] theorem modHop_good (s : State) (h : Nat) (f : HopSt → HopSt) (hg : Good s0 s) :
    Good s0 (modHop s h f) := by
  simp +contextual (maxDischargeDepth := 99) [modHop, hg]

@[simp ↓] theorem hopFails_good (s : State) (h : Nat) (hg : Good s0 s) :
    Good s0 (hopFails s h).1 := by
  simp +contextual (maxDischargeDepth := 99) [hopFails, hg]

theorem travel_good' (fails : List Nat) (dst : Nat) (msg : List Byte) (l : List Nat) :
    ∀ s, Good s0 s → Good s0 (travel fails dst msg l s).1 := by
  induction l with
  | nil => exact fun s h => by simp [travel, h]
  | cons k l ih =>
    intro s h
    unfold travel
    split
    · simp [h]
    · exact ih _ (by simp [h])

@[simp ↓] theorem travel_good (fails : List Nat) (dst : Nat) (msg : List Byte) (l : List Nat) (s : State)
    (h : Good s0 s) : Good s0 (travel fails dst msg l s).1 := travel_good' fails dst msg l s h

@[simp ↓] theorem addWindow_good (s : State) (d : Nat) (counts : List Nat) (hg : Good s0 s) :
    Good s0 (addWindow s d counts) := by
  simp +contextual (maxDischargeDepth := 99) [addWindow, hg]

@[simp ↓] theorem setUnit_good (s : State) (d key : Nat) (u : UnitSt) (hg : Good s0 s) :
    Good s0 (setUnit s d key u) := by
  simp +contextual (maxDischargeDepth := 99) [setUnit, hg]

@[simp ↓] theorem setStall_good (s : State) (d i : Nat) (f : UnitSt → UnitSt) (hg : Good s0 s) :
    Good s0 (setStall s d i f) := by
  simp +contextual (maxDischargeDepth := 99) [setStall, hg]

@[simp ↓] theorem observe_good (d : Nat) (s : State) (o : UnitObs) (hg : Good s0 s) :
    Good s0 (observe d s o) := by
  unfold observe
  split <;> simp +contextual (maxDischargeDepth := 99) [hg]

@[simp ↓] theorem auditStall_good (d : Nat) (a : State × List Ev) (i : Nat) (hg : Good s0 a.1) :
    Good s0 (auditStall d a i).1 := by
  unfold auditStall
  repeat' first
    | (simp +contextual (maxDischargeDepth := 99) [*]; done)
    | dsimp only
    | refine andThen_good _ _ (fun t h => ?_) ?_
    | refine good_foldl _ (fun t a h => ?_) _ _ ?_
    | refine good_foldl_fst _ (fun t a h => ?_) _ _ ?_
    | refine good_foldl_snd _ (fun t a h => ?_) _ _ ?_
    | split

@[simp ↓] theorem penSkew_good (s : State) (d p : Nat) (hg : Good s0 s) :
    Good s0 (penSkew s d p).1 := by
  simp +contextual (maxDischargeDepth := 99) [penSkew, hg]

@[simp ↓] theorem cutPen_good (s : State) (d p : Nat) (hg : Good s0 s) :
    Good s0 (cutPen s d p) := by
  simp +contextual (maxDischargeDepth := 99) [cutPen, hg]

@[simp ↓] theorem auditPen_good (d : Nat) (a : State × List Ev) (p : Nat) (hg : Good s0 a.1) :
    Good s0 (auditPen d a p).1 := by
  unfold auditPen
  repeat' first
    | (simp +contextual (maxDischargeDepth := 99) [*]; done)
    | dsimp only
    | refine andThen_good _ _ (fun t h => ?_) ?_
    | refine good_foldl _ (fun t a h => ?_) _ _ ?_
    | refine good_foldl_fst _ (fun t a h => ?_) _ _ ?_
    | refine good_foldl_snd _ (fun t a h => ?_) _ _ ?_
    | split

@[simp ↓] theorem auditDieUnit_good (d : Nat) (a : State × List Ev) (key : Nat) (hg : Good s0 a.1) :
    Good s0 (auditDieUnit d a key).1 := by
  simp +contextual (maxDischargeDepth := 99) [auditDieUnit, hg]

/-! ## Leave -/

@[simp ↓] theorem overReserve_good (s : State) (d x : Nat) (hg : Good s0 s) :
    Good s0 (overReserve s d x).1 := by
  simp +contextual (maxDischargeDepth := 99) [overReserve, hg]

@[simp ↓] theorem askLeave_good (s : State) (ctx num die who : Nat) (hg : Good s0 s) :
    Good s0 (askLeave s ctx num die who).1 := by
  unfold askLeave
  split <;> simp +contextual (maxDischargeDepth := 99) [hg]

@[simp ↓] theorem grantItem_good (s : State) (d : Nat) (g : LeaveItem) (hg : Good s0 s) :
    Good s0 (grantItem s d g) := by
  simp +contextual (maxDischargeDepth := 99) [grantItem, hg]

@[simp ↓] theorem grantUnreserved_good (s : State) (d : Nat) (hg : Good s0 s) :
    Good s0 (grantUnreserved s d) := by
  unfold grantUnreserved
  split <;> simp +contextual (maxDischargeDepth := 99) [hg]

@[simp ↓] theorem returnLeave_good (s : State) (f : Frame) (d who : Nat) (hg : Good s0 s) :
    Good s0 (returnLeave s f d who) := by
  simp +contextual (maxDischargeDepth := 99) [returnLeave, hg]

@[simp ↓] theorem returnStreams_good (s : State) (f : Frame) (op : Nat) (hg : Good s0 s) :
    Good s0 (returnStreams s f op) := by
  simp +contextual (maxDischargeDepth := 99) [returnStreams, hg]

@[simp ↓] theorem dropLeave_good (s : State) (ctx num : Nat) (hg : Good s0 s) :
    Good s0 (dropLeave s ctx num) := by
  simp +contextual (maxDischargeDepth := 99) [dropLeave, hg]

@[simp ↓] theorem thermApply_good (s : State) (die : Nat) (hg : Good s0 s) :
    Good s0 (thermApply s die) := by
  simp +contextual (maxDischargeDepth := 99) [thermApply, hg]

@[simp ↓] theorem thermalReading_good (s : State) (die : Nat) (temp : Int) (hg : Good s0 s) :
    Good s0 (thermalReading s die temp) := by
  simp +contextual (maxDischargeDepth := 99) [thermalReading, hg]

theorem chanReset_ok : ChanOk Chan.reset := by unfold ChanOk; decide

theorem dieReset_ok (hub : Bool) : DieOk (Die.reset hub) := by
  cases hub <;> (unfold DieOk; decide)

@[simp ↓] theorem deviceReset_good (s : State) (cause : Nat) (trip : Option Nat) (h : Good s0 s) :
    Good s0 (deviceReset s cause trip) := by
  obtain ⟨h0, h1, h2, _, _, _, _, _, _, h9, _⟩ := h
  refine ⟨h0, h1, h2, rfl, ?_, rfl, ?_, rfl, ?_, h9, Nat.zero_le _⟩
  · intro c hc
    rcases List.mem_cons.1 hc with rfl | hc
    · exact chanReset_ok
    · rw [List.mem_singleton.1 hc]; exact chanReset_ok
  · intro d hd
    rcases List.mem_cons.1 hd with rfl | hd
    · exact dieReset_ok true
    · rw [List.eq_of_mem_replicate hd]; exact dieReset_ok false
  · exact ⟨Nat.le_of_ble_eq_true rfl, Nat.le_of_ble_eq_true rfl, Nat.le_of_ble_eq_true rfl, (by intro l hl; cases hl),
      Nat.zero_le _, by intro c hc; cases hc⟩

/-! ## Placement -/

theorem keepM_foldl {α : Type} (f : Memory → α → Memory) (hf : ∀ m a, m.wf = true → Memory.wf (f m a) = true)
    (l : List α) : ∀ m : Memory, m.wf = true → Memory.wf (l.foldl f m) = true := by
  induction l with
  | nil => exact fun _ h => h
  | cons a l ih => exact fun m h => ih _ (hf m a h)

theorem keepD_saveDie (x : Die) : KeepD x (saveDie x) := by
  refine ⟨fun w => ?_, keepL_self _, keepR_self _, keepK_self _, rfl, rfl, rfl, rfl, rfl, rfl⟩
  exact memMove_wf _ _ _ _ (keepM_foldl _ (fun m p h => memMove_wf p.2 0 (2 ^ 23) _ h) _ _ w)

theorem keepD_restoreDie (x : Die) : KeepD x (restoreDie x) := by
  refine ⟨fun w => w, fun _ p hp => ?_, ?_, keepK_self _, rfl, rfl, rfl, by simp [restoreDie], rfl, rfl⟩
  · obtain ⟨e, _, rfl⟩ := List.mem_map.1 hp
    exact memMove_wf _ _ _ _ rfl
  · unfold restoreDie
    dsimp only
    split
    · exact keepR_self _
    · exact keepR_put _ _ _ (fun _ => memMove_wf _ _ _ _ rfl)

@[simp ↓] theorem padStore_good (s : State) (d : Nat) (a : PadArray) (b : List Byte) (hg : Good s0 s) :
    Good s0 (padStore s d a b) := by
  refine good_modDie d _ (fun x => ?_) hg
  refine ⟨keepM_self _, ?_, keepR_self _, keepK_self _, rfl, rfl, rfl, ?_, rfl, rfl⟩
  · exact keepL_foldl _ _ (fun l e => keepL_upd _ _ _ (fun m => keepM_write m _ _)) _
  · exact foldl_length _ (fun l e => updAt_length _ _ _) _ _

@[simp ↓] theorem padMove_good (s : State) (d req : Nat) (for_ : ReadFor) (a : PadArray) (b : List Byte) (hg : Good
    s0 s) :
    Good s0 (padMove s d req for_ a b) := by
  simp +contextual (maxDischargeDepth := 99) [padMove, hg]

@[simp ↓] theorem padBack_good (s : State) (d req : Nat) (for_ : ReadFor) (a : PadArray) (n : Nat) (to_ : Nat → Nat)
    (hg : Good s0 s) :
    Good s0 (padBack s d req for_ a n to_) := by
  simp +contextual (maxDischargeDepth := 99) [padBack, hg]

@[simp ↓] theorem padOut_good (s : State) (d : Nat) (for_ : ReadFor) (a : PadArray) (n addr : Nat) (hg : Good s0 s) :
    Good s0 (padOut s d for_ a n addr) := by
  simp +contextual (maxDischargeDepth := 99) [padOut, hg]

@[simp ↓] theorem padPut_good (s : State) (d : Nat) (way : PadWay) (a : PadArray) (b : List Byte) (hg : Good s0 s) :
    Good s0 (padPut s d way a b) := by
  unfold padPut
  split <;> simp +contextual (maxDischargeDepth := 99) [hg]

@[simp ↓] theorem storeRows_good (s : State) (d : Nat) (way : PadWay) (name : Nat → PadArray) (f : Nat) (rows : List
    Row) (hg : Good s0 s) :
    Good s0 (storeRows s d way name f rows) := by
  simp +contextual (maxDischargeDepth := 99) [storeRows, hg]

@[simp ↓] theorem placeWeights_good (handle : Nat) (p : PkgDecl) (s : State) (d : Nat) (hg : Good s0 s) :
    Good s0 (placeWeights handle p s d) := by
  simp +contextual (maxDischargeDepth := 99) [placeWeights, hg]

@[simp ↓] theorem reloadWeights_good (way : PadWay) (s : State) (d : Nat) (hg : Good s0 s) :
    Good s0 (reloadWeights way s d) := by
  simp +contextual (maxDischargeDepth := 99) [reloadWeights, hg]

@[simp ↓] theorem placePackage_good (s : State) (handle : Nat) (body : List Byte) (hg : Good s0 s) :
    Good s0 (placePackage s handle body) := by
  refine good_modDie 0 _ (fun x => ?_) (allocateLines_good _ _ _ _ _ _ hg)
  exact ⟨fun w => keepM_foldl _ (fun m t h => memWrite_wf _ _ h) _ _ w, keepL_self _, keepR_self _, keepK_self _, rfl, rfl, rfl,
    rfl, rfl, rfl⟩

@[simp ↓] theorem stateIn_good (s : State) (d ctx : Nat) (for_ : ReadFor) (hg : Good s0 s) :
    Good s0 (stateIn s d ctx for_) := by
  simp +contextual (maxDischargeDepth := 99) [stateIn, hg]

@[simp ↓] theorem stateOut_good (s : State) (d ctx : Nat) (hg : Good s0 s) :
    Good s0 (stateOut s d ctx) := by
  simp +contextual (maxDischargeDepth := 99) [stateOut, hg]

@[simp ↓] theorem placeAdapted_good (way : PadWay) (c : Ctx) (p : PkgDecl) (s : State) (d : Nat) (hg : Good s0 s) :
    Good s0 (placeAdapted way c p s d) := by
  simp +contextual (maxDischargeDepth := 99) [placeAdapted, hg]

@[simp ↓] theorem stateBegin_good (c : Ctx) (p : PkgDecl) (s : State) (d : Nat) (hg : Good s0 s) :
    Good s0 (stateBegin c p s d) := by
  simp +contextual (maxDischargeDepth := 99) [stateBegin, hg]

/-! ## Frames -/

@[simp ↓] theorem modCtx_good (s : State) (x : Nat) (f : Ctx → Ctx) (hg : Good s0 s) :
    Good s0 (modCtx s x f) := by
  simp +contextual (maxDischargeDepth := 99) [modCtx, hg]

@[simp ↓] theorem modFrameAt_good (s : State) (x num : Nat) (g : Frame → Frame) (hg : Good s0 s) :
    Good s0 (modFrameAt s x num g) := by
  simp +contextual (maxDischargeDepth := 99) [modFrameAt, hg]

@[simp ↓] theorem modSensor_good (s : State) (k : Nat) (f : Sensor → Sensor) (hg : Good s0 s) :
    Good s0 (modSensor s k f) := by
  simp +contextual (maxDischargeDepth := 99) [modSensor, hg]

@[simp ↓] theorem refreshListed_good (s : State) (hg : Good s0 s) :
    Good s0 (refreshListed s) := by
  simp +contextual (maxDischargeDepth := 99) [refreshListed, hg]

@[simp ↓] theorem addFrame_good (s : State) (c : Ctx) (t : Train) (hg : Good s0 s) :
    Good s0 (addFrame s c t) := by
  simp +contextual (maxDischargeDepth := 99) [addFrame, hg]

@[simp ↓] theorem settleTables_good (s : State) (hg : Good s0 s) :
    Good s0 (settleTables s) := by
  simp +contextual (maxDischargeDepth := 99) [settleTables, hg]

@[simp ↓] theorem endBeRun_good (s : State) (x num : Nat) (hg : Good s0 s) :
    Good s0 (endBeRun s x num) := by
  simp +contextual (maxDischargeDepth := 99) [endBeRun, hg]

@[simp ↓] theorem refuseFrame_good (s : State) (x num st : Nat) (hg : Good s0 s) :
    Good s0 (refuseFrame s x num st) := by
  simp +contextual (maxDischargeDepth := 99) [refuseFrame, hg]

@[simp ↓] theorem notePace_good (s : State) (mask : Nat) (hg : Good s0 s) :
    Good s0 (notePace s mask) := by
  simp +contextual (maxDischargeDepth := 99) [notePace, hg]

@[simp ↓] theorem acceptFrame_good (s : State) (c : Ctx) (f : Frame) (pass ref : Nat) (n : Counts) (hg : Good s0 s) :
    Good s0 (acceptFrame s c f pass ref n) := by
  simp +contextual (maxDischargeDepth := 99) [acceptFrame, hg]

@[simp ↓] theorem conservativeResult_good (s : State) (c : Ctx) (f : Frame) (st : Nat) (hg : Good s0 s) :
    Good s0 (conservativeResult s c f st) := by
  simp +contextual (maxDischargeDepth := 99) [conservativeResult, hg]

@[simp ↓] theorem conservativePass_good (s : State) (c : Ctx) (f : Frame) (hg : Good s0 s) :
    Good s0 (conservativePass s c f) := by
  simp +contextual (maxDischargeDepth := 99) [conservativePass, hg]

@[simp ↓] theorem judgeBestEffort_good (s : State) (c : Ctx) (f : Frame) (hg : Good s0 s) :
    Good s0 (judgeBestEffort s c f) := by
  simp +contextual (maxDischargeDepth := 99) [judgeBestEffort, hg]

@[simp ↓] theorem supersede_good (s : State) (x : Nat) (hg : Good s0 s) :
    Good s0 (supersede s x) := by
  simp +contextual (maxDischargeDepth := 99) [supersede, hg]

@[simp ↓] theorem fixClose_good (s : State) (c : Ctx) (f : Frame) (hg : Good s0 s) :
    Good s0 (fixClose s c f) := by
  simp +contextual (maxDischargeDepth := 99) [fixClose, hg]

@[simp ↓] theorem judge_good (s : State) (c : Ctx) (num : Nat) (hg : Good s0 s) :
    Good s0 (judge s c num) := by
  unfold judge
  split <;> simp +contextual (maxDischargeDepth := 99) [hg]

@[simp ↓] theorem closeFrame_good (s : State) (c : Ctx) (t : Train) (f : Frame) (hg : Good s0 s) :
    Good s0 (closeFrame s c t f) := by
  simp +contextual (maxDischargeDepth := 99) [closeFrame, hg]

@[simp ↓] theorem periodicClose_good (s : State) (ctx : Nat) (hg : Good s0 s) :
    Good s0 (periodicClose s ctx) := by
  unfold periodicClose
  (repeat' split) <;> simp +contextual (maxDischargeDepth := 99) [hg, *]

theorem closesDue_good' (n : Nat) : ∀ s : State, Good s0 s → Good s0 (closesDue n s) := by
  induction n with
  | zero => exact fun _ h => h
  | succ n ih =>
    intro s h
    unfold closesDue
    split
    · exact ih _ (periodicClose_good _ _ h)
    · exact h

@[simp ↓] theorem closesDue_good (n : Nat) (s : State) (hg : Good s0 s) : Good s0 (closesDue n s) :=
  closesDue_good' n s hg

@[simp ↓] theorem runCloses_good (s : State) (hg : Good s0 s) :
    Good s0 (runCloses s) := by
  simp +contextual (maxDischargeDepth := 99) [runCloses, hg]

@[simp ↓] theorem settleCtx_good (s : State) (x : Nat) (hg : Good s0 s) :
    Good s0 (settleCtx s x) := by
  unfold settleCtx
  split <;> simp +contextual (maxDischargeDepth := 99) [hg]

/-! ## Contexts -/

@[simp ↓] theorem reservePages_good (s : State) (c : Ctx) (hg : Good s0 s) :
    Good s0 (reservePages s c) := by
  simp +contextual (maxDischargeDepth := 99) [reservePages, hg]

theorem placeCtx_good {u : State} (c : Ctx) (s : State) (h : placeCtx c s = some u) (hg : Good s0 s) : Good s0 u := by
  unfold placeCtx at h
  obtain ⟨v, hv, h⟩ := Option.bind_eq_some_iff.1 h
  unfold placeWork at hv
  obtain ⟨w, hw, hv⟩ := Option.bind_eq_some_iff.1 hv
  unfold placeHash at h
  obtain ⟨x, hx, h⟩ := Option.bind_eq_some_iff.1 h
  exact allocateAll_good _ _ _ _ _ _ h (allocateAll_good _ _ _ _ _ _ hx
    (allocateAll_good _ _ _ _ _ _ hv (allocateAll_good _ _ _ _ _ _ hw hg)))

@[simp ↓] theorem settleNew_good (was : State) (c : Ctx) (s : State) (hg : Good s0 s) : Good s0 (settleNew was c s) := by
  unfold settleNew
  dsimp only
  split
  · have h1 := good_getD (fun t h => placeCtx_good c s h hg) hg
    exact good_foldl _ (fun t d h => placeAdapted_good _ _ _ _ _ h) _ _
      (good_foldl _ (fun t d h => placeWeights_good _ _ _ _ h) _ _ h1)
  · exact good_foldl _ (fun t d h => stateBegin_good _ _ _ _
      (good_getD (fun u hu => allocate_good _ _ _ _ _ _ hu h) h)) _ _ hg

@[simp ↓] theorem ctxCreateCmd_good (c : Cmd) (s : State) (hg : Good s0 s) :
    Good s0 (ctxCreateCmd c s).1 := by
  unfold ctxCreateCmd
  split <;> simp +contextual (maxDischargeDepth := 99) [hg]

@[simp ↓] theorem stopTrain_good (s : State) (c : Ctx) (hg : Good s0 s) :
    Good s0 (stopTrain s c) := by
  simp only [stopTrain]
  (repeat' split) <;> simp +contextual (maxDischargeDepth := 99) [hg, *]

@[simp ↓] theorem ctxDestroyCmd_good (c : Cmd) (s : State) (hg : Good s0 s) :
    Good s0 (ctxDestroyCmd c s).1 := by
  unfold ctxDestroyCmd
  split <;> simp +contextual (maxDischargeDepth := 99) [hg]

@[simp ↓] theorem unsteer_good (s : State) (x : Nat) (hg : Good s0 s) :
    Good s0 (unsteer s x) := by
  simp +contextual (maxDischargeDepth := 99) [unsteer, hg]

@[simp ↓] theorem resetCtxCfg_good (s : State) (x : Nat) (hg : Good s0 s) :
    Good s0 (resetCtxCfg s x) := by
  simp +contextual (maxDischargeDepth := 99) [resetCtxCfg, hg]

@[simp ↓] theorem releaseSpace_good (s : State) (c : Ctx) (hg : Good s0 s) :
    Good s0 (releaseSpace s c) := by
  simp +contextual (maxDischargeDepth := 99) [releaseSpace, hg]

@[simp ↓] theorem releaseCtx_good (s : State) (x : Nat) (hg : Good s0 s) :
    Good s0 (releaseCtx s x) := by
  unfold releaseCtx
  split <;> simp +contextual (maxDischargeDepth := 99) [hg]

@[simp ↓] theorem ctxQueryCmd_good (c : Cmd) (s : State) (hg : Good s0 s) :
    Good s0 (ctxQueryCmd c s).1 := by
  unfold ctxQueryCmd
  split <;> simp +contextual (maxDischargeDepth := 99) [hg]

theorem placeStores_good {u : State} (k : Ctx) (s : State) (h : (placeStores k s).bind (placeChk k) = some u)
    (hg : Good s0 s) : Good s0 u := by
  obtain ⟨v, hv, h⟩ := Option.bind_eq_some_iff.1 h
  exact allocate_good _ _ _ _ _ _ h (allocateAll_good _ _ _ _ _ _ hv hg)

@[simp ↓] theorem openTrain_good (s : State) (c : Cmd) (k : Ctx) (hg : Good s0 s) : Good s0 (openTrain s c k) := by
  have h1 := good_getD (fun t h => placeStores_good k s h hg) hg
  simp +contextual (maxDischargeDepth := 99) [openTrain, h1]

@[simp ↓] theorem frameOpenCmd_good (c : Cmd) (s : State) (hg : Good s0 s) :
    Good s0 (frameOpenCmd c s).1 := by
  unfold frameOpenCmd
  split <;> simp +contextual (maxDischargeDepth := 99) [hg]

@[simp ↓] theorem stopPeriodic_good (s : State) (k : Ctx) (t : Train) (hg : Good s0 s) :
    Good s0 (stopPeriodic s k t) := by
  simp +contextual (maxDischargeDepth := 99) [stopPeriodic, hg]

@[simp ↓] theorem acceptCtx_good (s : State) (c : Cmd) (hg : Good s0 s) :
    Good s0 (acceptCtx s c) := by
  unfold acceptCtx
  (repeat' split) <;> simp +contextual (maxDischargeDepth := 99) [hg, *]

@[simp ↓] theorem frameCloseCmd_good (c : Cmd) (s : State) (hg : Good s0 s) :
    Good s0 (frameCloseCmd c s).1 := by
  unfold frameCloseCmd
  (repeat' split) <;> simp +contextual (maxDischargeDepth := 99) [hg, *]

@[simp ↓] theorem exactResult_good (s : State) (c : Ctx) (f : Frame) (hg : Good s0 s) :
    Good s0 (exactResult s c f) := by
  simp only [exactResult]
  (repeat' split) <;> simp +contextual (maxDischargeDepth := 99) [hg, *]

@[simp ↓] theorem exactPass_good (s : State) (c : Ctx) (f : Frame) (hg : Good s0 s) :
    Good s0 (exactPass s c f) := by
  simp only [exactPass]
  (repeat' split) <;> simp +contextual (maxDischargeDepth := 99) [hg, *]

@[simp ↓] theorem ctxClearDegradedCmd_good (c : Cmd) (s : State) (hg : Good s0 s) :
    Good s0 (ctxClearDegradedCmd c s).1 := by
  unfold ctxClearDegradedCmd
  split <;> simp +contextual (maxDischargeDepth := 99) [hg]

@[simp ↓] theorem pkgUnloadCmd_good (c : Cmd) (s : State) (hg : Good s0 s) :
    Good s0 (pkgUnloadCmd c s).1 := by
  simp +contextual (maxDischargeDepth := 99) [pkgUnloadCmd, hg]

/-! ## Points -/

@[simp ↓] theorem decoderSetCmd_good (c : Cmd) (s : State) (hg : Good s0 s) :
    Good s0 (decoderSetCmd c s).1 := by
  simp +contextual (maxDischargeDepth := 99) [decoderSetCmd, hg]

@[simp ↓] theorem admitPoint_good (s : State) (c : Ctx) (f : Frame) (p : Pt) (hg : Good s0 s) :
    Good s0 (admitPoint s c f p) := by
  simp +contextual (maxDischargeDepth := 99) [admitPoint, hg]

@[simp ↓] theorem joinFrame_good (s : State) (c : Ctx) (f : Frame) (p : Pt) (hg : Good s0 s) :
    Good s0 (joinFrame s c f p) := by
  simp +contextual (maxDischargeDepth := 99) [joinFrame, hg]

@[simp ↓] theorem joinOne_good (s : State) (x : Nat) (p : Pt) (hg : Good s0 s) :
    Good s0 (joinOne s x p).1 := by
  unfold joinOne
  split <;> simp +contextual (maxDischargeDepth := 99) [hg]

@[simp ↓] theorem joinPoint_good (ctxs : List Nat) (sensor : Nat) (s : State) (p : Pt) (hg : Good s0 s) :
    Good s0 (joinPoint ctxs sensor s p) := by
  simp +contextual (maxDischargeDepth := 99) [joinPoint, hg]

@[simp ↓] theorem takePoint_good (ctxs : List Nat) (sensor : Nat) (s : State) (r : PtRes) (hg : Good s0 s) :
    Good s0 (takePoint ctxs sensor s r) := by
  unfold takePoint
  split <;> simp +contextual (maxDischargeDepth := 99) [hg]

@[simp ↓] theorem blockStarts_good (s : State) (k : Nat) (hg : Good s0 s) :
    Good s0 (blockStarts s k) := by
  simp +contextual (maxDischargeDepth := 99) [blockStarts, hg]

/-! ## Deskew -/

@[simp ↓] theorem deskewOne_good (d : Nat) (desc : List Byte) (a : State × Frame × List Ev) (j : Nat) (hg : Good s0
    a.1) :
    Good s0 (deskewOne d desc a j).1 := by
  unfold deskewOne
  (repeat' split) <;> simp +contextual (maxDischargeDepth := 99) [hg, *]

@[simp ↓] theorem setFrame_good (s : State) (f : Frame) (hg : Good s0 s) :
    Good s0 (setFrame s f) := by
  simp +contextual (maxDischargeDepth := 99) [setFrame, hg]

@[simp ↓] theorem endDeskewTile_good (s : State) (f : Frame) (ds : List Nat) (d upto : Nat) (hg : Good s0 s) :
    Good s0 (endDeskewTile s f ds d upto) := by
  simp +contextual (maxDischargeDepth := 99) [endDeskewTile, hg]

@[simp ↓] theorem refusePoint_good (a : State × Frame) (n : Nat) (hg : Good s0 a.1) :
    Good s0 (refusePoint a n).1 := by
  simp +contextual (maxDischargeDepth := 99) [refusePoint, hg]

@[simp ↓] theorem createCell_good (p : PkgDecl) (r cap : Nat) (a : State × Frame) (c : Cell) (hg : Good s0 a.1) :
    Good s0 (createCell p r cap a c).1 := by
  simp +contextual (maxDischargeDepth := 99) [createCell, hg]

@[simp ↓] theorem voxOne_good (p : PkgDecl) (ds : List Nat) (r cap : Nat) (a : State × Frame) (q : DPt) (hg : Good s0
    a.1) :
    Good s0 (voxOne p ds r cap a q).1 := by
  simp only [voxOne]
  (repeat' split) <;> simp +contextual (maxDischargeDepth := 99) [hg, *]

@[simp ↓] theorem noteLast_good (s : State) (p : PkgDecl) (f : Frame) (hg : Good s0 s) :
    Good s0 (noteLast s p f) := by
  simp +contextual (maxDischargeDepth := 99) [noteLast, hg]

/-! ## Curve -/

@[simp ↓] theorem storeTensor_good (s : State) (c : Ctx) (f : Frame) (way : PadWay) (t : Nat) (hg : Good s0 s) :
    Good s0 (storeTensor s c f way t) := by
  simp +contextual (maxDischargeDepth := 99) [storeTensor, hg]

@[simp ↓] theorem storeMap_good (s : State) (c : Ctx) (f : Frame) (way : PadWay) (m : Nat) (hg : Good s0 s) :
    Good s0 (storeMap s c f way m) := by
  simp +contextual (maxDischargeDepth := 99) [storeMap, hg]

@[simp ↓] theorem storeCells_good (s : State) (c : Ctx) (f : Frame) (hg : Good s0 s) :
    Good s0 (storeCells s c f) := by
  simp +contextual (maxDischargeDepth := 99) [storeCells, hg]

@[simp ↓] theorem noteOrder_good (s : State) (f : Frame) (ds : List Nat) (hg : Good s0 s) :
    Good s0 (noteOrder s f ds) := by
  simp +contextual (maxDischargeDepth := 99) [noteOrder, hg]

@[simp ↓] theorem countBuild_good (s : State) (p : PkgDecl) (f : Frame) (d : List Byte) (b : ClassBook) (hg : Good s0
    s) :
    Good s0 (countBuild s p f d b) := by
  simp +contextual (maxDischargeDepth := 99) [countBuild, hg]

@[simp ↓] theorem endRun_good (s : State) (f : Frame) (code : Nat) (hg : Good s0 s) :
    Good s0 (endRun s f code) := by
  simp +contextual (maxDischargeDepth := 99) [endRun, hg]

@[simp ↓] theorem countRemote_good (s : State) (f : Frame) (d : Nat) (rows : List Nat) (hg : Good s0 s) :
    Good s0 (countRemote s f d rows) := by
  simp +contextual (maxDischargeDepth := 99) [countRemote, hg]

/-! ## Stalls -/

@[simp ↓] theorem modStall_good (s : State) (g : Nat) (f : StallSt → StallSt) (hg : Good s0 s) :
    Good s0 (modStall s g f) := by
  simp +contextual (maxDischargeDepth := 99) [modStall, hg]

@[simp ↓] theorem swapSets_good (s : State) (g : Nat) (accs : List (Nat × ElemOut)) (spill : Bool) (hg : Good s0 s) :
    Good s0 (swapSets s g accs spill) := by
  simp +contextual (maxDischargeDepth := 99) [swapSets, hg]

@[simp ↓] theorem spillTile_good (s : State) (f : Frame) (t : Tile) (accs : List (Nat × ElemOut)) (hg : Good s0 s) :
    Good s0 (spillTile s f t accs) := by
  simp +contextual (maxDischargeDepth := 99) [spillTile, hg]

@[simp ↓] theorem mergeWrite_good (s : State) (f : Frame) (int : Bool) (l : List PartRes) (taken : Bool) (hg : Good
    s0 s) :
    Good s0 (mergeWrite s f int l taken) := by
  simp +contextual (maxDischargeDepth := 99) [mergeWrite, hg]

@[simp ↓] theorem applyIncs_good (s : State) (l : List CntInc) (hg : Good s0 s) :
    Good s0 (applyIncs s l) := by
  simp +contextual (maxDischargeDepth := 99) [applyIncs, hg]

@[simp ↓] theorem attemptCounts_good (s : State) (ctx q tiles : Nat) (rows : List RowRes) (hg : Good s0 s) :
    Good s0 (attemptCounts s ctx q tiles rows) := by
  simp +contextual (maxDischargeDepth := 99) [attemptCounts, hg]

@[simp ↓] theorem returnIdle_good (s : State) (f : Frame) (d : Nat) (hg : Good s0 s) :
    Good s0 (returnIdle s f d) := by
  simp +contextual (maxDischargeDepth := 99) [returnIdle, hg]

@[simp ↓] theorem runTile_good (s : State) (c : Ctx) (f : Frame) (t : Tile) (hg : Good s0 s) :
    Good s0 (runTile s c f t) := by
  unfold runTile
  (repeat' split) <;> simp +contextual (maxDischargeDepth := 99) [hg, *]

@[simp ↓] theorem noteStream_good (s : State) (g a : Nat) (hg : Good s0 s) :
    Good s0 (noteStream s g a) := by
  unfold noteStream
  (repeat' split) <;> simp +contextual (maxDischargeDepth := 99) [hg, *]

@[simp ↓] theorem pruneRun_good (s : State) (c : Ctx) (p : PkgDecl) (o : OpDecl) (rows : List RowRes) (hg : Good s0
    s) :
    Good s0 (pruneRun s c p o rows) := by
  unfold pruneRun
  repeat' first
    | (simp +contextual (maxDischargeDepth := 99) [*]; done)
    | dsimp only
    | refine andThen_good _ _ (fun t h => ?_) ?_
    | refine good_foldl _ (fun t a h => ?_) _ _ ?_
    | refine good_foldl_fst _ (fun t a h => ?_) _ _ ?_
    | refine good_foldl_snd _ (fun t a h => ?_) _ _ ?_
    | split

@[simp ↓] theorem prunedRun_good (s : State) (c : Ctx) (p : PkgDecl) (o : OpDecl) (rows : List RowRes) (hg : Good s0
    s) :
    Good s0 (prunedRun s c p o rows) := by
  simp only [prunedRun]
  (repeat' split) <;> simp +contextual (maxDischargeDepth := 99) [hg, *]

@[simp ↓] theorem saturated_good (s : State) (p : PkgDecl) (o : OpDecl) (f : Frame) (rows : List RowRes) (hg : Good
    s0 s) :
    Good s0 (saturated s p o f rows).1 := by
  simp +contextual (maxDischargeDepth := 99) [saturated, hg]

@[simp ↓] theorem storeOut_good (s : State) (c : Ctx) (f : Frame) (o : OpDecl) (hg : Good s0 s) :
    Good s0 (storeOut s c f o) := by
  simp +contextual (maxDischargeDepth := 99) [storeOut, hg]

@[simp ↓] theorem endStallRun_good (s : State) (c : Ctx) (f : Frame) (hg : Good s0 s) :
    Good s0 (endStallRun s c f) := by
  simp +contextual (maxDischargeDepth := 99) [endStallRun, hg]

@[simp ↓] theorem grantUnits_good (k : ConvOp) (a : State × Frame × List Ev) (u : List Tile) (hg : Good s0 a.1) :
    Good s0 (grantUnits k a u).1 := by
  simp +contextual (maxDischargeDepth := 99) [grantUnits, hg]

@[simp ↓] theorem haloRow_good (p : PkgDecl) (f : Frame) (d : Nat) (s : State) (key : Nat) (hg : Good s0 s) :
    Good s0 (haloRow p f d s key) := by
  simp +contextual (maxDischargeDepth := 99) [haloRow, hg]

@[simp ↓] theorem haloCopy_good (s : State) (c : Ctx) (f : Frame) (o : OpDecl) (ds : List Nat) (d : Nat) (hg : Good
    s0 s) :
    Good s0 (haloCopy s c f o ds d).1 := by
  simp +contextual (maxDischargeDepth := 99) [haloCopy, hg]

@[simp ↓] theorem askAll_good (s : State) (f : Frame) (d : Nat) (l : List Nat) (hg : Good s0 s) :
    Good s0 (askAll s f d l).1 := by
  simp +contextual (maxDischargeDepth := 99) [askAll, hg]

/-! ## Bev -/

@[simp ↓] theorem countScatter_good (s : State) (p : PkgDecl) (f : Frame) (d : List Byte) (rows : List (Nat × Row))
    (hg : Good s0 s) :
    Good s0 (countScatter s p f d rows) := by
  simp +contextual (maxDischargeDepth := 99) [countScatter, hg]

@[simp ↓] theorem storeLists_good (s : State) (f : Frame) (d0 n : Nat) (hg : Good s0 s) :
    Good s0 (storeLists s f d0 n) := by
  simp +contextual (maxDischargeDepth := 99) [storeLists, hg]

@[simp ↓] theorem mergeSelection_good (s : State) (p : PkgDecl) (f : Frame) (o : OpDecl) (d0 : Nat) (hg : Good s0 s) :
    Good s0 (mergeSelection s p f o d0).1 := by
  simp +contextual (maxDischargeDepth := 99) [mergeSelection, hg]

@[simp ↓] theorem selResult_good (s : State) (c : Ctx) (p : PkgDecl) (f : Frame) (o : OpDecl) (d0 : Nat) (hg : Good
    s0 s) :
    Good s0 (selResult s c p f o d0).1 := by
  simp +contextual (maxDischargeDepth := 99) [selResult, hg]

/-! ## Checker -/

@[simp ↓] theorem chkCount_good (s : State) (f : Frame) (r : ChkRes) (hg : Good s0 s) :
    Good s0 (chkCount s f r) := by
  simp +contextual (maxDischargeDepth := 99) [chkCount, hg]

@[simp ↓] theorem chkDone_good (s : State) (f : Frame) (r : Option ChkRes) (hg : Good s0 s) :
    Good s0 (chkDone s f r) := by
  simp +contextual (maxDischargeDepth := 99) [chkDone, hg]

/-! ## Debug -/

@[simp ↓] theorem modDbg_good (s : State) (f : Dbg → Dbg) (hf : ∀ d, KeepM d.hubMem (f d).hubMem) (hg : Good s0 s) :
    Good s0 (modDbg s f) := by
  obtain ⟨g0, g1, g2, g3, g4, g5, g6, g7, g8⟩ := hg
  exact ⟨g0, g1, g2, g3, g4, g5, g6, hf _ g7, g8⟩

@[simp ↓] theorem modBmp_good (s : State) (f : Bmp → Bmp) (hg : Good s0 s) :
    Good s0 (modBmp s f) := by
  simp +contextual (maxDischargeDepth := 99) [modBmp, hg]

/-! ## HostPort -/

@[simp ↓] theorem countUnsupported_good (s : State) (ch : Nat) (hg : Good s0 s) :
    Good s0 (countUnsupported s ch) := by
  simp +contextual (maxDischargeDepth := 99) [countUnsupported, hg]

@[simp ↓] theorem reportLatency_good (s : State) (ch : Nat) (hg : Good s0 s) :
    Good s0 (reportLatency s ch) := by
  simp +contextual (maxDischargeDepth := 99) [reportLatency, hg]

@[simp ↓] theorem portRead_good (s : State) (ch off : Nat) (ue : Bool) (asRead : List Byte) (hg : Good s0 s) :
    Good s0 (portRead s ch off ue asRead) := by
  simp +contextual (maxDischargeDepth := 99) [portRead, hg]

@[simp ↓] theorem portLow_good (s : State) (ch sub : Nat) (a b : PortPower) (hg : Good s0 s) :
    Good s0 (portLow s ch sub a b) := by
  simp +contextual (maxDischargeDepth := 99) [portLow, hg]

@[simp ↓] theorem modeStore_good (s : State) (ch sub mr : Nat) (value : Byte) (low : Bool) (hg : Good s0 s) :
    Good s0 (modeStore s ch sub mr value low) := by
  simp +contextual (maxDischargeDepth := 99) [modeStore, hg]

@[simp ↓] theorem train_good (s : State) (ch sub : Nat) (f : Trained → Trained) (hg : Good s0 s) :
    Good s0 (train s ch sub f) := by
  simp +contextual (maxDischargeDepth := 99) [train, hg]

@[simp ↓] theorem flushRateEvent_good (s : State) (ch : Nat) (hg : Good s0 s) :
    Good s0 (flushRateEvent s ch) := by
  simp only [flushRateEvent]
  (repeat' split) <;> simp +contextual (maxDischargeDepth := 99) [hg, *]

@[simp ↓] theorem portComesUp_good (s : State) (hg : Good s0 s) :
    Good s0 (portComesUp s) := by
  simp +contextual (maxDischargeDepth := 99) [portComesUp, hg]

/-! ## Ingest -/

@[simp ↓] theorem modLane_good (s : State) (l : Nat) (f : Lane → Lane) (hg : Good s0 s) :
    Good s0 (modLane s l f) := by
  simp +contextual (maxDischargeDepth := 99) [modLane, hg]

@[simp ↓] theorem laneCnt_good (s : State) (l n : Nat) (hg : Good s0 s) :
    Good s0 (laneCnt s l n) := by
  simp +contextual (maxDischargeDepth := 99) [laneCnt, hg]

@[simp ↓] theorem receiveFrame_good (s : State) (l : Nat) (b : List Byte) (pcsError : Bool) (hg : Good s0 s) :
    Good s0 (receiveFrame s l b pcsError) := by
  simp +contextual (maxDischargeDepth := 99) [receiveFrame, hg]

@[simp ↓] theorem discardOthers_good (s : State) (hg : Good s0 s) :
    Good s0 (discardOthers s) := by
  simp +contextual (maxDischargeDepth := 99) [discardOthers, hg]

@[simp ↓] theorem toFirmware_good (s : State) (f : RxFrame) (hg : Good s0 s) :
    Good s0 (toFirmware s f) := by
  simp +contextual (maxDischargeDepth := 99) [toFirmware, hg]

@[simp ↓] theorem fwTake_good (s : State) (hg : Good s0 s) :
    Good s0 (fwTake s) := by
  simp +contextual (maxDischargeDepth := 99) [fwTake, hg]

@[simp ↓] theorem sendFrame_good (s : State) (l : Nat) (b : List Byte) (hg : Good s0 s) :
    Good s0 (sendFrame s l b) := by
  simp +contextual (maxDischargeDepth := 99) [sendFrame, hg]

@[simp ↓] theorem startDecode_good (s : State) (lane : Nat) (k : Nat) (e : Steer) (u : Udp) (arrival : Nat) (hg :
    Good s0 s) :
    Good s0 (startDecode s lane k e u arrival) := by
  simp +contextual (maxDischargeDepth := 99) [startDecode, hg]

@[simp ↓] theorem steerFrame_good (s : State) (lane : Nat) (f : RxFrame) (hg : Good s0 s) :
    Good s0 (steerFrame s lane f) := by
  unfold steerFrame
  (repeat' split) <;> simp +contextual (maxDischargeDepth := 99) [hg, *]

@[simp ↓] theorem steerSetCmd_good (c : Cmd) (s : State) (hg : Good s0 s) :
    Good s0 (steerSetCmd c s).1 := by
  simp +contextual (maxDischargeDepth := 99) [steerSetCmd, hg]

@[simp ↓] theorem publishWindow_good (s : State) (ch w : Nat) (hg : Good s0 s) :
    Good s0 (publishWindow s ch w) := by
  simp +contextual (maxDischargeDepth := 99) [publishWindow, hg]

@[simp ↓] theorem takeRecords_good (s : State) (sensor count : Nat) (d : List Byte) (hg : Good s0 s) :
    Good s0 (takeRecords s sensor count d) := by
  simp +contextual (maxDischargeDepth := 99) [takeRecords, hg]

/-! ## Power -/

/-- The fields that hold a mode stay. -/
def SameModes (p q : Pwr) : Prop := q.st = p.st ∧ q.target = p.target ∧ q.level = p.level ∧ q.paceTo = p.paceTo

@[simp ↓] theorem sameModes_mk (p : Pwr) (a b c d e f g h i j k l m n o) :
    SameModes p (Pwr.mk a b c d e f g h i j k l m n o) = (a = p.st ∧ d = p.target ∧ h = p.level ∧ i = p.paceTo) :=
  id rfl

theorem good_setPwr (f : Pwr → Pwr) (h : Good s0 s) (h1 : (f s.pwr).st ≤ 4) (h2 : (f s.pwr).target ≤ 4)
    (h3 : (f s.pwr).level ≤ 2) (h4 : ∀ l, (f s.pwr).paceTo = some l → l ≤ 2) : Good s0 (modPwr s f) := by
  unfold modPwr
  rw [good_mk]
  exact good_pwr h h1 h2 h3 h4

@[simp ↓] theorem modPwr_good (s : State) (f : Pwr → Pwr) (hf : ∀ p, SameModes p (f p)) (hg : Good s0 s) :
    Good s0 (modPwr s f) := by
  obtain ⟨h1, h2, h3, h4⟩ := hf s.pwr
  have hm := hg.modes
  exact good_setPwr f hg (h1 ▸ hm.1) (h2 ▸ hm.2.1) (h3 ▸ hm.2.2.1) (h4 ▸ hm.2.2.2.1)

theorem beginChange_good (s : State) (slot t : Nat) (ht : t ≤ 4) (hg : Good s0 s) : Good s0 (beginChange s slot t) :=
  good_setPwr _ hg hg.modes.1 ht hg.modes.2.2.1 hg.modes.2.2.2.1

theorem pwrCheck_le {s : State} {t : Nat} {b : Bool} (h : pwrCheck s t b = 0) : t ≤ 4 := by
  unfold pwrCheck at h
  split at h
  · cases h
  · omega

@[simp ↓] theorem pwrStateSetCmd_good (c : Cmd) (s : State) (hg : Good s0 s) :
    Good s0 (pwrStateSetCmd c s).1 := by
  unfold pwrStateSetCmd
  dsimp only
  split
  · exact hg
  · split
    · simp [hg]
    · rename_i h
      have ht := pwrCheck_le (Decidable.not_not.1 h)
      split
      · exact good_setPwr _ hg hg.modes.1 ht hg.modes.2.2.1 hg.modes.2.2.2.1
      · exact beginChange_good _ _ _ ht hg

@[simp ↓] theorem lanesDown_good (s : State) (hg : Good s0 s) :
    Good s0 (lanesDown s).1 := by
  simp +contextual (maxDischargeDepth := 99) [lanesDown, hg]

@[simp ↓] theorem selfRefresh_good (s : State) (p : Nat → Bool) (v : Bool) (hg : Good s0 s) :
    Good s0 (selfRefresh s p v) := by
  simp (maxDischargeDepth := 99) [selfRefresh, hg]

@[simp ↓] theorem powerRecord_good (s : State) (a b : Nat) (hg : Good s0 s) :
    Good s0 (powerRecord s a b).1 := by
  simp +contextual (maxDischargeDepth := 99) [powerRecord, hg]

@[simp ↓] theorem closeObserve_good (s : State) (hg : Good s0 s) : Good s0 (closeObserve s).1 := by
  simp +contextual (maxDischargeDepth := 99) [closeObserve, hg]

@[simp ↓] theorem stopSelfTest_good (s : State) (d : Nat) (hg : Good s0 s) :
    Good s0 (stopSelfTest s d) := by
  simp +contextual (maxDischargeDepth := 99) [stopSelfTest, hg]

@[simp ↓] theorem newRotation_good (s : State) (d : Nat) (hg : Good s0 s) :
    Good s0 (newRotation s d) := by
  simp +contextual (maxDischargeDepth := 99) [newRotation, hg]

@[simp ↓] theorem enterStandby_good (s : State) (hg : Good s0 s) :
    Good s0 (enterStandby s) := by
  simp +contextual (maxDischargeDepth := 99) [enterStandby, hg]

@[simp ↓] theorem diesUp_good (s : State) (hg : Good s0 s) : Good s0 (diesUp s) := by
  unfold diesUp
  refine good_foldl _ (fun a d h => ?_) _ _ hg
  split
  · exact reloadWeights_good _ _ _ (good_modDie d _ keepD_restoreDie h)
  · exact h

theorem keepD_sramLost (x : Die) : KeepD x (sramLost x) := by
  refine ⟨keepM_self _, keepL_reset _ x.pads, keepR_nil _, keepK_self _, rfl, ?_, rfl, ?_, ?_, rfl⟩ <;> simp [sramLost]

theorem keepD_dieDown (x : Die) : KeepD x (dieDown x) := by
  have h := keepD_saveDie x
  refine ⟨h.1, keepL_reset _ x.pads, keepR_nil _, h.2.2.2.1, rfl, ?_, rfl, ?_, ?_, rfl⟩ <;>
    simp [dieDown, sramLost, saveDie]

@[simp ↓] theorem enterRetention_good (s : State) (hg : Good s0 s) : Good s0 (enterRetention s).1 := by
  unfold enterRetention
  dsimp only
  generalize ht : selfRefresh ((computeDies (andThen (andThen (closeObserve s) lanesDown)
    fun t => writeCheckpoint t (!t.life.flashBad)).1).foldl (fun t d => modDie t d dieDown)
    (andThen (andThen (closeObserve s) lanesDown) fun t => writeCheckpoint t (!t.life.flashBad)).1)
    (fun _ => true) true = t
  have h1 : Good s0 t := by
    rw [← ht]
    refine selfRefresh_good _ _ _ (good_foldl _ (fun a d h => good_modDie d _ keepD_dieDown h) _ _ ?_)
    simp +contextual (maxDischargeDepth := 99) [hg]
  have h2 : Good s0 { t with dies := t.dies.map (fun x => { x with paceWins := [], lowRun := 0 }) } := by
    simp (maxDischargeDepth := 99) [h1]
  rw [good_mk]
  exact good_noChal h2

@[simp ↓] theorem entropyPass_good (s : State) (hg : Good s0 s) :
    Good s0 (entropyPass s) := by
  simp +contextual (maxDischargeDepth := 99) [entropyPass, hg]

@[simp ↓] theorem entropyStart_good (s : State) (hg : Good s0 s) :
    Good s0 (entropyStart s).1 := by
  simp +contextual (maxDischargeDepth := 99) [entropyStart, hg]

@[simp ↓] theorem retrain_good (s : State) (hg : Good s0 s) :
    Good s0 (retrain s).1 := by
  unfold retrain
  repeat' first
    | (simp +contextual (maxDischargeDepth := 99) [*]; done)
    | dsimp only
    | refine andThen_good _ _ (fun t h => ?_) ?_
    | refine good_foldl _ (fun t a h => ?_) _ _ ?_
    | refine good_foldl_fst _ (fun t a h => ?_) _ _ ?_
    | refine good_foldl_snd _ (fun t a h => ?_) _ _ ?_
    | split

@[simp ↓] theorem leaveRetention_good (s : State) (hg : Good s0 s) :
    Good s0 (leaveRetention s).1 := by
  simp +contextual (maxDischargeDepth := 99) [leaveRetention, hg]

@[simp ↓] theorem leaveStandby_good (s : State) (hg : Good s0 s) :
    Good s0 (leaveStandby s) := by
  simp +contextual (maxDischargeDepth := 99) [leaveStandby, hg]

@[simp ↓] theorem enterOff_good (s : State) (hg : Good s0 s) : Good s0 (enterOff s) := by
  have h := deviceReset_good s s.backup.cause none hg
  unfold enterOff
  dsimp only
  rw [good_mk]
  exact good_pwr h (Nat.zero_le _) (Nat.zero_le _) h.modes.2.2.1 h.modes.2.2.2.1

@[simp ↓] theorem arrive_good (s : State) (b : Nat) (hb : b ≤ 4) (hg : Good s0 s) : Good s0 (arrive s b) := by
  have hm := hg.modes
  have h1 := good_setPwr (fun p => { p with st := b, changing := false, slot := none, before := [], from_ := b,
                                            stepAt := s.raw }) hg hb hm.2.1 hm.2.2.1 hm.2.2.2.1
  have h2 := good_setPwr (fun p => { p with st := b, stepAt := s.raw }) hg hb hm.2.1 hm.2.2.1 hm.2.2.2.1
  unfold arrive
  repeat' split
  · exact completeSlot_good _ _ _ _ h1
  · exact h1
  · exact h2

@[simp ↓] theorem stepTo_good (s : State) (b : Nat) (a : State × List Ev) (hb : b ≤ 4) (hg : Good s0 a.1) :
    Good s0 (stepTo s b a) := by
  simp +contextual (maxDischargeDepth := 99) [stepTo, hb, hg]

@[simp ↓] theorem stepDown_good (s : State) (hg : Good s0 s) :
    Good s0 (stepDown s) := by
  simp +contextual (maxDischargeDepth := 99) [stepDown, hg]

@[simp ↓] theorem stepUp_good (s : State) (hg : Good s0 s) :
    Good s0 (stepUp s) := by
  unfold stepUp
  split <;> simp +contextual (maxDischargeDepth := 99) [hg]

@[simp ↓] theorem driveLevel_good (s : State) (l : Nat) (hg : Good s0 s) :
    Good s0 (driveLevel s l) := by
  simp +contextual (maxDischargeDepth := 99) [driveLevel, hg]

theorem beginPace_good (s : State) (slot l : Nat) (hl : l ≤ 2) (hg : Good s0 s) : Good s0 (beginPace s slot l) := by
  have h1 : ∀ w, Good s0 (modPwr s (fun p => { p with
      paceTo := some l, paceSlot := slot, paceDriven := none, paceWait := w })) := fun w =>
    good_setPwr _ hg hg.modes.1 hg.modes.2.1 hg.modes.2.2.1 (fun x h => by cases h; exact hl)
  unfold beginPace
  dsimp only
  by_cases hw : (if l < s.pwr.level then acceptedFrames s else []) = []
  · rw [if_pos hw]; exact driveLevel_good _ _ (h1 _)
  · rw [if_neg hw]; exact h1 _

theorem paceCheck_le {s : State} {l : Nat} {b : Bool} (h : paceCheck s l b = 0) : l ≤ 2 := by
  unfold paceCheck at h
  split at h
  · cases h
  · split at h
    · cases h
    · omega

@[simp ↓] theorem paceSetCmd_good (c : Cmd) (s : State) (hg : Good s0 s) : Good s0 (paceSetCmd c s).1 := by
  unfold paceSetCmd
  dsimp only
  split
  · exact hg
  · split
    · simp [hg]
    · rename_i h
      have hl := paceCheck_le (Decidable.not_not.1 h)
      split
      · simp [hg]
      · exact beginPace_good _ _ _ hl hg

@[simp ↓] theorem penGate_good (d : Nat) (s : State) (p : Nat) (hg : Good s0 s) :
    Good s0 (penGate d s p) := by
  unfold penGate
  split <;> simp +contextual (maxDischargeDepth := 99) [hg]

@[simp ↓] theorem gatePens_good (s : State) (d mask : Nat) (hg : Good s0 s) :
    Good s0 (gatePens s d mask) := by
  simp +contextual (maxDischargeDepth := 99) [gatePens, hg]

@[simp ↓] theorem pensLeave_good (s : State) (d mask : Nat) (hg : Good s0 s) :
    Good s0 (pensLeave s d mask).1 := by
  simp +contextual (maxDischargeDepth := 99) [pensLeave, hg]

@[simp ↓] theorem turnDieOff_good (s : State) (d : Nat) (hg : Good s0 s) : Good s0 (turnDieOff s d).1 := by
  have h1 : Good s0 (pensLeave s d 15).1 := by simp (maxDischargeDepth := 99) [hg]
  have h2 := good_modDie d (fun x => { sramLost x with
    pens := x.pens.map (fun u => { u with data := .off, unack := false }), paceWins := [], lowRun := 0 })
    (fun x => by
      have h := keepD_sramLost x
      exact ⟨h.1, h.2.1, h.2.2.1, h.2.2.2.1, by simp, h.2.2.2.2.2.1, h.2.2.2.2.2.2.1, h.2.2.2.2.2.2.2.1,
        h.2.2.2.2.2.2.2.2.1, h.2.2.2.2.2.2.2.2.2⟩)
    (selfRefresh_good _ (fun x => x == d) true h1)
  unfold turnDieOff
  dsimp only
  exact stopSelfTest_good _ _ (modPwr_good _ _ (fun p => by simp) h2)

@[simp ↓] theorem gateSetCmd_good (c : Cmd) (s : State) (hg : Good s0 s) :
    Good s0 (gateSetCmd c s).1 := by
  simp +contextual (maxDischargeDepth := 99) [gateSetCmd, hg]

@[simp ↓] theorem penPowerLost_good (d : Nat) (s : State) (p : Nat) (hg : Good s0 s) :
    Good s0 (penPowerLost d s p) := by
  simp +contextual (maxDischargeDepth := 99) [penPowerLost, hg]

@[simp ↓] theorem penOn_good (d passed : Nat) (a : State × List Ev) (p : Nat) (hg : Good s0 a.1) :
    Good s0 (penOn d passed a p).1 := by
  unfold penOn
  repeat' first
    | (simp +contextual (maxDischargeDepth := 99) [*]; done)
    | dsimp only
    | refine andThen_good _ _ (fun t h => ?_) ?_
    | refine good_foldl _ (fun t a h => ?_) _ _ ?_
    | refine good_foldl_fst _ (fun t a h => ?_) _ _ ?_
    | refine good_foldl_snd _ (fun t a h => ?_) _ _ ?_
    | split

@[simp ↓] theorem placeRole_good (s : State) (d : Nat) (hg : Good s0 s) :
    Good s0 (placeRole s d) := by
  simp +contextual (maxDischargeDepth := 99) [placeRole, hg]

@[simp ↓] theorem pensOnEnd_good (slot d : Nat) (a : State × List Ev) (hg : Good s0 a.1) :
    Good s0 (pensOnEnd slot d a) := by
  simp +contextual (maxDischargeDepth := 99) [pensOnEnd, hg]

@[simp ↓] theorem channelFails_good (d : Nat) (a : State × List Ev) (c : Nat) (hg : Good s0 a.1) :
    Good s0 (channelFails d a c).1 := by
  simp +contextual (maxDischargeDepth := 99) [channelFails, hg]

@[simp ↓] theorem fenceClearCmd_good (c : Cmd) (s : State) (hg : Good s0 s) :
    Good s0 (fenceClearCmd c s).1 := by
  simp +contextual (maxDischargeDepth := 99) [fenceClearCmd, hg]

@[simp ↓] theorem followDie_good (s : State) (d : Nat) (hg : Good s0 s) :
    Good s0 (followDie s d) := by
  simp +contextual (maxDischargeDepth := 99) [followDie, hg]

@[simp ↓] theorem penCleared_good (s : State) (d p : Nat) (hg : Good s0 s) :
    Good s0 (penCleared s d p) := by
  simp +contextual (maxDischargeDepth := 99) [penCleared, hg]

@[simp ↓] theorem dieCleared_good (s : State) (d : Nat) (hg : Good s0 s) : Good s0 (dieCleared s d) := by
  have h1 := good_modDie d (fun x => { sramLost x with fences := [], units := [], ports := [], misses := [] })
    (fun x => by
      have h := keepD_sramLost x
      exact ⟨h.1, h.2.1, h.2.2.1, keepK_nil _, h.2.2.2.2.1, h.2.2.2.2.2.1, h.2.2.2.2.2.2.1, h.2.2.2.2.2.2.2.1,
        h.2.2.2.2.2.2.2.2.1, h.2.2.2.2.2.2.2.2.2⟩) hg
  have h2 : ∀ l, Good s0 { modDie s d (fun x => { sramLost x with fences := [], units := [], ports := [], misses := [] })
      with arbs := l } := fun l => by rw [good_mk]; exact h1
  unfold dieCleared
  dsimp only
  refine newRotation_good _ _ (placeRole_good _ _ (good_foldl _ (fun a c h => placeAdapted_good _ _ _ _ _ h) _ _
    (reloadWeights_good _ _ _ (h2 _))))

@[simp ↓] theorem clearPen_good (d : Nat) (pens : Nat) (a : State × List Ev) (p : Nat) (hg : Good s0 a.1) :
    Good s0 (clearPen d pens a p).1 := by
  simp +contextual (maxDischargeDepth := 99) [clearPen, hg]

@[simp ↓] theorem clearPasses_good (s : State) (slot d kind p pens : Nat) (hg : Good s0 s) :
    Good s0 (clearPasses s slot d kind p pens) := by
  simp +contextual (maxDischargeDepth := 99) [clearPasses, hg]

@[simp ↓] theorem clearFails_good (s : State) (slot d kind p : Nat) (hg : Good s0 s) :
    Good s0 (clearFails s slot d kind p) := by
  simp +contextual (maxDischargeDepth := 99) [clearFails, hg]

@[simp ↓] theorem acceptPower_good (s : State) (c : Cmd) (hg : Good s0 s) : Good s0 (acceptPower s c) := by
  unfold acceptPower
  dsimp only
  split
  · exact setNote_good _ _ _ hg
  · split
    · rename_i h
      exact setNote_good _ _ _ (beginChange_good _ _ _ (pwrCheck_le h.2.1) hg)
    · split
      · rename_i h
        exact setNote_good _ _ _ (beginPace_good _ _ _ (paceCheck_le h.2.1) hg)
      · exact hg

/-! ## HostWrite -/

@[simp ↓] theorem storeUnit_good (s : State) (ch off : Nat) (data : List Byte) (mask : BitVec 32) (md : BitVec 32)
    (hg : Good s0 s) :
    Good s0 (storeUnit s ch off data mask md) := by
  simp +contextual (maxDischargeDepth := 99) [storeUnit, hg]

@[simp ↓] theorem acceptEffect_good (s : State) (slot : Nat) (hg : Good s0 s) :
    Good s0 (acceptEffect s slot) := by
  unfold acceptEffect
  (repeat' split) <;> simp +contextual (maxDischargeDepth := 99) [hg, *]

@[simp ↓] theorem sealTaken_good (s : State) (slot : Nat) (hg : Good s0 s) :
    Good s0 (sealTaken s slot) := by
  simp +contextual (maxDischargeDepth := 99) [sealTaken, hg]

theorem leNat_lt (l : List Byte) : leNat l < 256 ^ l.length := by
  induction l with
  | nil => simp [leNat]
  | cons b l ih =>
    have := b.isLt
    simp only [leNat, List.length_cons, Nat.pow_succ]
    omega

@[simp ↓] theorem afterStore_good (s : State) (ch off : Nat) (mask : BitVec 32) (hg : Good s0 s) :
    Good s0 (afterStore s ch off mask) := by
  have h1 := leNat_lt (memRead (chanOf s ch).mem off 4)
  simp only [memRead_length] at h1
  unfold afterStore
  split
  · exact sealTaken_good _ _ hg
  · split
    · exact takeConsumer_good _ _ _ h1 hg
    · split
      · exact publishWindow_good _ _ _ hg
      · exact hg

@[simp ↓] theorem portStore_good (s : State) (ch off : Nat) (data : List Byte) (mask : BitVec 32) (md : BitVec 32)
    (hg : Good s0 s) :
    Good s0 (portStore s ch off data mask md) := by
  unfold portStore
  split <;> simp +contextual (maxDischargeDepth := 99) [hg]

@[simp ↓] theorem portBurst_good (s : State) (ch sub bank col : Nat) (data : List Byte) (mask : BitVec 32) (md : BitVec 32) (hg : Good s0 s) :
    Good s0 (portBurst s ch sub bank col data mask md) := by
  unfold portBurst
  (repeat' split) <;> simp +contextual (maxDischargeDepth := 99) [hg, *]

@[simp ↓] theorem offsetBurst_good (s : State) (ch off : Nat) (data : List Byte) (mask : BitVec 32) (md : BitVec 32) (hg : Good s0 s) :
    Good s0 (offsetBurst s ch off data mask md) := by
  simp +contextual (maxDischargeDepth := 99) [offsetBurst, hg]

/-! ## Arbiters -/

@[simp ↓] theorem setArb_good (s : State) (a : ArbId) (x : ArbSt) (hg : Good s0 s) :
    Good s0 (setArb s a x) := by
  simp +contextual (maxDischargeDepth := 99) [setArb, hg]

@[simp ↓] theorem countGrant_good (s : State) (a : ArbId) (x : ArbSt) (w : Nat) (hg : Good s0 s) :
    Good s0 (countGrant s a x w) := by
  unfold countGrant
  split <;> simp +contextual (maxDischargeDepth := 99) [hg]

@[simp ↓] theorem faultRequester_good (s : State) (a : ArbId) (req : Nat) (hg : Good s0 s) :
    Good s0 (faultRequester s a req) := by
  unfold faultRequester
  split <;> simp +contextual (maxDischargeDepth := 99) [hg]

@[simp ↓] theorem cutRequester_good (s : State) (a : ArbId) (req : Nat) (hg : Good s0 s) :
    Good s0 (cutRequester s a req) := by
  unfold cutRequester
  split <;> simp +contextual (maxDischargeDepth := 99) [hg]

@[simp ↓] theorem burstOver_good (s : State) (a : ArbId) (req : Nat) (hg : Good s0 s) :
    Good s0 (burstOver s a req).1 := by
  simp +contextual (maxDischargeDepth := 99) [burstOver, hg]

@[simp ↓] theorem arbUse_good (s : State) (a : ArbId) (req : Nat) (hg : Good s0 s) :
    Good s0 (arbUse s a req).1 := by
  simp +contextual (maxDischargeDepth := 99) [arbUse, hg]

@[simp ↓] theorem arbServe_good (s : State) (a : ArbId) (x : ArbSt) (served : Nat) (hg : Good s0 s) :
    Good s0 (arbServe s a x served).1 := by
  unfold arbServe
  (repeat' split) <;> simp +contextual (maxDischargeDepth := 99) [hg, *]

/-! ## MainMemory -/

@[simp ↓] theorem modFrame_good (s : State) (x num : Nat) (f : Frame → Frame) (hg : Good s0 s) :
    Good s0 (modFrame s x num f) := by
  simp +contextual (maxDischargeDepth := 99) [modFrame, hg]

@[simp ↓] theorem poison_good (s : State) (x num : Nat) (hg : Good s0 s) :
    Good s0 (poison s x num) := by
  simp +contextual (maxDischargeDepth := 99) [poison, hg]

@[simp ↓] theorem checkerBad_good (s : State) (x num : Nat) (hg : Good s0 s) :
    Good s0 (checkerBad s x num) := by
  simp +contextual (maxDischargeDepth := 99) [checkerBad, hg]

@[simp ↓] theorem dropUpdates_good (s : State) (t n : Nat) (hg : Good s0 s) :
    Good s0 (dropUpdates s t n) := by
  unfold dropUpdates
  split <;> simp +contextual (maxDischargeDepth := 99) [hg]

@[simp ↓] theorem abandonFlip_good (s : State) (t : Nat) (hg : Good s0 s) :
    Good s0 (abandonFlip s t) := by
  unfold abandonFlip
  (repeat' split) <;> simp +contextual (maxDischargeDepth := 99) [hg, *]

@[simp ↓] theorem dropStagedOf_good (s : State) (slot : Nat) (hg : Good s0 s) :
    Good s0 (dropStagedOf s slot) := by
  simp +contextual (maxDischargeDepth := 99) [dropStagedOf, hg]

@[simp ↓] theorem dropWork_good (s : State) (slot : Nat) (hg : Good s0 s) : Good s0 (dropWork s slot) := by
  have hm := hg.modes
  have h1 := good_setPwr (fun p => { p with
      slot := if p.slot = some slot then none else p.slot,
      changing := p.changing && p.slot != some slot,
      paceTo := if p.paceTo.isSome ∧ p.paceSlot = slot then none else p.paceTo,
      gate := p.gate.filter (fun g => g.1 != slot), clear := p.clear.filter (fun g => g.1 != slot) }) hg hm.1 hm.2.1
    hm.2.2.1 (fun l hl => by
      dsimp only at hl
      split at hl
      · cases hl
      · exact hm.2.2.2.1 l hl)
  unfold dropWork
  dsimp only
  rw [good_mk]
  refine good_debug h1 ?_ ?_ <;> split <;> first | exact hm.2.2.2.2.1 | exact hm.2.2.2.2.2

@[simp ↓] theorem failCommand_good (s : State) (slot st : Nat) (hg : Good s0 s) :
    Good s0 (failCommand s slot st) := by
  unfold failCommand
  split <;> simp +contextual (maxDischargeDepth := 99) [hg]

@[simp ↓] theorem readFails_good (s : State) (r : ReadFor) (hg : Good s0 s) :
    Good s0 (readFails s r) := by
  unfold readFails
  split <;> simp +contextual (maxDischargeDepth := 99) [hg]

@[simp ↓] theorem modMmc_good (s : State) (d ch : Nat) (f : MemChan → MemChan) (hg : Good s0 s) :
    Good s0 (modMmc s d ch f) := by
  simp +contextual (maxDischargeDepth := 99) [modMmc, hg]

@[simp ↓] theorem mmcCnt_good (s : State) (d ch n k : Nat) (hg : Good s0 s) :
    Good s0 (mmcCnt s d ch n k) := by
  simp +contextual (maxDischargeDepth := 99) [mmcCnt, hg]

@[simp ↓] theorem mmcBursts_good (s : State) (d ch n k : Nat) (hg : Good s0 s) :
    Good s0 (mmcBursts s d ch n k) := by
  simp +contextual (maxDischargeDepth := 99) [mmcBursts, hg]

@[simp ↓] theorem storeBurst_good (s : State) (d ch off : Nat) (data : List Byte) (hg : Good s0 s) :
    Good s0 (storeBurst s d ch off data) := by
  simp +contextual (maxDischargeDepth := 99) [storeBurst, hg]

@[simp ↓] theorem chanLog_good (s : State) (d ch kind mask off : Nat) (hg : Good s0 s) :
    Good s0 (chanLog s d ch kind mask off) := by
  simp +contextual (maxDischargeDepth := 99) [chanLog, hg]

@[simp ↓] theorem burstCorrected_good (s : State) (d ch off k : Nat) (recv fixed : List Byte) (patrol : Bool) (hg :
    Good s0 s) :
    Good s0 (burstCorrected s d ch off k recv fixed patrol) := by
  simp +contextual (maxDischargeDepth := 99) [burstCorrected, hg]

@[simp ↓] theorem channelCheck_good (s : State) (d ch : Nat) (hg : Good s0 s) :
    Good s0 (channelCheck s d ch).1 := by
  simp +contextual (maxDischargeDepth := 99) [channelCheck, hg]

@[simp ↓] theorem burstBad_good (s : State) (d ch off : Nat) (r : ReadFor) (hg : Good s0 s) :
    Good s0 (burstBad s d ch off r) := by
  simp +contextual (maxDischargeDepth := 99) [burstBad, hg]

@[simp ↓] theorem deliverBurst_good (s : State) (d ch off : Nat) (data : List Byte) (hg : Good s0 s) :
    Good s0 (deliverBurst s d ch off data) := by
  simp +contextual (maxDischargeDepth := 99) [deliverBurst, hg]

@[simp ↓] theorem readBurst_good (s : State) (d ch off : Nat) (err : List Byte) (r : ReadFor) (patrol : Bool) (hg :
    Good s0 s) :
    Good s0 (readBurst s d ch off err r patrol) := by
  simp only [readBurst]
  (repeat' split) <;> simp +contextual (maxDischargeDepth := 99) [hg, *]

@[simp ↓] theorem admitHeld_good (s : State) (d ch : Nat) (hg : Good s0 s) :
    Good s0 (admitHeld s d ch) := by
  simp +contextual (maxDischargeDepth := 99) [admitHeld, hg]

theorem drainQueue_good' (n : Nat) : ∀ (s : State) (d ch : Nat), Good s0 s → Good s0 (drainQueue n s d ch) := by
  induction n with
  | zero => exact fun _ _ _ h => h
  | succ n ih =>
    intro s d ch h
    unfold drainQueue
    split
    · exact h
    · exact ih _ _ _ (by simp (maxDischargeDepth := 99) [h])

@[simp ↓] theorem drainQueue_good (n : Nat) (s : State) (d ch : Nat) (hg : Good s0 s) :
    Good s0 (drainQueue n s d ch) := drainQueue_good' n s d ch hg

@[simp ↓] theorem chanAccess_good (s : State) (d ch req : Nat) (f : State → State) (hf : ∀ t, Good s0 t → Good s0 (f t))
    (hg : Good s0 s) : Good s0 (chanAccess s d ch req f) := raise_good _ _ (arbUse_good _ _ _ (hf _ hg))

@[simp ↓] theorem enqueueWrite_good (s : State) (d ch off : Nat) (data : List Byte) (hg : Good s0 s) :
    Good s0 (enqueueWrite s d ch off data) := by
  simp +contextual (maxDischargeDepth := 99) [enqueueWrite, hg]

@[simp ↓] theorem sramCnt_good (s : State) (d t n : Nat) (hg : Good s0 s) :
    Good s0 (sramCnt s d t n) := by
  simp +contextual (maxDischargeDepth := 99) [sramCnt, hg]

@[simp ↓] theorem bankLog_good (s : State) (d t bank kind mask : Nat) (hg : Good s0 s) :
    Good s0 (bankLog s d t bank kind mask) := by
  simp +contextual (maxDischargeDepth := 99) [bankLog, hg]

@[simp ↓] theorem wordVictim_good (s : State) (r : ReadFor) (hg : Good s0 s) :
    Good s0 (wordVictim s r) := by
  unfold wordVictim
  split <;> simp +contextual (maxDischargeDepth := 99) [hg]

@[simp ↓] theorem loseVerdicts_good (s : State) (ctxs : List Nat) (hg : Good s0 s) :
    Good s0 (loseVerdicts s ctxs) := by
  simp +contextual (maxDischargeDepth := 99) [loseVerdicts, hg]

@[simp ↓] theorem dropStaged_good (s : State) (lane : Nat) (hg : Good s0 s) :
    Good s0 (dropStaged s lane) := by
  unfold dropStaged
  split <;> simp +contextual (maxDischargeDepth := 99) [hg]

@[simp ↓] theorem wordBadCompute_good (s : State) (d t bank : Nat) (hg : Good s0 s) :
    Good s0 (wordBadCompute s d t bank).1 := by
  simp +contextual (maxDischargeDepth := 99) [wordBadCompute, hg]

@[simp ↓] theorem wordBadHub_good (s : State) (t bank : Nat) (r : ReadFor) (hg : Good s0 s) :
    Good s0 (wordBadHub s t bank r) := by
  unfold wordBadHub
  (repeat' split) <;> simp +contextual (maxDischargeDepth := 99) [hg, *]

@[simp ↓] theorem scrubWord_good (s : State) (d t bank : Nat) (err : SramErr) (r : ReadFor) (hg : Good s0 s) :
    Good s0 (scrubWord s d t bank err r) := by
  unfold scrubWord
  split <;> simp +contextual (maxDischargeDepth := 99) [hg]

@[simp ↓] theorem scrubMark_good (s : State) (d t bank at_ : Nat) (hg : Good s0 s) :
    Good s0 (scrubMark s d t bank at_) := by
  simp +contextual (maxDischargeDepth := 99) [scrubMark, hg]

@[simp ↓] theorem memoryPut_good (d : Nat) (s : State) (e : Nat × Byte) (hg : Good s0 s) :
    Good s0 (memoryPut d s e) := by
  simp +contextual (maxDischargeDepth := 99) [memoryPut, hg]

theorem memWrites_wf {α : Type} (m : Memory) (l : List α) (a : α → Nat) (b : α → List Byte) (h : m.wf = true) :
    Memory.wf (l.foldl (fun m e => memWrite m (a e) (b e)) m) = true :=
  keepM_foldl _ (fun m e h => memWrite_wf _ _ h) l m h

theorem sram_wf (a : List (Nat × Memory)) (t : Nat) (w : ∀ e ∈ a, Memory.wf e.2 = true) :
    Memory.wf ((mapFind a t).getD []) = true := by
  cases h : mapFind a t with
  | none => rfl
  | some v => obtain ⟨e, he, rfl⟩ := mapFind_mem h; exact w e he

@[simp ↓] theorem storeWrite_good (s : State) (d t addr : Nat) (data : List Byte) (hg : Good s0 s) :
    Good s0 (storeWrite s d t addr data) := by
  have h1 := good_modDie d (fun x => { x with sram := mapPut x.sram t (memWrite ((slotsMet s d t addr data.length).foldl
    (fun m e => memWrite m e.2.2 (slotBytes e.1 e.2.1 t)) ((mapFind x.sram t).getD [])) addr data) }) (fun x =>
      ⟨keepM_self _, keepL_self _, keepR_put _ _ _ (fun w => memWrite_wf _ _ (memWrites_wf _ _ _ _ (sram_wf _ _ w))),
        keepK_self _, rfl, rfl, rfl, rfl, rfl, rfl⟩) hg
  unfold storeWrite
  dsimp only
  rw [good_mk]
  exact h1

@[simp ↓] theorem targetWrite_good (s : State) (d t addr : Nat) (data : List Byte) (hg : Good s0 s) :
    Good s0 (targetWrite s d t addr data) := by
  have h1 : Good s0 { s with dbg := { s.dbg with hubMem := memWrite s.dbg.hubMem addr data } } := by
    obtain ⟨g0, g1, g2, g3, g4, g5, g6, g7, g8⟩ := hg
    exact ⟨g0, g1, g2, g3, g4, g5, g6, memWrite_wf _ _ g7, g8⟩
  unfold targetWrite
  repeat' split
  · exact good_foldl _ (fun t e h => memoryPut_good d t e h) _ _ hg
  · simp [hg]
  · simp [hg]
  · exact storeWrite_good _ _ _ _ _ hg
  · simp [hg]
  · exact h1
  · simp [hg]

@[simp ↓] theorem fwRecord_good (s : State) (d t domain addr : Nat) (write : Bool) (hg : Good s0 s) :
    Good s0 (fwRecord s d t domain addr write) := by
  simp +contextual (maxDischargeDepth := 99) [fwRecord, hg]

@[simp ↓] theorem refusedFor_good (s : State) (domain : Nat) (r : ReadFor) (hg : Good s0 s) :
    Good s0 (refusedFor s domain r) := by
  unfold refusedFor
  split <;> simp +contextual (maxDischargeDepth := 99) [hg]

@[simp ↓] theorem fwRefuse_good (s : State) (d t domain addr : Nat) (write : Bool) (r : ReadFor) (hg : Good s0 s) :
    Good s0 (fwRefuse s d t domain addr write r) := by
  simp +contextual (maxDischargeDepth := 99) [fwRefuse, hg]

@[simp ↓] theorem writeAhead_good (s : State) (d : Nat) (hg : Good s0 s) :
    Good s0 (writeAhead s d) := by
  simp +contextual (maxDischargeDepth := 99) [writeAhead, hg]

@[simp ↓] theorem fwRead_good (s : State) (d t domain addr len : Nat) (r : ReadFor) (hg : Good s0 s) :
    Good s0 (fwRead s d t domain addr len r).2 := by
  unfold fwRead
  split <;> simp +contextual (maxDischargeDepth := 99) [hg]

@[simp ↓] theorem fwWrite_good (s : State) (d t domain addr : Nat) (data : List Byte) (r : ReadFor) (hg : Good s0 s) :
    Good s0 (fwWrite s d t domain addr data r) := by
  simp +contextual (maxDischargeDepth := 99) [fwWrite, hg]

/-! ## MapTable -/

@[simp ↓] theorem countWindow_good (s : State) (ctx d : Nat) (t : MapTable) (rows : List MapRow) (l : List Tap) (hg :
    Good s0 s) :
    Good s0 (countWindow s ctx d t rows l) := by
  simp +contextual (maxDischargeDepth := 99) [countWindow, hg]

@[simp ↓] theorem keepGrads_good (s : State) (f : Frame) (t : Nat) (gs : List Grad) (hg : Good s0 s) :
    Good s0 (keepGrads s f t gs).1 := by
  simp only [keepGrads]
  (repeat' split) <;> simp +contextual (maxDischargeDepth := 99) [hg, *]

@[simp ↓] theorem updateResult_good (s : State) (p : PkgDecl) (f : Frame) (o : OpDecl) (hg : Good s0 s) :
    Good s0 (updateResult s p f o).1 := by
  unfold updateResult
  repeat' first
    | (simp +contextual (maxDischargeDepth := 99) [*]; done)
    | dsimp only
    | refine andThen_good _ _ (fun t h => ?_) ?_
    | refine good_foldl _ (fun t a h => ?_) _ _ ?_
    | refine good_foldl_fst _ (fun t a h => ?_) _ _ ?_
    | refine good_foldl_snd _ (fun t a h => ?_) _ _ ?_
    | split

@[simp ↓] theorem mtuResult_good (s : State) (p : PkgDecl) (f : Frame) (o : OpDecl) (hg : Good s0 s) :
    Good s0 (mtuResult s p f o).1 := by
  unfold mtuResult
  (repeat' split) <;> simp +contextual (maxDischargeDepth := 99) [hg, *]

@[simp ↓] theorem windowCounts_good (s : State) (f : Frame) (o : OpDecl) (ctx die : Nat) (w : Option (Nat × List
    Tap)) (hg : Good s0 s) :
    Good s0 (windowCounts s f o ctx die w) := by
  unfold windowCounts
  split <;> simp +contextual (maxDischargeDepth := 99) [hg]

@[simp ↓] theorem modTable_good (s : State) (t : Nat) (g : MapTable → MapTable) (hg : Good s0 s) :
    Good s0 (modTable s t g) := by
  simp +contextual (maxDischargeDepth := 99) [modTable, hg]

@[simp ↓] theorem openLoad_good (s : State) (t : Nat) (b : List Byte) (hg : Good s0 s) :
    Good s0 (openLoad s t b) := by
  simp +contextual (maxDischargeDepth := 99) [openLoad, hg]

@[simp ↓] theorem resumeCtxs_good (s : State) (t : Nat) (ids : List Nat) (hg : Good s0 s) :
    Good s0 (resumeCtxs s t ids) := by
  unfold resumeCtxs
  repeat' first
    | (simp +contextual (maxDischargeDepth := 99) [*]; done)
    | dsimp only
    | refine andThen_good _ _ (fun t h => ?_) ?_
    | refine good_foldl _ (fun t a h => ?_) _ _ ?_
    | refine good_foldl_fst _ (fun t a h => ?_) _ _ ?_
    | refine good_foldl_snd _ (fun t a h => ?_) _ _ ?_
    | split

@[simp ↓] theorem abortLoad_good (s : State) (t : Nat) (hg : Good s0 s) :
    Good s0 (abortLoad s t) := by
  unfold abortLoad
  (repeat' split) <;> simp +contextual (maxDischargeDepth := 99) [hg, *]

@[simp ↓] theorem placePart_good (s : State) (t : Nat) (new : List MapRow) (slot : Option Nat) (hg : Good s0 s) :
    Good s0 (placePart s t new slot) := by
  unfold placePart
  split <;> simp +contextual (maxDischargeDepth := 99) [hg]

@[simp ↓] theorem maptableReplaceCmd_good (c : Cmd) (s : State) (hg : Good s0 s) :
    Good s0 (maptableReplaceCmd c s).1 := by
  simp +contextual (maxDischargeDepth := 99) [maptableReplaceCmd, hg]

@[simp ↓] theorem holdFlip_good (s : State) (t : MapTable) (hg : Good s0 s) :
    Good s0 (holdFlip s t) := by
  simp +contextual (maxDischargeDepth := 99) [holdFlip, hg]

@[simp ↓] theorem applyUpdate_good (w : Nat) (a : State × List MapRow) (u : HeldUpd) (hg : Good s0 a.1) :
    Good s0 (applyUpdate w a u).1 := by
  unfold applyUpdate
  repeat' first
    | (simp +contextual (maxDischargeDepth := 99) [*]; done)
    | dsimp only
    | refine andThen_good _ _ (fun t h => ?_) ?_
    | refine good_foldl _ (fun t a h => ?_) _ _ ?_
    | refine good_foldl_fst _ (fun t a h => ?_) _ _ ?_
    | refine good_foldl_snd _ (fun t a h => ?_) _ _ ?_
    | split

/-! ## Paddocks -/

@[simp ↓] theorem gatherNote_good (s : State) (g : Nat) (src : GatherSrc) (len : Nat) (hg : Good s0 s) :
    Good s0 (gatherNote s g src len) := by
  unfold gatherNote
  split <;> simp +contextual (maxDischargeDepth := 99) [hg]

@[simp ↓] theorem gatherRefused_good (s : State) (g thread : Nat) (src : GatherSrc) (len : Nat) (hg : Good s0 s) :
    Good s0 (gatherRefused s g thread src len) := by
  unfold gatherRefused
  split <;> simp +contextual (maxDischargeDepth := 99) [hg]

@[simp ↓] theorem gatherData_good (s : State) (x : Gather) (hg : Good s0 s) :
    Good s0 (gatherData s x).2 := by
  unfold gatherData
  split <;> simp +contextual (maxDischargeDepth := 99) [hg]

@[simp ↓] theorem modEngine_good (s : State) (d cluster : Nat) (f : Engine → Engine) (hg : Good s0 s) :
    Good s0 (modEngine s d cluster f) := by
  simp +contextual (maxDischargeDepth := 99) [modEngine, hg]

@[simp ↓] theorem engineLine_good (s : State) (d cluster addr : Nat) (hg : Good s0 s) :
    Good s0 (engineLine s d cluster addr) := by
  simp only [engineLine]
  (repeat' split) <;> simp +contextual (maxDischargeDepth := 99) [hg, *]

@[simp ↓] theorem accRead_good (s : State) (d cluster req addr n : Nat) (r : ReadFor) (hg : Good s0 s) :
    Good s0 (accRead s d cluster req addr n r) := by
  unfold accRead
  split <;> simp +contextual (maxDischargeDepth := 99) [hg]

@[simp ↓] theorem moveLine_good (s : State) (d cluster req addr : Nat) (hg : Good s0 s) :
    Good s0 (moveLine s d cluster req addr) := by
  unfold moveLine
  (repeat' split) <;> simp +contextual (maxDischargeDepth := 99) [hg, *]

@[simp ↓] theorem accEffect_good (s : State) (d cluster req : Nat) (acc : PaddockAcc) (r : ReadFor) (off : Nat) (p : Nat × Nat) (hg : Good s0 s) :
    Good s0 (accEffect s d cluster req acc r off p) := by
  unfold accEffect
  split <;> simp +contextual (maxDischargeDepth := 99) [hg]

@[simp ↓] theorem countSlot_good (s : State) (d cluster req : Nat) (hg : Good s0 s) :
    Good s0 (countSlot s d cluster req) := by
  simp +contextual (maxDischargeDepth := 99) [countSlot, hg]

@[simp ↓] theorem accPiece_good (d cluster req : Nat) (acc : PaddockAcc) (r : ReadFor) (a : State × List Ev) (p : Nat × Nat) (hg : Good s0 a.1) :
    Good s0 (accPiece d cluster req acc r a p).1 := by
  unfold accPiece
  (repeat' split) <;> simp +contextual (maxDischargeDepth := 99) [hg, *]

@[simp ↓] theorem dropGrants_good (s : State) (d cluster req : Nat) (pieces : List (Nat × Nat)) (hg : Good s0 s) :
    Good s0 (dropGrants s d cluster req pieces) := by
  simp +contextual (maxDischargeDepth := 99) [dropGrants, hg]

@[simp ↓] theorem accRefused_good (s : State) (d cluster : Nat) (acc : PaddockAcc) (r : ReadFor) (hg : Good s0 s) :
    Good s0 (accRefused s d cluster acc r) := by
  unfold accRefused
  split <;> simp +contextual (maxDischargeDepth := 99) [hg]

/-! ## Security -/

@[simp ↓] theorem envFail_good (s : State) (kind st : Nat) (hg : Good s0 s) :
    Good s0 (envFail s kind st) := by
  simp +contextual (maxDischargeDepth := 99) [envFail, hg]

@[simp ↓] theorem entropyBlock_good (s : State) (hg : Good s0 s) :
    Good s0 (entropyBlock s).2 := by
  simp +contextual (maxDischargeDepth := 99) [entropyBlock, hg]

@[simp ↓] theorem entropyBlocks_good (n : Nat) : ∀ s : State, Good s0 s → Good s0 (entropyBlocks n s).2 := by
  induction n with
  | zero => exact fun s h => h
  | succ n ih => exact fun s h => ih _ (entropyBlock_good _ h)

@[simp ↓] theorem signBlocks_good (s : State) (hg : Good s0 s) :
    Good s0 (signBlocks s).2 := by
  simp +contextual (maxDischargeDepth := 99) [signBlocks, hg]

@[simp ↓] theorem withEntropy_good (code slot : Nat) (s : State) (draws : Cmd → State → Bool)
    (f : Cmd → State → State × CmdRes) (hf : ∀ c t, Good s0 t → Good s0 (f c t).1) (hg : Good s0 s) :
    Good s0 (withEntropy code slot s draws f) := by
  unfold withEntropy
  split
  · exact hg
  · exact withCmd_good _ _ _ _ hf hg

@[simp ↓] theorem openUpd_good (s : State) (u : Option (List Byte)) (hg : Good s0 s) :
    Good s0 (openUpd s u) := by
  simp +contextual (maxDischargeDepth := 99) [openUpd, hg]

@[simp ↓] theorem fwLast_good (s : State) (slot : Nat) (b : List Byte) (hg : Good s0 s) :
    Good s0 (fwLast s slot b).1 := by
  simp +contextual (maxDischargeDepth := 99) [fwLast, hg]

@[simp ↓] theorem fwUpdateCmd_good (c : Cmd) (s : State) (hg : Good s0 s) :
    Good s0 (fwUpdateCmd c s).1 := by
  simp +contextual (maxDischargeDepth := 99) [fwUpdateCmd, hg]

@[simp ↓] theorem applyBundle_good (s : State) (slot : Nat) (d : List Byte) (hg : Good s0 s) :
    Good s0 (applyBundle s slot d).1 := by
  simp +contextual (maxDischargeDepth := 99) [applyBundle, hg]

@[simp ↓] theorem bundleApplyCmd_good (c : Cmd) (s : State) (hg : Good s0 s) :
    Good s0 (bundleApplyCmd c s).1 := by
  simp +contextual (maxDischargeDepth := 99) [bundleApplyCmd, hg]

@[simp ↓] theorem attestCmd_good (c : Cmd) (s : State) (hg : Good s0 s) : Good s0 (attestCmd c s).1 := by
  have h1 : ∀ a b d, Good s0 (apertureWrite (signBlocks s).2 a b d) := fun a b d => by
    simp (maxDischargeDepth := 99) [hg]
  unfold attestCmd
  dsimp only
  split
  · simp [hg]
  · split
    · simp [hg]
    · split
      · simp [hg]
      · dsimp only
        split
        · exact apertureWrite_good _ _ _ _ (h1 _ _ _)
        · exact h1 _ _ _

@[simp ↓] theorem setChal_good (s : State) (c : Option (Nat × List Byte × Nat)) (hc : ∀ k, c = some k → k.1 ≤ 2)
    (hg : Good s0 s) : Good s0 (setChal s c) := by
  unfold setChal
  rw [good_mk]
  exact good_debug hg hg.modes.2.2.2.2.1 hc

@[simp ↓] theorem challengeZero_good (s : State) (hg : Good s0 s) : Good s0 (challengeZero s).1 := by
  unfold challengeZero
  repeat' split
  all_goals simp +contextual (maxDischargeDepth := 99) [hg]

@[simp ↓] theorem debugChallengeCmd_good (c : Cmd) (s : State) (hg : Good s0 s) :
    Good s0 (debugChallengeCmd c s).1 := by
  simp +contextual (maxDischargeDepth := 99) [debugChallengeCmd, hg]

theorem zeroise_grows (nv : NonVol) (f : FlashSteps) (h : NvOk nv) : Grows nv (zeroise nv f) ∧ NvOk (zeroise nv f) := by
  have h1 := h.1
  unfold zeroise
  split
  · refine ⟨⟨fun _ h => h, fun h => h, fun h => h, ?_, Nat.le_refl _, fun _ h => h⟩, ?_, h.2⟩ <;> dsimp only <;> omega
  · exact ⟨Grows.refl nv, h⟩

@[simp ↓] theorem grantUnlock_good (s : State) (level : Nat) (dur : Option Nat) (f : FlashSteps) (hl : level ≤ 2)
    (hg : Good s0 s) : Good s0 (grantUnlock s level dur f) := by
  unfold grantUnlock
  dsimp only
  have h1 : Good s0 { s with nv := if level = 2 ∧ lifecycle s.nv = 2 then zeroise s.nv f else s.nv } := by
    rw [good_mk]
    refine good_nv hg (fun h => ?_)
    split
    · exact zeroise_grows _ _ h
    · exact ⟨Grows.refl _, h⟩
  apply raise_good
  rw [good_mk]
  exact good_debug h1 hl hg.modes.2.2.2.2.2

@[simp ↓] theorem unlockEnd_good (s : State) (level : Nat) (dur : Option Nat) (flashOk : FlashSteps) (hl : level ≤ 2)
    (hg : Good s0 s) : Good s0 (unlockEnd s level dur flashOk).1 := by
  unfold unlockEnd
  repeat' split
  all_goals simp (maxDischargeDepth := 99) [hg, hl]

@[simp ↓] theorem unlockWith_good (s : State) (c : Cmd) (level : Nat) (nonce : List Byte) (flashOk : FlashSteps)
    (hl : level ≤ 2) (hg : Good s0 s) : Good s0 (unlockWith s c level nonce flashOk).1 := by
  unfold unlockWith
  dsimp only
  repeat' split
  all_goals simp (maxDischargeDepth := 99) [hg, hl]

@[simp ↓] theorem debugUnlockCmd_good (flashOk : FlashSteps) (c : Cmd) (s : State) (hg : Good s0 s) :
    Good s0 (debugUnlockCmd flashOk c s).1 := by
  have h1 : Good s0 (setChal s none) := setChal_good s none (fun _ h => by cases h) hg
  unfold debugUnlockCmd
  dsimp only
  split
  · simp [h1]
  · split
    · simp [h1]
    · rename_i k hk
      exact unlockWith_good _ _ _ _ _ (hg.modes.2.2.2.2.2 k hk) h1

theorem entropyBlocks_nv (n : Nat) : ∀ s : State, (entropyBlocks n s).2.nv = s.nv := by
  induction n with
  | zero => exact fun s => rfl
  | succ n ih => exact fun s => (ih _).trans rfl

theorem lifeChange_grows (nv : NonVol) (target : Nat) (b : List Byte) (f : FlashSteps) (h : NvOk nv) :
    Grows nv (lifeChange nv target b f).1 ∧ NvOk (lifeChange nv target b f).1 := by
  unfold lifeChange
  dsimp only
  split
  · split
    · refine ⟨⟨fun _ h => h, fun h => ?_, fun h => h, Nat.le_refl _, Nat.le_refl _, fun _ h => h⟩, h⟩
      simp [h]
    · exact ⟨Grows.refl nv, h⟩
  · split
    · exact ⟨Grows.refl nv, h⟩
    · split
      · split
        · exact ⟨Grows.refl nv, h⟩
        · split
          · have h1 := zeroise_grows nv ⟨f.second, f.third, f.third⟩ h
            exact ⟨⟨h1.1.1, h1.1.2.1, fun _ => rfl, h1.1.2.2.2⟩, h1.2⟩
          · exact ⟨⟨fun _ h => h, fun h => h, fun _ => rfl, Nat.le_refl _, Nat.le_refl _, fun _ h => h⟩, h⟩
      · exact zeroise_grows nv f h

@[simp ↓] theorem lifeSet_good (s : State) (target : Nat) (b : List Byte) (f : FlashSteps) (hg : Good s0 s) :
    Good s0 (lifeSet s target b f).1 := by
  have h0 : Good s0 (if target = 2 then (signBlocks s).2 else s) := by
    split
    · exact signBlocks_good s hg
    · exact hg
  have hn : (if target = 2 then (signBlocks s).2 else s).nv = s.nv := by
    split
    · exact entropyBlocks_nv _ _
    · rfl
  generalize ht : (if target = 2 then (signBlocks s).2 else s) = u at h0 hn
  have h1 : ∀ l, Good s0 { u with nv := (lifeChange s.nv target b f).1, life := l } := fun l => by
    rw [good_mk, ← hn]
    exact good_nv h0 (lifeChange_grows _ _ _ _)
  unfold lifeSet
  dsimp only
  rw [ht]
  split
  · exact raise_good _ _ (h1 _)
  · exact h1 _

@[simp ↓] theorem lifecycleSetCmd_good (flashOk : FlashSteps) (c : Cmd) (s : State) (hg : Good s0 s) :
    Good s0 (lifecycleSetCmd flashOk c s).1 := by
  unfold lifecycleSetCmd
  dsimp only
  split
  · exact lifeSet_good _ _ _ _ hg
  · exact fail_good _ _ (envFail_good _ _ _ hg)

@[simp ↓] theorem healthFailed_good (s : State) (f : Bool × Bool) (st fails : Nat) (hg : Good s0 s) :
    Good s0 (healthFailed s f st fails) := by
  simp +contextual (maxDischargeDepth := 99) [healthFailed, hg]

/-! ## PkgLoad -/

@[simp ↓] theorem loadPkg_good (s : State) (p : PkgDecl) (b : List Byte) (hg : Good s0 s) :
    Good s0 (loadPkg s p b).1 := by
  simp +contextual (maxDischargeDepth := 99) [loadPkg, hg]

@[simp ↓] theorem pkgLoadCmd_good (pkg : Option PkgDecl) (c : Cmd) (s : State) (hg : Good s0 s) :
    Good s0 (pkgLoadCmd pkg c s).1 := by
  unfold pkgLoadCmd
  (repeat' split) <;> simp +contextual (maxDischargeDepth := 99) [hg, *]

/-! ## Startup -/

theorem writeBootRec_grows (nv : NonVol) (a b c : Nat) (h : NvOk nv) :
    Grows nv (writeBootRec nv a b c) ∧ NvOk (writeBootRec nv a b c) := ⟨Grows.refl nv, h⟩

theorem countAttempt_grows (nv : NonVol) (h : NvOk nv) : Grows nv (countAttempt nv) ∧ NvOk (countAttempt nv) := by
  unfold countAttempt
  dsimp only
  repeat' split
  all_goals exact ⟨Grows.refl nv, h⟩

theorem imageReady_grows (nv : NonVol) (slot : Nat) (h : NvOk nv) :
    Grows nv (imageReady nv slot) ∧ NvOk (imageReady nv slot) := by
  have h1 : Grows nv (if (bootRec nv).cand = slot ∧ ((bootRec nv).active ≠ slot ∨ (bootRec nv).attempts ≠ 0) then writeBootRec nv slot slot 0
      else nv) ∧ NvOk (if (bootRec nv).cand = slot ∧ ((bootRec nv).active ≠ slot ∨ (bootRec nv).attempts ≠ 0) then writeBootRec nv slot slot 0
      else nv) := by
    split
    · exact ⟨Grows.refl nv, h⟩
    · exact ⟨Grows.refl nv, h⟩
  unfold imageReady
  dsimp only
  generalize (if (bootRec nv).cand = slot ∧ ((bootRec nv).active ≠ slot ∨ (bootRec nv).attempts ≠ 0) then writeBootRec nv slot slot 0 else nv) = n1
    at h1
  split
  · refine ⟨⟨h1.1.1, h1.1.2.1, h1.1.2.2.1, h1.1.2.2.2.1, Nat.le_trans h1.1.2.2.2.2.1 (Nat.le_max_left _ _), ?_⟩,
    h1.2.1, ?_⟩
    · intro k hk
      have h2 := h1.1.2.2.2.2.2 k hk
      have h3 := h1.2.2 k h2
      simp [List.mem_filter, h2, h3]
    · intro k hk
      exact List.mem_range.1 (List.mem_filter.1 hk).1
  · exact h1

@[simp ↓] theorem bootFault_good (s : State) (step code : Nat) (hg : Good s0 s) :
    Good s0 (bootFault s step code) := by
  simp +contextual (maxDischargeDepth := 99) [bootFault, hg]

@[simp ↓] theorem bootBegin_good (s : State) (rep : BootReport) (hg : Good s0 s) :
    Good s0 (bootBegin s rep) := by
  simp +contextual (maxDischargeDepth := 99) [bootBegin, hg]

@[simp ↓] theorem trngFailOnce_good (a : State × List Ev) (hg : Good s0 a.1) :
    Good s0 (trngFailOnce a).1 := by
  simp +contextual (maxDischargeDepth := 99) [trngFailOnce, hg]

theorem seeded_good {s : State} (n : Nat) (hg : Good s0 s) (h : s.nv.seed = none) :
    Good s0 { s with nv := { s.nv with seed := some n } } := by
  rw [good_mk]
  refine good_nv hg (fun ho => ⟨⟨fun v hv => ?_, fun h => h, fun h => h, Nat.le_refl _, Nat.le_refl _, fun _ h => h⟩,
    ho⟩)
  rw [h] at hv; cases hv

@[simp ↓] theorem bootEntropy_good (s : State) (fails : Nat) (hg : Good s0 s) : Good s0 (bootEntropy s fails).1 := by
  unfold bootEntropy
  split
  · simp +contextual (maxDischargeDepth := 99) [hg]
  · dsimp only
    generalize ht : entropyPass (if fails = 1 then trngFailOnce (s, []) else (s, [])).1 = t
    have h1 : Good s0 t := by rw [← ht]; simp +contextual (maxDischargeDepth := 99) [hg]
    rw [good_mk]
    dsimp only
    split
    · rename_i h
      simp only [Bool.and_eq_true, Option.isNone_iff_eq_none] at h
      have h2 : Good s0 (entropyBlocks 2 t).2 := entropyBlocks_good 2 _ h1
      exact seeded_good _ h2 ((congrArg NonVol.seed (entropyBlocks_nv 2 t)).trans h.1)
    · exact h1

@[simp ↓] theorem penStart_good (d passed : Nat) (a : State × List Ev) (p : Nat) (hg : Good s0 a.1) :
    Good s0 (penStart d passed a p).1 := by
  simp +contextual (maxDischargeDepth := 99) [penStart, hg]

theorem keepD_comesUp (r : DieReport) (x : Die) : KeepD x (dieComesUp r x) := by
  simp [dieComesUp]

@[simp ↓] theorem startDie_good (rep : BootReport) (a : State × List Ev) (d : Nat) (hg : Good s0 a.1) :
    Good s0 (startDie rep a d).1 := by
  have h1 : Good s0 (modDie a.1 d (dieComesUp (dieReport rep d))) := good_modDie _ _ (keepD_comesUp _) hg
  unfold startDie
  dsimp only
  split
  · simp +contextual (maxDischargeDepth := 99) [hg]
  · split <;> simp +contextual (maxDischargeDepth := 99) [h1]

@[simp ↓] theorem startHub_good (s : State) (rep : BootReport) (hg : Good s0 s) :
    Good s0 (startHub s rep) := by
  simp +contextual (maxDischargeDepth := 99) [startHub, hg]

@[simp ↓] theorem ownerLost_good (s : State) (ok0 ok1 : Bool) (hg : Good s0 s) :
    Good s0 (ownerLost s ok0 ok1).1 := by
  unfold ownerLost
  split
  · rw [good_mk]
    exact good_nv hg (fun h => ⟨Grows.refl _, h⟩)
  · exact hg

@[simp ↓] theorem bootLife_good (s : State) (hg : Good s0 s) :
    Good s0 (bootLife s).1 := by
  unfold bootLife
  repeat' first
    | (simp +contextual (maxDischargeDepth := 99) [*]; done)
    | dsimp only
    | refine andThen_good _ _ (fun t h => ?_) ?_
    | refine good_foldl _ (fun t a h => ?_) _ _ ?_
    | refine good_foldl_fst _ (fun t a h => ?_) _ _ ?_
    | refine good_foldl_snd _ (fun t a h => ?_) _ _ ?_
    | split

@[simp ↓] theorem bootPace_good (rep : BootReport) (s : State) (d : Nat) (hg : Good s0 s) :
    Good s0 (bootPace rep s d) := by
  simp +contextual (maxDischargeDepth := 99) [bootPace, hg]

@[simp ↓] theorem bootReady_good (a : State × List Ev) (rep : BootReport) (slot : Nat) (fell : Bool)
    (hg : Good s0 a.1) : Good s0 (bootReady a rep slot fell) := by
  unfold bootReady
  dsimp only
  generalize ht : (allDies a.1).foldl (bootPace rep) a.1 = t
  have h1 : Good s0 t := by rw [← ht]; simp +contextual (maxDischargeDepth := 99) [hg]
  apply raise_good
  rw [good_mk]
  exact good_nv h1 (imageReady_grows _ _)

@[simp ↓] theorem bootRun_good (s : State) (rep : BootReport) (slot : Nat) (fell : Bool) (hg : Good s0 s) :
    Good s0 (bootRun s rep slot fell) := by
  unfold bootRun
  split <;> simp +contextual (maxDischargeDepth := 99) [hg]

@[simp ↓] theorem bootFinish_good (s : State) (rep : BootReport) (hg : Good s0 s) : Good s0 (bootFinish s rep) := by
  have h1 : Good s0 { s with nv := countAttempt s.nv } := by
    rw [good_mk]
    exact good_nv hg (countAttempt_grows _)
  unfold bootFinish
  dsimp only
  split
  · exact bootFault_good _ _ _ hg
  · split
    · exact bootFault_good _ _ _ hg
    · cases chooseImage (countAttempt s.nv) with
      | none => exact bootFault_good _ _ _ h1
      | some c => exact bootRun_good _ _ _ _ h1

@[simp ↓] theorem bootTick_good (s : State) (hg : Good s0 s) :
    Good s0 (bootTick s) := by
  unfold bootTick
  split <;> simp +contextual (maxDischargeDepth := 99) [hg]

/-! ## StopOut -/

@[simp ↓] theorem setOut_good (s : State) (o : StopOut) (x : StopSt) (hg : Good s0 s) :
    Good s0 (setOut s o x) := by
  unfold setOut
  split <;> simp +contextual (maxDischargeDepth := 99) [hg]

/-! ## TimeUnit -/

@[simp ↓] theorem modTmu_good (s : State) (f : Tmu → Tmu) (hg : Good s0 s) :
    Good s0 (modTmu s f) := by
  simp +contextual (maxDischargeDepth := 99) [modTmu, hg]

@[simp ↓] theorem setRate_good (s : State) (rate : Int) (hg : Good s0 s) :
    Good s0 (setRate s rate) := by
  simp +contextual (maxDischargeDepth := 99) [setRate, hg]

@[simp ↓] theorem stepTime_good (s : State) (step : Int) (hg : Good s0 s) :
    Good s0 (stepTime s step) := by
  simp +contextual (maxDischargeDepth := 99) [stepTime, hg]

@[simp ↓] theorem setCalendar_good (s : State) (sec : Nat) (hg : Good s0 s) :
    Good s0 (setCalendar s sec) := by
  simp +contextual (maxDischargeDepth := 99) [setCalendar, hg]

@[simp ↓] theorem timeSetCmd_good (c : Cmd) (s : State) (hg : Good s0 s) :
    Good s0 (timeSetCmd c s).1 := by
  simp +contextual (maxDischargeDepth := 99) [timeSetCmd, hg]

@[simp ↓] theorem rxTime_good (s : State) (f : RxFrame) (hg : Good s0 s) :
    Good s0 (rxTime s f).2 := by
  simp +contextual (maxDischargeDepth := 99) [rxTime, hg]

@[simp ↓] theorem applyServo_good (s : State) (adj : Servo) (hg : Good s0 s) :
    Good s0 (applyServo s adj) := by
  simp +contextual (maxDischargeDepth := 99) [applyServo, hg]

@[simp ↓] theorem ptpCalendar_good (s : State) (sec : Nat) (hg : Good s0 s) :
    Good s0 (ptpCalendar s sec) := by
  simp +contextual (maxDischargeDepth := 99) [ptpCalendar, hg]

@[simp ↓] theorem newEstimate_good (s : State) (diff : Int) (sec : Nat) (adj : Servo) (hg : Good s0 s) :
    Good s0 (newEstimate s diff sec adj) := by
  simp +contextual (maxDischargeDepth := 99) [newEstimate, hg]

@[simp ↓] theorem selectMaster_good (s : State) (hg : Good s0 s) :
    Good s0 (selectMaster s) := by
  simp +contextual (maxDischargeDepth := 99) [selectMaster, hg]

@[simp ↓] theorem poseEffect_good (s : State) (f : List (Nat × PoseTab) → List (Nat × PoseTab)) (hg : Good s0 s) :
    Good s0 (poseEffect s f) := by
  simp +contextual (maxDischargeDepth := 99) [poseEffect, hg]

@[simp ↓] theorem poseWriteCmd_good (c : Cmd) (s : State) (hg : Good s0 s) :
    Good s0 (poseWriteCmd c s).1 := by
  simp +contextual (maxDischargeDepth := 99) [poseWriteCmd, hg]

/-! ## Verdict -/

@[simp ↓] theorem chkPart_good (s : State) (c : Ctx) (f : Frame) (k : SealKind) (hg : Good s0 s) :
    Good s0 (chkPart s c f k).2.2 := by
  unfold chkPart
  split <;> simp +contextual (maxDischargeDepth := 99) [hg]

@[simp ↓] theorem combine_good (s : State) (c : Ctx) (f : Frame) (k : SealKind) (hg : Good s0 s) :
    Good s0 (combine s c f k).2 := by
  simp +contextual (maxDischargeDepth := 99) [combine, hg]

@[simp ↓] theorem restBytes_good (s : State) (l : SelList) (n : Nat) (hg : Good s0 s) :
    Good s0 (restBytes s l n).2 := by
  unfold restBytes
  split <;> simp +contextual (maxDischargeDepth := 99) [hg]

@[simp ↓] theorem copyRow_good (c : Ctx) (off : Nat) (a : State × Nat) (l : SelList) (hg : Good s0 a.1) :
    Good s0 (copyRow c off a l).1 := by
  simp +contextual (maxDischargeDepth := 99) [copyRow, hg]

@[simp ↓] theorem copyLists_good (s : State) (c : Ctx) (f : Frame) (hg : Good s0 s) :
    Good s0 (copyLists s c f) := by
  unfold copyLists
  repeat' first
    | (simp +contextual (maxDischargeDepth := 99) [*]; done)
    | dsimp only
    | refine andThen_good _ _ (fun t h => ?_) ?_
    | refine good_foldl _ (fun t a h => ?_) _ _ ?_
    | refine good_foldl_fst _ (fun t a h => ?_) _ _ ?_
    | refine good_foldl_snd _ (fun t a h => ?_) _ _ ?_
    | split

@[simp ↓] theorem ageReport_good (s : State) (c : Ctx) (f : Frame) (hg : Good s0 s) :
    Good s0 (ageReport s c f).1 := by
  simp only [ageReport]
  (repeat' split) <;> simp +contextual (maxDischargeDepth := 99) [hg, *]

@[simp ↓] theorem chargeDie_good (a : State × List Ev) (d : Nat) (hg : Good s0 a.1) :
    Good s0 (chargeDie a d).1 := by
  simp +contextual (maxDischargeDepth := 99) [chargeDie, hg]

@[simp ↓] theorem missed_good (s : State) (c : Ctx) (num : Nat) (hg : Good s0 s) :
    Good s0 (missed s c num).1 := by
  simp +contextual (maxDischargeDepth := 99) [missed, hg]

@[simp ↓] theorem sendVerdict_good (pdu : List Byte) (c : Ctx) (s : State) (dest : Nat) (hg : Good s0 s) :
    Good s0 (sendVerdict pdu c s dest) := by
  simp only [sendVerdict]
  (repeat' split) <;> simp +contextual (maxDischargeDepth := 99) [hg, *]

@[simp ↓] theorem sendVerdicts_good (s : State) (c : Ctx) (f : Frame) (k : SealKind) (b : ZoneBits) (hg : Good s0 s) :
    Good s0 (sendVerdicts s c f k b) := by
  simp +contextual (maxDischargeDepth := 99) [sendVerdicts, hg]

@[simp ↓] theorem writeFramePennant_good (s : State) (c : Ctx) (k : SealKind) (p : Pennant) (hg : Good s0 s) :
    Good s0 (writeFramePennant s c k p) := by
  simp +contextual (maxDischargeDepth := 99) [writeFramePennant, hg]

@[simp ↓] theorem holdGrads_good (s : State) (c : Ctx) (f : Frame) (k : SealKind) (hg : Good s0 s) :
    Good s0 (holdGrads s c f k) := by
  simp +contextual (maxDischargeDepth := 99) [holdGrads, hg]

@[simp ↓] theorem noteDelivered_good (s : State) (c : Ctx) (f : Frame) (k : SealKind) (hg : Good s0 s) :
    Good s0 (noteDelivered s c f k) := by
  simp +contextual (maxDischargeDepth := 99) [noteDelivered, hg]

@[simp ↓] theorem countVerdict_good (s : State) (c : Ctx) (k : SealKind) (b : ZoneBits) (atCut : Bool) (latches :
    Nat) (hg : Good s0 s) :
    Good s0 (countVerdict s c k b atCut latches) := by
  simp +contextual (maxDischargeDepth := 99) [countVerdict, hg]

@[simp ↓] theorem dismissFrame_good (s : State) (f : Frame) (hg : Good s0 s) :
    Good s0 (dismissFrame s f) := by
  simp +contextual (maxDischargeDepth := 99) [dismissFrame, hg]

@[simp ↓] theorem sealFrame_good (s : State) (c : Ctx) (f : Frame) (atCut : Bool) (hg : Good s0 s) :
    Good s0 (sealFrame s c f atCut) := by
  simp +contextual (maxDischargeDepth := 99) [sealFrame, hg]

/-! ## Ticks -/

@[simp ↓] theorem tick_good (s : State) (hg : Good s0 s) :
    Good s0 (tick s) := by
  simp +contextual (maxDischargeDepth := 99) [tick, hg]

end Sys2Proof.Machine
end

