-- ==== Sys2Proof/Laws/Commands.lean ====
section
/-!
SUPPORT. What every command keeps: the waiting queue, the variant, the programmed bits of the one-time-programmable
    memory,
and the soundness of the state. One lemma per command.
-/
namespace Sys2Proof.Machine

variable {s0 : State}

set_option linter.unusedSimpArgs false
set_option linter.unusedVariables false

/-- If the outcome is a next state, it is `Good`. -/
def GoodO (s0 : State) (o : Host.Outcome State Fault Refusal) : Prop := ∀ t, o = .next t → Good s0 t

@[simp ↓] theorem goodO_next_iff (t : State) : GoodO s0 (.next t) = Good s0 t := by
  simp [GoodO]

theorem goodO_next {t : State} (h : Good s0 t) : GoodO s0 (.next t) := by simp [h]

@[simp ↓] theorem goodO_fault (f : Fault) : GoodO s0 (.fault f) = True := by simp [GoodO]

@[simp ↓] theorem goodO_ite (c : Prop) [Decidable c] (a b : Host.Outcome State Fault Refusal) :
    GoodO s0 (if c then a else b) = ((c → GoodO s0 a) ∧ (¬ c → GoodO s0 b)) := by
  split <;> simp_all

/-! ## Mailbox -/

theorem execNop_good (slot : Nat) (s : State) (hg : Good s0 s) :
    GoodO s0 (execNop slot s) := by
  simp +contextual (maxDischargeDepth := 99) [execNop, hg]

/-! ## ConfigCmds -/

theorem execCfgWrite_good (slot : Nat) (s : State) (hg : Good s0 s) :
    GoodO s0 (execCfgWrite slot s) := by
  simp +contextual (maxDischargeDepth := 99) [execCfgWrite, hg]

theorem execPdkArbOrderWrite_good (slot : Nat) (s : State) (hg : Good s0 s) :
    GoodO s0 (execPdkArbOrderWrite slot s) := by
  simp +contextual (maxDischargeDepth := 99) [execPdkArbOrderWrite, hg]

theorem execLeaveBudgetWrite_good (slot : Nat) (s : State) (hg : Good s0 s) :
    GoodO s0 (execLeaveBudgetWrite slot s) := by
  simp +contextual (maxDischargeDepth := 99) [execLeaveBudgetWrite, hg]

theorem execConfigStagedApply_good (blk die : Nat) (s : State) (hg : Good s0 s) :
    GoodO s0 (execConfigStagedApply blk die s) := by
  simp +contextual (maxDischargeDepth := 99) [execConfigStagedApply, hg]

theorem execCfgRead_good (slot : Nat) (s : State) (hg : Good s0 s) :
    GoodO s0 (execCfgRead slot s) := by
  simp +contextual (maxDischargeDepth := 99) [execCfgRead, hg]

theorem execTxnBegin_good (slot : Nat) (s : State) (hg : Good s0 s) :
    GoodO s0 (execTxnBegin slot s) := by
  simp +contextual (maxDischargeDepth := 99) [execTxnBegin, hg]

theorem execTxnAbort_good (slot : Nat) (s : State) (hg : Good s0 s) :
    GoodO s0 (execTxnAbort slot s) := by
  simp +contextual (maxDischargeDepth := 99) [execTxnAbort, hg]

theorem execTxnCommit_good (slot : Nat) (s : State) (hg : Good s0 s) :
    GoodO s0 (execTxnCommit slot s) := by
  simp +contextual (maxDischargeDepth := 99) [execTxnCommit, hg]

theorem execTxnCommitApply_good (blk die : Nat) (s : State) (hg : Good s0 s) :
    GoodO s0 (execTxnCommitApply blk die s) := by
  unfold execTxnCommitApply
  (repeat' split) <;> simp +contextual (maxDischargeDepth := 99) [hg, *]

theorem execTxnIdleExpiry_good (s : State) (hg : Good s0 s) :
    GoodO s0 (execTxnIdleExpiry s) := by
  simp +contextual (maxDischargeDepth := 99) [execTxnIdleExpiry, hg]

/-! ## LifeLog -/

theorem execLifelogCheckpoint_good (flashOk : Bool) (s : State) (hg : Good s0 s) :
    GoodO s0 (execLifelogCheckpoint flashOk s) := by
  simp +contextual (maxDischargeDepth := 99) [execLifelogCheckpoint, hg]

theorem execLifelogRead_good (slot : Nat) (s : State) (hg : Good s0 s) :
    GoodO s0 (execLifelogRead slot s) := by
  simp +contextual (maxDischargeDepth := 99) [execLifelogRead, hg]

theorem execEventLogRead_good (slot : Nat) (s : State) (hg : Good s0 s) :
    GoodO s0 (execEventLogRead slot s) := by
  simp +contextual (maxDischargeDepth := 99) [execEventLogRead, hg]

theorem execAgingDailyIndex_good (die newPace : Nat) (s : State) (hg : Good s0 s) :
    GoodO s0 (execAgingDailyIndex die newPace s) := by
  simp +contextual (maxDischargeDepth := 99) [execAgingDailyIndex, hg]

theorem execAgingYear_good (flashOk : Bool) (s : State) (hg : Good s0 s) :
    GoodO s0 (execAgingYear flashOk s) := by
  simp +contextual (maxDischargeDepth := 99) [execAgingYear, hg]

/-! ## SelfTest -/

theorem execSelftestSliceStart_good (die : Nat) (s : State) (hg : Good s0 s) :
    GoodO s0 (execSelftestSliceStart die s) := by
  simp +contextual (maxDischargeDepth := 99) [execSelftestSliceStart, hg]

theorem execSelftestSliceEnd_good (die : Nat) (pass : Bool) (s : State) (hg : Good s0 s) :
    GoodO s0 (execSelftestSliceEnd die pass s) := by
  unfold execSelftestSliceEnd
  (repeat' split) <;> simp +contextual (maxDischargeDepth := 99) [hg, *]

theorem execRotationAgeExpiry_good (die : Nat) (s : State) (hg : Good s0 s) :
    GoodO s0 (execRotationAgeExpiry die s) := by
  simp +contextual (maxDischargeDepth := 99) [execRotationAgeExpiry, hg]

theorem execPaddockLineTest_good (die cluster bank line : Nat) (pass passOver60s : Bool) (s : State) (hg : Good s0 s)
    :
    GoodO s0 (execPaddockLineTest die cluster bank line pass passOver60s s) := by
  simp +contextual (maxDischargeDepth := 99) [execPaddockLineTest, hg]

/-! ## Fabric -/

theorem execFlitReceived_good (die link : Nat) (flit : List Byte) (s : State) (hg : Good s0 s) :
    GoodO s0 (execFlitReceived die link flit s) := by
  simp only [execFlitReceived]
  (repeat' split) <;> simp +contextual (maxDischargeDepth := 99) [hg, *]

theorem execHalyardMessage_good (src dst : HalNode) (msg : List Byte) (fails : List Nat) (s : State) (hg : Good s0 s) :
    GoodO s0 (execHalyardMessage src dst msg fails s) := by
  unfold execHalyardMessage
  (repeat' split) <;> simp +contextual (maxDischargeDepth := 99) [hg, *]

theorem execPaceWindow_good (die : Nat) (counts : List Nat) (s : State) (hg : Good s0 s) :
    GoodO s0 (execPaceWindow die counts s) := by
  simp +contextual (maxDischargeDepth := 99) [execPaceWindow, hg]

theorem execAudit_good (die : Nat) (obs : List UnitObs) (s : State) (hg : Good s0 s) :
    GoodO s0 (execAudit die obs s) := by
  simp +contextual (maxDischargeDepth := 99) [execAudit, hg]

/-! ## Leave -/

theorem execLeaveRequest_good (ctx num die who : Nat) (s : State) (hg : Good s0 s) :
    GoodO s0 (execLeaveRequest ctx num die who s) := by
  unfold execLeaveRequest
  (repeat' split) <;> simp +contextual (maxDischargeDepth := 99) [hg, *]

theorem execLeaveGrant_good (die : Nat) (s : State) (hg : Good s0 s) :
    GoodO s0 (execLeaveGrant die s) := by
  unfold execLeaveGrant
  (repeat' split) <;> simp +contextual (maxDischargeDepth := 99) [hg, *]

theorem execThermalSensorUpdate_good (die : Nat) (temp : Int) (s : State) (hg : Good s0 s) :
    GoodO s0 (execThermalSensorUpdate die temp s) := by
  simp +contextual (maxDischargeDepth := 99) [execThermalSensorUpdate, hg]

theorem execCriticalTrip_good (die : Nat) (s : State) (hg : Good s0 s) :
    GoodO s0 (execCriticalTrip die s) := by
  simp +contextual (maxDischargeDepth := 99) [execCriticalTrip, hg]

/-! ## Contexts -/

theorem execCtxCreate_good (slot : Nat) (s : State) (hg : Good s0 s) :
    GoodO s0 (execCtxCreate slot s) := by
  simp +contextual (maxDischargeDepth := 99) [execCtxCreate, hg]

theorem execCtxDestroy_good (slot : Nat) (s : State) (hg : Good s0 s) :
    GoodO s0 (execCtxDestroy slot s) := by
  simp +contextual (maxDischargeDepth := 99) [execCtxDestroy, hg]

theorem execCtxDestroyComplete_good (ctx : Nat) (s : State) (hg : Good s0 s) :
    GoodO s0 (execCtxDestroyComplete ctx s) := by
  unfold execCtxDestroyComplete
  (repeat' split) <;> simp +contextual (maxDischargeDepth := 99) [hg, *]

theorem execCtxQuery_good (slot : Nat) (s : State) (hg : Good s0 s) :
    GoodO s0 (execCtxQuery slot s) := by
  simp +contextual (maxDischargeDepth := 99) [execCtxQuery, hg]

theorem execFrameOpen_good (slot : Nat) (s : State) (hg : Good s0 s) :
    GoodO s0 (execFrameOpen slot s) := by
  simp +contextual (maxDischargeDepth := 99) [execFrameOpen, hg]

theorem execFrameClose_good (slot : Nat) (s : State) (hg : Good s0 s) :
    GoodO s0 (execFrameClose slot s) := by
  simp +contextual (maxDischargeDepth := 99) [execFrameClose, hg]

theorem execPeriodicFrameClose_good (ctx : Nat) (s : State) (hg : Good s0 s) :
    GoodO s0 (execPeriodicFrameClose ctx s) := by
  unfold execPeriodicFrameClose
  (repeat' split) <;> simp +contextual (maxDischargeDepth := 99) [hg, *]

theorem execExactPass_good (ctx num : Nat) (s : State) (hg : Good s0 s) :
    GoodO s0 (execExactPass ctx num s) := by
  unfold execExactPass
  (repeat' split) <;> simp +contextual (maxDischargeDepth := 99) [hg, *]

theorem execCtxClearDegraded_good (slot : Nat) (s : State) (hg : Good s0 s) :
    GoodO s0 (execCtxClearDegraded slot s) := by
  simp +contextual (maxDischargeDepth := 99) [execCtxClearDegraded, hg]

theorem execPkgUnload_good (slot : Nat) (s : State) (hg : Good s0 s) :
    GoodO s0 (execPkgUnload slot s) := by
  simp +contextual (maxDischargeDepth := 99) [execPkgUnload, hg]

/-! ## Points -/

theorem execDecoderSet_good (slot : Nat) (s : State) (hg : Good s0 s) :
    GoodO s0 (execDecoderSet slot s) := by
  simp +contextual (maxDischargeDepth := 99) [execDecoderSet, hg]

theorem execBlockDecode_good (lane : Nat) (s : State) (hg : Good s0 s) :
    GoodO s0 (execBlockDecode lane s) := by
  unfold execBlockDecode
  (repeat' split) <;> simp +contextual (maxDischargeDepth := 99) [hg, *]

theorem execSensorSilenceExpiry_good (sensor : Nat) (s : State) (hg : Good s0 s) :
    GoodO s0 (execSensorSilenceExpiry sensor s) := by
  simp +contextual (maxDischargeDepth := 99) [execSensorSilenceExpiry, hg]

/-! ## Deskew -/

theorem execDeskewTile_good (ctx num die : Nat) (s : State) (hg : Good s0 s) :
    GoodO s0 (execDeskewTile ctx num die s) := by
  unfold execDeskewTile
  (repeat' split) <;> simp +contextual (maxDischargeDepth := 99) [hg, *]

theorem execVoxeliseTile_good (ctx num : Nat) (s : State) (hg : Good s0 s) :
    GoodO s0 (execVoxeliseTile ctx num s) := by
  unfold execVoxeliseTile
  (repeat' split) <;> simp +contextual (maxDischargeDepth := 99) [hg, *]

theorem execVoxelisationComplete_good (ctx num : Nat) (s : State) (hg : Good s0 s) :
    GoodO s0 (execVoxelisationComplete ctx num s) := by
  unfold execVoxelisationComplete
  (repeat' split) <;> simp +contextual (maxDischargeDepth := 99) [hg, *]

/-! ## Curve -/

theorem execCurveOrderStart_good (ctx num : Nat) (s : State) (hg : Good s0 s) :
    GoodO s0 (execCurveOrderStart ctx num s) := by
  unfold execCurveOrderStart
  (repeat' split) <;> simp +contextual (maxDischargeDepth := 99) [hg, *]

theorem execCurveOrderTile_good (ctx num die : Nat) (s : State) (hg : Good s0 s) :
    GoodO s0 (execCurveOrderTile ctx num die s) := by
  unfold execCurveOrderTile
  (repeat' split) <;> simp +contextual (maxDischargeDepth := 99) [hg, *]

theorem execRulebookTile_good (ctx num die : Nat) (s : State) (hg : Good s0 s) :
    GoodO s0 (execRulebookTile ctx num die s) := by
  unfold execRulebookTile
  (repeat' split) <;> simp +contextual (maxDischargeDepth := 99) [hg, *]

/-! ## Stalls -/

theorem execStallTile_good (stall : Nat) (s : State) (hg : Good s0 s) :
    GoodO s0 (execStallTile stall s) := by
  unfold execStallTile
  repeat' first
    | (simp +contextual (maxDischargeDepth := 99) [*]; done)
    | dsimp only
    | refine goodO_next ?_
    | refine andThen_good _ _ (fun t h => ?_) ?_
    | refine good_foldl _ (fun t a h => ?_) _ _ ?_
    | split

theorem execChunkSteal_good (stall lane victim : Nat) (s : State) (hg : Good s0 s) :
    GoodO s0 (execChunkSteal stall lane victim s) := by
  unfold execChunkSteal
  (repeat' split) <;> simp +contextual (maxDischargeDepth := 99) [hg, *]

theorem execTileSteal_good (stall : Nat) (s : State) (hg : Good s0 s) :
    GoodO s0 (execTileSteal stall s) := by
  unfold execTileSteal
  (repeat' split) <;> simp +contextual (maxDischargeDepth := 99) [hg, *]

theorem execPartitionMerge_good (ctx num row part : Nat) (s : State) (hg : Good s0 s) :
    GoodO s0 (execPartitionMerge ctx num row part s) := by
  unfold execPartitionMerge
  (repeat' split) <;> simp +contextual (maxDischargeDepth := 99) [hg, *]

theorem execRetryRound_good (ctx num : Nat) (s : State) (hg : Good s0 s) :
    GoodO s0 (execRetryRound ctx num s) := by
  unfold execRetryRound
  (repeat' split) <;> simp +contextual (maxDischargeDepth := 99) [hg, *]

theorem execOperatorDispatch_good (ctx num die : Nat) (stalls : List Nat) (s : State) (hg : Good s0 s) :
    GoodO s0 (execOperatorDispatch ctx num die stalls s) := by
  unfold execOperatorDispatch
  (repeat' split) <;> simp +contextual (maxDischargeDepth := 99) [hg, *]

/-! ## Bev -/

theorem execBevScatterTile_good (ctx num die : Nat) (s : State) (hg : Good s0 s) :
    GoodO s0 (execBevScatterTile ctx num die s) := by
  unfold execBevScatterTile
  (repeat' split) <;> simp +contextual (maxDischargeDepth := 99) [hg, *]

theorem execSelectionTile_good (ctx num die : Nat) (s : State) (hg : Good s0 s) :
    GoodO s0 (execSelectionTile ctx num die s) := by
  unfold execSelectionTile
  (repeat' split) <;> simp +contextual (maxDischargeDepth := 99) [hg, *]

theorem execSelectionMerge_good (ctx num : Nat) (s : State) (hg : Good s0 s) :
    GoodO s0 (execSelectionMerge ctx num s) := by
  unfold execSelectionMerge
  (repeat' split) <;> simp +contextual (maxDischargeDepth := 99) [hg, *]

/-! ## Checker -/

theorem execCheckerVerdictReady_good (ctx num : Nat) (s : State) (hg : Good s0 s) :
    GoodO s0 (execCheckerVerdictReady ctx num s) := by
  unfold execCheckerVerdictReady
  (repeat' split) <;> simp +contextual (maxDischargeDepth := 99) [hg, *]

theorem execBestEffortFrameStart_good (die : Nat) (s : State) (hg : Good s0 s) :
    GoodO s0 (execBestEffortFrameStart die s) := by
  unfold execBestEffortFrameStart
  (repeat' split) <;> simp +contextual (maxDischargeDepth := 99) [hg, *]

/-! ## Debug -/

theorem execBypass_good (s : State) (hg : Good s0 s) :
    GoodO s0 (execBypass s) := by
  simp +contextual (maxDischargeDepth := 99) [execBypass, hg]

theorem execIdcode_good (s : State) (hg : Good s0 s) :
    GoodO s0 (execIdcode s) := by
  simp +contextual (maxDischargeDepth := 99) [execIdcode, hg]

theorem execSamplePreload_good (s : State) (hg : Good s0 s) :
    GoodO s0 (execSamplePreload s) := by
  simp +contextual (maxDischargeDepth := 99) [execSamplePreload, hg]

theorem execExtest_good (s : State) (hg : Good s0 s) :
    GoodO s0 (execExtest s) := by
  simp +contextual (maxDischargeDepth := 99) [execExtest, hg]

theorem execDebugHalt_good (s : State) (hg : Good s0 s) :
    GoodO s0 (execDebugHalt s) := by
  simp +contextual (maxDischargeDepth := 99) [execDebugHalt, hg]

theorem execDebugResume_good (s : State) (hg : Good s0 s) :
    GoodO s0 (execDebugResume s) := by
  simp +contextual (maxDischargeDepth := 99) [execDebugResume, hg]

theorem execDebugStep_good (s : State) (hg : Good s0 s) :
    GoodO s0 (execDebugStep s) := by
  simp +contextual (maxDischargeDepth := 99) [execDebugStep, hg]

theorem execAbstractRegisterAccess_good (reg : Nat) (write : Option (BitVec 64)) (s : State) (hg : Good s0 s) :
    GoodO s0 (execAbstractRegisterAccess reg write s) := by
  unfold execAbstractRegisterAccess
  (repeat' split) <;> simp +contextual (maxDischargeDepth := 99) [hg, *]

theorem execSystemBusAccess_good (addr : Nat) (write : Option Byte) (s : State) (hg : Good s0 s) :
    GoodO s0 (execSystemBusAccess addr write s) := by
  unfold execSystemBusAccess
  (repeat' split) <;> simp +contextual (maxDischargeDepth := 99) [hg, *]

theorem execBmpForceStart_good (s : State) (hg : Good s0 s) :
    GoodO s0 (execBmpForceStart s) := by
  simp +contextual (maxDischargeDepth := 99) [execBmpForceStart, hg]

theorem execBmpForceEnd_good (s : State) (hg : Good s0 s) :
    GoodO s0 (execBmpForceEnd s) := by
  simp +contextual (maxDischargeDepth := 99) [execBmpForceEnd, hg]

theorem execEntdaa_good (addr : Nat) (s : State) (hg : Good s0 s) :
    GoodO s0 (execEntdaa addr s) := by
  simp +contextual (maxDischargeDepth := 99) [execEntdaa, hg]

theorem execSetdasa_good (static addr : Nat) (s : State) (hg : Good s0 s) :
    GoodO s0 (execSetdasa static addr s) := by
  simp +contextual (maxDischargeDepth := 99) [execSetdasa, hg]

/-! ## HostPort -/

theorem execHostRead_good (ch sub bank col : Nat) (ue : Bool) (asRead : List Byte) (s : State) (hg : Good s0 s) :
    GoodO s0 (execHostRead ch sub bank col ue asRead s) := by
  unfold execHostRead
  (repeat' split) <;> simp +contextual (maxDischargeDepth := 99) [hg, *]

theorem execActivate_good (ch sub bank row : Nat) (s : State) (hg : Good s0 s) :
    GoodO s0 (execActivate ch sub bank row s) := by
  simp +contextual (maxDischargeDepth := 99) [execActivate, hg]

theorem execPrecharge_good (ch sub : Nat) (bank : Option Nat) (s : State) (hg : Good s0 s) :
    GoodO s0 (execPrecharge ch sub bank s) := by
  cases bank <;> simp +contextual (maxDischargeDepth := 99) [execPrecharge, hg]

theorem execRefresh_good (p : SubCh) (s : State) (hg : Good s0 s) :
    GoodO s0 (execRefresh p s) := by
  simp +contextual (maxDischargeDepth := 99) [execRefresh, hg]

theorem execPowerDownEntry_good (p : SubCh) (s : State) (hg : Good s0 s) :
    GoodO s0 (execPowerDownEntry p s) := by
  simp +contextual (maxDischargeDepth := 99) [execPowerDownEntry, hg]

theorem execPowerDownExit_good (p : SubCh) (s : State) (hg : Good s0 s) :
    GoodO s0 (execPowerDownExit p s) := by
  simp +contextual (maxDischargeDepth := 99) [execPowerDownExit, hg]

theorem execSelfRefreshEntry_good (p : SubCh) (s : State) (hg : Good s0 s) :
    GoodO s0 (execSelfRefreshEntry p s) := by
  simp +contextual (maxDischargeDepth := 99) [execSelfRefreshEntry, hg]

theorem execSelfRefreshExit_good (p : SubCh) (s : State) (hg : Good s0 s) :
    GoodO s0 (execSelfRefreshExit p s) := by
  simp +contextual (maxDischargeDepth := 99) [execSelfRefreshExit, hg]

theorem execModeRegisterRead_good (p : SubCh) (mr : Nat) (s : State) (hg : Good s0 s) :
    GoodO s0 (execModeRegisterRead p mr s) := by
  simp +contextual (maxDischargeDepth := 99) [execModeRegisterRead, hg]

theorem execModeRegisterWrite_good (p : SubCh) (mr : Nat) (value : BitVec 8) (latencyLow : Bool) (s : State) (hg : Good s0 s) :
    GoodO s0 (execModeRegisterWrite p mr value latencyLow s) := by
  simp +contextual (maxDischargeDepth := 99) [execModeRegisterWrite, hg]

theorem execCommandBusTraining_good (p : SubCh) (s : State) (hg : Good s0 s) :
    GoodO s0 (execCommandBusTraining p s) := by
  simp +contextual (maxDischargeDepth := 99) [execCommandBusTraining, hg]

theorem execClockToWriteClockLevelling_good (p : SubCh) (s : State) (hg : Good s0 s) :
    GoodO s0 (execClockToWriteClockLevelling p s) := by
  simp +contextual (maxDischargeDepth := 99) [execClockToWriteClockLevelling, hg]

theorem execReadCalibration_good (p : SubCh) (mr : Nat) (s : State) (hg : Good s0 s) :
    GoodO s0 (execReadCalibration p mr s) := by
  simp +contextual (maxDischargeDepth := 99) [execReadCalibration, hg]

theorem execWriteDataTraining_good (p : SubCh) (s : State) (hg : Good s0 s) :
    GoodO s0 (execWriteDataTraining p s) := by
  simp +contextual (maxDischargeDepth := 99) [execWriteDataTraining, hg]

theorem execZqCalibrationStart_good (p : SubCh) (s : State) (hg : Good s0 s) :
    GoodO s0 (execZqCalibrationStart p s) := by
  simp +contextual (maxDischargeDepth := 99) [execZqCalibrationStart, hg]

theorem execZqCalibrationLatch_good (p : SubCh) (s : State) (hg : Good s0 s) :
    GoodO s0 (execZqCalibrationLatch p s) := by
  simp +contextual (maxDischargeDepth := 99) [execZqCalibrationLatch, hg]

theorem execUnsupportedCommand_good (p : SubCh) (s : State) (hg : Good s0 s) :
    GoodO s0 (execUnsupportedCommand p s) := by
  simp +contextual (maxDischargeDepth := 99) [execUnsupportedCommand, hg]

theorem execHostRateChange_good (ch rate : Nat) (low : List Nat) (s : State) (hg : Good s0 s) :
    GoodO s0 (execHostRateChange ch rate low s) := by
  simp +contextual (maxDischargeDepth := 99) [execHostRateChange, hg]

theorem execHintHoldoffExpiry_good (s : State) (hg : Good s0 s) :
    GoodO s0 (execHintHoldoffExpiry s) := by
  simp +contextual (maxDischargeDepth := 99) [execHintHoldoffExpiry, hg]

/-! ## Ingest -/

theorem execLaneLockGained_good (lane : Nat) (s : State) (hg : Good s0 s) :
    GoodO s0 (execLaneLockGained lane s) := by
  simp +contextual (maxDischargeDepth := 99) [execLaneLockGained, hg]

theorem execLaneLockTimer_good (lane : Nat) (s : State) (hg : Good s0 s) :
    GoodO s0 (execLaneLockTimer lane s) := by
  simp +contextual (maxDischargeDepth := 99) [execLaneLockTimer, hg]

theorem execLaneLockLost_good (lane : Nat) (s : State) (hg : Good s0 s) :
    GoodO s0 (execLaneLockLost lane s) := by
  simp +contextual (maxDischargeDepth := 99) [execLaneLockLost, hg]

theorem execRemoteFaultReceived_good (lane : Nat) (present : Bool) (s : State) (hg : Good s0 s) :
    GoodO s0 (execRemoteFaultReceived lane present s) := by
  simp +contextual (maxDischargeDepth := 99) [execRemoteFaultReceived, hg]

theorem execEthernetFrameReceived_good (lane : Nat) (frame : List Byte) (pcsError : Bool) (s : State) (hg : Good s0
    s) :
    GoodO s0 (execEthernetFrameReceived lane frame pcsError s) := by
  simp +contextual (maxDischargeDepth := 99) [execEthernetFrameReceived, hg]

theorem execArpRequest_good (s : State) (hg : Good s0 s) :
    GoodO s0 (execArpRequest s) := by
  unfold execArpRequest
  (repeat' split) <;> simp +contextual (maxDischargeDepth := 99) [hg, *]

theorem execNeighbourSolicitation_good (s : State) (hg : Good s0 s) :
    GoodO s0 (execNeighbourSolicitation s) := by
  unfold execNeighbourSolicitation
  (repeat' split) <;> simp +contextual (maxDischargeDepth := 99) [hg, *]

theorem execPacketSteer_good (lane : Nat) (s : State) (hg : Good s0 s) :
    GoodO s0 (execPacketSteer lane s) := by
  unfold execPacketSteer
  (repeat' split) <;> simp +contextual (maxDischargeDepth := 99) [hg, *]

theorem execSteerSet_good (slot : Nat) (s : State) (hg : Good s0 s) :
    GoodO s0 (execSteerSet slot s) := by
  simp +contextual (maxDischargeDepth := 99) [execSteerSet, hg]

theorem execHostWindowAnswer_good (s : State) (hg : Good s0 s) :
    GoodO s0 (execHostWindowAnswer s) := by
  unfold execHostWindowAnswer
  (repeat' split) <;> simp +contextual (maxDischargeDepth := 99) [hg, *]

theorem execVerdictFrameTransmitted_good (lane : Nat) (s : State) (hg : Good s0 s) :
    GoodO s0 (execVerdictFrameTransmitted lane s) := by
  unfold execVerdictFrameTransmitted
  (repeat' split) <;> simp +contextual (maxDischargeDepth := 99) [hg, *]

/-! ## HostWrite -/

theorem execHostWrite_good (ch sub bank col : Nat) (data : List Byte) (mask : BitVec 32) (md : BitVec 32) (s : State)
    (hg : Good s0 s) :
    GoodO s0 (execHostWrite ch sub bank col data mask md s) := by
  unfold execHostWrite
  (repeat' split) <;> simp +contextual (maxDischargeDepth := 99) [hg, *]

theorem execSealWrite_good (slot : Nat) (data : List Byte) (mask : BitVec 32) (md : BitVec 32) (s : State) (hg : Good
    s0 s) :
    GoodO s0 (execSealWrite slot data mask md s) := by
  simp +contextual (maxDischargeDepth := 99) [execSealWrite, hg]

theorem execPenConsumerWrite_good (ch : Nat) (value : BitVec 32) (md : BitVec 32) (s : State) (hg : Good s0 s) :
    GoodO s0 (execPenConsumerWrite ch value md s) := by
  simp +contextual (maxDischargeDepth := 99) [execPenConsumerWrite, hg]

theorem execHostWindowPublish_good (ch win : Nat) (data : List Byte) (mask : BitVec 32) (md : BitVec 32) (s : State)
    (hg : Good s0 s) :
    GoodO s0 (execHostWindowPublish ch win data mask md s) := by
  simp +contextual (maxDischargeDepth := 99) [execHostWindowPublish, hg]

/-! ## Power -/

theorem execPwrStateSet_good (slot : Nat) (s : State) (hg : Good s0 s) :
    GoodO s0 (execPwrStateSet slot s) := by
  simp +contextual (maxDischargeDepth := 99) [execPwrStateSet, hg]

theorem execPowerStep_good (s : State) (hg : Good s0 s) :
    GoodO s0 (execPowerStep s) := by
  simp +contextual (maxDischargeDepth := 99) [execPowerStep, hg]

theorem execPaceSet_good (slot : Nat) (s : State) (hg : Good s0 s) :
    GoodO s0 (execPaceSet slot s) := by
  simp +contextual (maxDischargeDepth := 99) [execPaceSet, hg]

theorem execPaceChangeStep_good (s : State) (hg : Good s0 s) : GoodO s0 (execPaceChangeStep s) := by
  unfold execPaceChangeStep
  refine goodO_next ?_
  split
  · exact hg
  · rename_i l hl
    have hm := hg.modes
    have h1 := good_setPwr (fun p => { p with level := l, paceTo := none, paceDriven := none, paceWait := [] }) hg
      hm.1 hm.2.1 (hm.2.2.2.1 l hl) (fun _ h => by cases h)
    repeat' split
    · exact hg
    · exact driveLevel_good _ _ hg
    · exact completeSlot_good _ _ _ _ h1
    · exact hg

theorem execGateSet_good (slot : Nat) (s : State) (hg : Good s0 s) :
    GoodO s0 (execGateSet slot s) := by
  simp +contextual (maxDischargeDepth := 99) [execGateSet, hg]

theorem execPensOffComplete_good (s : State) (hg : Good s0 s) :
    GoodO s0 (execPensOffComplete s) := by
  unfold execPensOffComplete
  (repeat' split) <;> simp +contextual (maxDischargeDepth := 99) [hg, *]

theorem execPensOnTestComplete_good (passed : Nat) (s : State) (hg : Good s0 s) :
    GoodO s0 (execPensOnTestComplete passed s) := by
  unfold execPensOnTestComplete
  (repeat' split) <;> simp +contextual (maxDischargeDepth := 99) [hg, *]

theorem execDieOnComplete_good (passed trained : Nat) (s : State) (hg : Good s0 s) :
    GoodO s0 (execDieOnComplete passed trained s) := by
  unfold execDieOnComplete
  (repeat' split) <;> simp +contextual (maxDischargeDepth := 99) [hg, *]

theorem execFenceClear_good (slot : Nat) (s : State) (hg : Good s0 s) :
    GoodO s0 (execFenceClear slot s) := by
  simp +contextual (maxDischargeDepth := 99) [execFenceClear, hg]

theorem execFenceTestComplete_good (r : FenceResult) (s : State) (hg : Good s0 s) :
    GoodO s0 (execFenceTestComplete r s) := by
  unfold execFenceTestComplete
  (repeat' split) <;> simp +contextual (maxDischargeDepth := 99) [hg, *]

/-! ## MainMemory -/

theorem execMmcRead_good (die chan addr : Nat) (err : List Byte) (user : MemUser) (s : State) (hg : Good s0 s) :
    GoodO s0 (execMmcRead die chan addr err user s) := by
  simp +contextual (maxDischargeDepth := 99) [execMmcRead, hg]

theorem execPatrolRead_good (die chan : Nat) (err : List Byte) (s : State) (hg : Good s0 s) :
    GoodO s0 (execPatrolRead die chan err s) := by
  simp +contextual (maxDischargeDepth := 99) [execPatrolRead, hg]

theorem execMmcWrite_good (die chan addr : Nat) (data : List Byte) (user : MemWriter) (s : State) (hg : Good s0 s) :
    GoodO s0 (execMmcWrite die chan addr data user s) := by
  simp +contextual (maxDischargeDepth := 99) [execMmcWrite, hg]

theorem execMmcRefresh_good (die chan bank : Nat) (s : State) (hg : Good s0 s) :
    GoodO s0 (execMmcRefresh die chan bank s) := by
  simp +contextual (maxDischargeDepth := 99) [execMmcRefresh, hg]

theorem execMmcZqCalibration_good (die chan : Nat) (s : State) (hg : Good s0 s) :
    GoodO s0 (execMmcZqCalibration die chan s) := by
  simp +contextual (maxDischargeDepth := 99) [execMmcZqCalibration, hg]

theorem execSramScrub_good (die target bank : Nat) (err : SramErr) (victim : ReadFor) (last : Bool) (s : State) (hg :
    Good s0 s) :
    GoodO s0 (execSramScrub die target bank err victim last s) := by
  simp +contextual (maxDischargeDepth := 99) [execSramScrub, hg]

theorem execSramScrubOverdue_good (die target bank : Nat) (s : State) (hg : Good s0 s) :
    GoodO s0 (execSramScrubOverdue die target bank s) := by
  simp +contextual (maxDischargeDepth := 99) [execSramScrubOverdue, hg]

theorem execMemoryAccess_good (die target domain addr len : Nat) (write : Option (List Byte)) (for_ : ReadFor) (s :
    State) (hg : Good s0 s) :
    GoodO s0 (execMemoryAccess die target domain addr len write for_ s) := by
  unfold execMemoryAccess
  (repeat' split) <;> simp +contextual (maxDischargeDepth := 99) [hg, *]

/-! ## MapTable -/

theorem execMapLookupWindow_good (ctx num die : Nat) (s : State) (hg : Good s0 s) :
    GoodO s0 (execMapLookupWindow ctx num die s) := by
  unfold execMapLookupWindow
  (repeat' split) <;> simp +contextual (maxDischargeDepth := 99) [hg, *]

theorem execMaptableReplace_good (slot : Nat) (s : State) (hg : Good s0 s) :
    GoodO s0 (execMaptableReplace slot s) := by
  simp +contextual (maxDischargeDepth := 99) [execMaptableReplace, hg]

theorem execTableSwitch_good (table : Nat) (s : State) (hg : Good s0 s) :
    GoodO s0 (execTableSwitch table s) := by
  unfold execTableSwitch
  (repeat' split) <;> simp +contextual (maxDischargeDepth := 99) [hg, *]

theorem execFlipStart_good (table : Nat) (s : State) (hg : Good s0 s) :
    GoodO s0 (execFlipStart table s) := by
  unfold execFlipStart
  (repeat' split) <;> simp +contextual (maxDischargeDepth := 99) [hg, *]

theorem execFlipCutoff_good (table : Nat) (s : State) (hg : Good s0 s) :
    GoodO s0 (execFlipCutoff table s) := by
  unfold execFlipCutoff
  (repeat' split) <;> simp +contextual (maxDischargeDepth := 99) [hg, *]

theorem execFlipSwitch_good (table : Nat) (s : State) (hg : Good s0 s) :
    GoodO s0 (execFlipSwitch table s) := by
  unfold execFlipSwitch
  (repeat' split) <;> simp +contextual (maxDischargeDepth := 99) [hg, *]

/-! ## Paddocks -/

theorem execGather_good (stall thread : Nat) (src : GatherSrc) (len : Nat) (s : State) (hg : Good s0 s) :
    GoodO s0 (execGather stall thread src len s) := by
  simp +contextual (maxDischargeDepth := 99) [execGather, hg]

theorem execGatherReturn_good (stall thread : Nat) (s : State) (hg : Good s0 s) :
    GoodO s0 (execGatherReturn stall thread s) := by
  unfold execGatherReturn
  (repeat' split) <;> simp +contextual (maxDischargeDepth := 99) [hg, *]

theorem engineIssue_good (s : State) (d k : Nat) (op : EngineOp) (hg : Good s0 s) :
    GoodO s0 (engineIssue s d k op) := by
  unfold engineIssue
  dsimp only
  repeat' split
  all_goals simp +contextual (maxDischargeDepth := 99) [hg]

theorem execFillLines_good (die cluster : Nat) (issuer : EngineUser) (addr n : Nat) (pattern : List Byte)
    (s : State) (hg : Good s0 s) :
    GoodO s0 (execFillLines die cluster issuer addr n pattern s) := by
  unfold execFillLines
  split
  · exact engineIssue_good _ _ _ _ hg
  · simp [hg]

theorem execCopyLines_good (die cluster : Nat) (issuer : EngineUser) (src dst n : Nat) (s : State)
    (hg : Good s0 s) :
    GoodO s0 (execCopyLines die cluster issuer src dst n s) := engineIssue_good _ _ _ _ hg

theorem execPaddockEngineDone_good (die cluster issuer : Nat) (s : State) (hg : Good s0 s) :
    GoodO s0 (execPaddockEngineDone die cluster issuer s) := by
  unfold execPaddockEngineDone
  repeat' first
    | (simp +contextual (maxDischargeDepth := 99) [*]; done)
    | dsimp only
    | refine goodO_next ?_
    | refine andThen_good _ _ (fun t h => ?_) ?_
    | refine good_foldl _ (fun t a h => ?_) _ _ ?_
    | split

theorem execArbiterDecide_good (arb : ArbId) (turn : ArbTurn) (s : State) (hg : Good s0 s) :
    GoodO s0 (execArbiterDecide arb turn s) := by
  unfold execArbiterDecide
  repeat' first
    | (simp +contextual (maxDischargeDepth := 99) [*]; done)
    | dsimp only
    | refine goodO_next ?_
    | refine andThen_good _ _ (fun t h => ?_) ?_
    | refine good_foldl _ (fun t a h => ?_) _ _ ?_
    | split

theorem execPaddockAccess_good (die cluster : Nat) (user : PadUser) (acc : PaddockAcc) (drop : Bool) (s : State) (hg : Good s0 s) :
    GoodO s0 (execPaddockAccess die cluster user acc drop s) := by
  simp +contextual (maxDischargeDepth := 99) [execPaddockAccess, hg]

/-! ## Security -/

theorem execFwUpdate_good (slot : Nat) (s : State) (hg : Good s0 s) :
    GoodO s0 (execFwUpdate slot s) := by
  simp +contextual (maxDischargeDepth := 99) [execFwUpdate, hg]

theorem execFlashProgramComplete_good (ok : Bool) (s : State) (hg : Good s0 s) :
    GoodO s0 (execFlashProgramComplete ok s) := by
  have h1 : Good s0 { s with sec := { s.sec with updSlot := none, updImage := none } } := hg
  unfold execFlashProgramComplete
  refine goodO_next ?_
  split
  · split
    · apply completeSlot_good
      rw [good_mk]
      exact good_nv h1 (fun h => ⟨Grows.refl _, h⟩)
    · exact completeSlot_good _ _ _ _ h1
  · exact hg

theorem execBundleApply_good (slot : Nat) (s : State) (hg : Good s0 s) :
    GoodO s0 (execBundleApply slot s) := by
  simp +contextual (maxDischargeDepth := 99) [execBundleApply, hg]

theorem execAttest_good (slot : Nat) (s : State) (hg : Good s0 s) :
    GoodO s0 (execAttest slot s) := by
  simp +contextual (maxDischargeDepth := 99) [execAttest, hg]

theorem execDebugChallenge_good (slot : Nat) (s : State) (hg : Good s0 s) :
    GoodO s0 (execDebugChallenge slot s) := by
  simp +contextual (maxDischargeDepth := 99) [execDebugChallenge, hg]

theorem execDebugUnlock_good (slot : Nat) (flashOk : FlashSteps) (s : State) (hg : Good s0 s) :
    GoodO s0 (execDebugUnlock slot flashOk s) := by
  simp +contextual (maxDischargeDepth := 99) [execDebugUnlock, hg]

theorem execChallengeExpiry_good (s : State) (hg : Good s0 s) :
    GoodO s0 (execChallengeExpiry s) := by
  unfold execChallengeExpiry
  (repeat' split) <;> simp +contextual (maxDischargeDepth := 99) [hg, *]

theorem execUnlockExpiry_good (s : State) (hg : Good s0 s) :
    GoodO s0 (execUnlockExpiry s) := by
  simp +contextual (maxDischargeDepth := 99) [execUnlockExpiry, hg]

theorem execLifecycleSet_good (slot : Nat) (flashOk : FlashSteps) (s : State) (hg : Good s0 s) :
    GoodO s0 (execLifecycleSet slot flashOk s) := by
  simp +contextual (maxDischargeDepth := 99) [execLifecycleSet, hg]

theorem execEntropyHealthTestFail_good (adaptive : List Bool) (s : State) (hg : Good s0 s) :
    GoodO s0 (execEntropyHealthTestFail adaptive s) := by
  unfold execEntropyHealthTestFail
  (repeat' split) <;> simp +contextual (maxDischargeDepth := 99) [hg, *]

theorem execTrngRetry_good (pass : List Bool) (s : State) (hg : Good s0 s) :
    GoodO s0 (execTrngRetry pass s) := by
  unfold execTrngRetry
  (repeat' split) <;> simp +contextual (maxDischargeDepth := 99) [hg, *]

/-! ## PkgLoad -/

theorem execPkgLoad_good (slot : Nat) (pkg : Option PkgDecl) (s : State) (hg : Good s0 s) :
    GoodO s0 (execPkgLoad slot pkg s) := by
  simp +contextual (maxDischargeDepth := 99) [execPkgLoad, hg]

/-! ## Startup -/

theorem execPowerOn_good (s : State) (hg : Good s0 s) :
    GoodO s0 (execPowerOn s) := by
  simp +contextual (maxDischargeDepth := 99) [execPowerOn, hg]

theorem execResetNAssert_good (ns : Nat) (taken : Bool) (s : State) (hg : Good s0 s) :
    GoodO s0 (execResetNAssert ns taken s) := by
  simp +contextual (maxDischargeDepth := 99) [execResetNAssert, hg]

theorem execSupplyBrownout_good (s : State) (hg : Good s0 s) :
    GoodO s0 (execSupplyBrownout s) := by
  simp +contextual (maxDischargeDepth := 99) [execSupplyBrownout, hg]

theorem execLockstepMismatch_good (s : State) (hg : Good s0 s) :
    GoodO s0 (execLockstepMismatch s) := by
  simp +contextual (maxDischargeDepth := 99) [execLockstepMismatch, hg]

theorem execWatchdogExpiry_good (s : State) (hg : Good s0 s) :
    GoodO s0 (execWatchdogExpiry s) := by
  simp +contextual (maxDischargeDepth := 99) [execWatchdogExpiry, hg]

theorem execBackupSupplyLoss_good (s : State) (hg : Good s0 s) :
    GoodO s0 (execBackupSupplyLoss s) := by
  simp +contextual (maxDischargeDepth := 99) [execBackupSupplyLoss, hg]

theorem execVddSafeOutOfTolerance_good (below : Bool) (s : State) (hg : Good s0 s) :
    GoodO s0 (execVddSafeOutOfTolerance below s) := by
  simp +contextual (maxDischargeDepth := 99) [execVddSafeOutOfTolerance, hg]

theorem execResetNRelease_good (rep : BootReport) (s : State) (hg : Good s0 s) :
    GoodO s0 (execResetNRelease rep s) := by
  simp +contextual (maxDischargeDepth := 99) [execResetNRelease, hg]

/-! ## StopOut -/

theorem execStopBoundary_good (s : State) (hg : Good s0 s) :
    GoodO s0 (execStopBoundary s) := by
  simp +contextual (maxDischargeDepth := 99) [execStopBoundary, hg]

theorem execStopReadback_good (out : StopOut) (level : Bool) (s : State) (hg : Good s0 s) :
    GoodO s0 (execStopReadback out level s) := by
  unfold execStopReadback
  repeat' first
    | (simp +contextual (maxDischargeDepth := 99) [*]; done)
    | dsimp only
    | refine goodO_next ?_
    | refine andThen_good _ _ (fun t h => ?_) ?_
    | refine good_foldl _ (fun t a h => ?_) _ _ ?_
    | split

theorem execHeartbeat_good (fromChecker : Bool) (s : State) (hg : Good s0 s) :
    GoodO s0 (execHeartbeat fromChecker s) := by
  simp +contextual (maxDischargeDepth := 99) [execHeartbeat, hg]

theorem execHeartbeatTimeout_good (atChecker : Bool) (s : State) (hg : Good s0 s) :
    GoodO s0 (execHeartbeatTimeout atChecker s) := by
  simp +contextual (maxDischargeDepth := 99) [execHeartbeatTimeout, hg]

/-! ## TimeUnit -/

theorem execTimeSet_good (slot : Nat) (s : State) (hg : Good s0 s) :
    GoodO s0 (execTimeSet slot s) := by
  simp +contextual (maxDischargeDepth := 99) [execTimeSet, hg]

theorem execSync_good (adjust : Servo) (s : State) (hg : Good s0 s) :
    GoodO s0 (execSync adjust s) := by
  unfold execSync
  (repeat' split) <;> simp +contextual (maxDischargeDepth := 99) [hg, *]

theorem execFollowUp_good (adjust : Servo) (s : State) (hg : Good s0 s) :
    GoodO s0 (execFollowUp adjust s) := by
  unfold execFollowUp
  repeat' first
    | (simp +contextual (maxDischargeDepth := 99) [*]; done)
    | dsimp only
    | refine goodO_next ?_
    | refine andThen_good _ _ (fun t h => ?_) ?_
    | refine good_foldl _ (fun t a h => ?_) _ _ ?_
    | split

theorem execDelayResp_good (s : State) (hg : Good s0 s) :
    GoodO s0 (execDelayResp s) := by
  unfold execDelayResp
  repeat' first
    | (simp +contextual (maxDischargeDepth := 99) [*]; done)
    | dsimp only
    | refine goodO_next ?_
    | refine andThen_good _ _ (fun t h => ?_) ?_
    | refine good_foldl _ (fun t a h => ?_) _ _ ?_
    | split

theorem execAnnounce_good (s : State) (hg : Good s0 s) :
    GoodO s0 (execAnnounce s) := by
  unfold execAnnounce
  (repeat' split) <;> simp +contextual (maxDischargeDepth := 99) [hg, *]

theorem execDelayReq_good (s : State) (hg : Good s0 s) :
    GoodO s0 (execDelayReq s) := by
  simp +contextual (maxDischargeDepth := 99) [execDelayReq, hg]

theorem execPtpHoldoverExpiry_good (s : State) (hg : Good s0 s) :
    GoodO s0 (execPtpHoldoverExpiry s) := by
  simp +contextual (maxDischargeDepth := 99) [execPtpHoldoverExpiry, hg]

theorem execPoseWrite_good (slot : Nat) (s : State) (hg : Good s0 s) :
    GoodO s0 (execPoseWrite slot s) := by
  simp +contextual (maxDischargeDepth := 99) [execPoseWrite, hg]

/-! ## Verdict -/

theorem execFrameSeal_good (ctx num : Nat) (s : State) (hg : Good s0 s) :
    GoodO s0 (execFrameSeal ctx num s) := by
  unfold execFrameSeal
  (repeat' split) <;> simp +contextual (maxDischargeDepth := 99) [hg, *]

theorem execCutoffExpiry_good (ctx num : Nat) (s : State) (hg : Good s0 s) :
    GoodO s0 (execCutoffExpiry ctx num s) := by
  unfold execCutoffExpiry
  (repeat' split) <;> simp +contextual (maxDischargeDepth := 99) [hg, *]

theorem execMlResultsIn_good (ctx num : Nat) (s : State) (hg : Good s0 s) :
    GoodO s0 (execMlResultsIn ctx num s) := by
  unfold execMlResultsIn
  (repeat' split) <;> simp +contextual (maxDischargeDepth := 99) [hg, *]

end Sys2Proof.Machine
end

