-- ==== Sys2Proof/Laws/State.lean ====
section
/-!
SUPPORT. What the shared updates of the state leave alone: one lemma per field per update. The operations on the host's
side (pennants, events, completions) change the channels, the event log, HINT_N and the model's counter of free values only.
-/
namespace Sys2Proof.Machine

variable (s : State)

/-! ### modDie -/

@[simp] theorem modDie_pending (d : Nat) (f : Die → Die) : (modDie s d f).pending = s.pending := rfl
@[simp] theorem modDie_free (d : Nat) (f : Die → Die) : (modDie s d f).free = s.free := rfl
@[simp] theorem modDie_variant (d : Nat) (f : Die → Die) : (modDie s d f).variant = s.variant := rfl
@[simp] theorem modDie_raw (d : Nat) (f : Die → Die) : (modDie s d f).raw = s.raw := rfl
@[simp] theorem modDie_pins (d : Nat) (f : Die → Die) : (modDie s d f).pins = s.pins := rfl
@[simp] theorem modDie_boot (d : Nat) (f : Die → Die) : (modDie s d f).boot = s.boot := rfl
@[simp] theorem modDie_chans (d : Nat) (f : Die → Die) : (modDie s d f).chans = s.chans := rfl
@[simp] theorem modDie_cfg (d : Nat) (f : Die → Die) : (modDie s d f).cfg = s.cfg := rfl
@[simp] theorem modDie_cnt (d : Nat) (f : Die → Die) : (modDie s d f).cnt = s.cnt := rfl
@[simp] theorem modDie_sub (d : Nat) (f : Die → Die) : (modDie s d f).sub = s.sub := rfl
@[simp] theorem modDie_txn (d : Nat) (f : Die → Die) : (modDie s d f).txn = s.txn := rfl
@[simp] theorem modDie_log (d : Nat) (f : Die → Die) : (modDie s d f).log = s.log := rfl
@[simp] theorem modDie_hops (d : Nat) (f : Die → Die) : (modDie s d f).hops = s.hops := rfl
@[simp] theorem modDie_halyard (d : Nat) (f : Die → Die) : (modDie s d f).halyard = s.halyard := rfl
@[simp] theorem modDie_arbs (d : Nat) (f : Die → Die) : (modDie s d f).arbs = s.arbs := rfl
@[simp] theorem modDie_pkgs (d : Nat) (f : Die → Die) : (modDie s d f).pkgs = s.pkgs := rfl
@[simp] theorem modDie_ctxs (d : Nat) (f : Die → Die) : (modDie s d f).ctxs = s.ctxs := rfl
@[simp] theorem modDie_frames (d : Nat) (f : Die → Die) : (modDie s d f).frames = s.frames := rfl
@[simp] theorem modDie_lanes (d : Nat) (f : Die → Die) : (modDie s d f).lanes = s.lanes := rfl
@[simp] theorem modDie_fwq (d : Nat) (f : Die → Die) : (modDie s d f).fwq = s.fwq := rfl
@[simp] theorem modDie_steer (d : Nat) (f : Die → Die) : (modDie s d f).steer = s.steer := rfl
@[simp] theorem modDie_decs (d : Nat) (f : Die → Die) : (modDie s d f).decs = s.decs := rfl
@[simp] theorem modDie_sensors (d : Nat) (f : Die → Die) : (modDie s d f).sensors = s.sensors := rfl
@[simp] theorem modDie_hiw (d : Nat) (f : Die → Die) : (modDie s d f).hiw = s.hiw := rfl
@[simp] theorem modDie_lastBlock (d : Nat) (f : Die → Die) : (modDie s d f).lastBlock = s.lastBlock := rfl
@[simp] theorem modDie_tmu (d : Nat) (f : Die → Die) : (modDie s d f).tmu = s.tmu := rfl
@[simp] theorem modDie_poses (d : Nat) (f : Die → Die) : (modDie s d f).poses = s.poses := rfl
@[simp] theorem modDie_tables (d : Nat) (f : Die → Die) : (modDie s d f).tables = s.tables := rfl
@[simp] theorem modDie_zck (d : Nat) (f : Die → Die) : (modDie s d f).zck = s.zck := rfl
@[simp] theorem modDie_pwr (d : Nat) (f : Die → Die) : (modDie s d f).pwr = s.pwr := rfl
@[simp] theorem modDie_backup (d : Nat) (f : Die → Die) : (modDie s d f).backup = s.backup := rfl
@[simp] theorem modDie_life (d : Nat) (f : Die → Die) : (modDie s d f).life = s.life := rfl
@[simp] theorem modDie_nv (d : Nat) (f : Die → Die) : (modDie s d f).nv = s.nv := rfl
@[simp] theorem modDie_sec (d : Nat) (f : Die → Die) : (modDie s d f).sec = s.sec := rfl
@[simp] theorem modDie_fwStat (d : Nat) (f : Die → Die) : (modDie s d f).fwStat = s.fwStat := rfl
@[simp] theorem modDie_dbg (d : Nat) (f : Die → Die) : (modDie s d f).dbg = s.dbg := rfl
@[simp] theorem modDie_bmp (d : Nat) (f : Die → Die) : (modDie s d f).bmp = s.bmp := rfl

/-! ### modChan -/

@[simp] theorem modChan_pending (c : Nat) (f : Chan → Chan) : (modChan s c f).pending = s.pending := rfl
@[simp] theorem modChan_free (c : Nat) (f : Chan → Chan) : (modChan s c f).free = s.free := rfl
@[simp] theorem modChan_variant (c : Nat) (f : Chan → Chan) : (modChan s c f).variant = s.variant := rfl
@[simp] theorem modChan_raw (c : Nat) (f : Chan → Chan) : (modChan s c f).raw = s.raw := rfl
@[simp] theorem modChan_pins (c : Nat) (f : Chan → Chan) : (modChan s c f).pins = s.pins := rfl
@[simp] theorem modChan_boot (c : Nat) (f : Chan → Chan) : (modChan s c f).boot = s.boot := rfl
@[simp] theorem modChan_cfg (c : Nat) (f : Chan → Chan) : (modChan s c f).cfg = s.cfg := rfl
@[simp] theorem modChan_cnt (c : Nat) (f : Chan → Chan) : (modChan s c f).cnt = s.cnt := rfl
@[simp] theorem modChan_sub (c : Nat) (f : Chan → Chan) : (modChan s c f).sub = s.sub := rfl
@[simp] theorem modChan_txn (c : Nat) (f : Chan → Chan) : (modChan s c f).txn = s.txn := rfl
@[simp] theorem modChan_log (c : Nat) (f : Chan → Chan) : (modChan s c f).log = s.log := rfl
@[simp] theorem modChan_dies (c : Nat) (f : Chan → Chan) : (modChan s c f).dies = s.dies := rfl
@[simp] theorem modChan_hops (c : Nat) (f : Chan → Chan) : (modChan s c f).hops = s.hops := rfl
@[simp] theorem modChan_halyard (c : Nat) (f : Chan → Chan) : (modChan s c f).halyard = s.halyard := rfl
@[simp] theorem modChan_arbs (c : Nat) (f : Chan → Chan) : (modChan s c f).arbs = s.arbs := rfl
@[simp] theorem modChan_pkgs (c : Nat) (f : Chan → Chan) : (modChan s c f).pkgs = s.pkgs := rfl
@[simp] theorem modChan_ctxs (c : Nat) (f : Chan → Chan) : (modChan s c f).ctxs = s.ctxs := rfl
@[simp] theorem modChan_frames (c : Nat) (f : Chan → Chan) : (modChan s c f).frames = s.frames := rfl
@[simp] theorem modChan_lanes (c : Nat) (f : Chan → Chan) : (modChan s c f).lanes = s.lanes := rfl
@[simp] theorem modChan_fwq (c : Nat) (f : Chan → Chan) : (modChan s c f).fwq = s.fwq := rfl
@[simp] theorem modChan_steer (c : Nat) (f : Chan → Chan) : (modChan s c f).steer = s.steer := rfl
@[simp] theorem modChan_decs (c : Nat) (f : Chan → Chan) : (modChan s c f).decs = s.decs := rfl
@[simp] theorem modChan_sensors (c : Nat) (f : Chan → Chan) : (modChan s c f).sensors = s.sensors := rfl
@[simp] theorem modChan_hiw (c : Nat) (f : Chan → Chan) : (modChan s c f).hiw = s.hiw := rfl
@[simp] theorem modChan_lastBlock (c : Nat) (f : Chan → Chan) : (modChan s c f).lastBlock = s.lastBlock := rfl
@[simp] theorem modChan_tmu (c : Nat) (f : Chan → Chan) : (modChan s c f).tmu = s.tmu := rfl
@[simp] theorem modChan_poses (c : Nat) (f : Chan → Chan) : (modChan s c f).poses = s.poses := rfl
@[simp] theorem modChan_tables (c : Nat) (f : Chan → Chan) : (modChan s c f).tables = s.tables := rfl
@[simp] theorem modChan_zck (c : Nat) (f : Chan → Chan) : (modChan s c f).zck = s.zck := rfl
@[simp] theorem modChan_pwr (c : Nat) (f : Chan → Chan) : (modChan s c f).pwr = s.pwr := rfl
@[simp] theorem modChan_backup (c : Nat) (f : Chan → Chan) : (modChan s c f).backup = s.backup := rfl
@[simp] theorem modChan_life (c : Nat) (f : Chan → Chan) : (modChan s c f).life = s.life := rfl
@[simp] theorem modChan_nv (c : Nat) (f : Chan → Chan) : (modChan s c f).nv = s.nv := rfl
@[simp] theorem modChan_sec (c : Nat) (f : Chan → Chan) : (modChan s c f).sec = s.sec := rfl
@[simp] theorem modChan_fwStat (c : Nat) (f : Chan → Chan) : (modChan s c f).fwStat = s.fwStat := rfl
@[simp] theorem modChan_dbg (c : Nat) (f : Chan → Chan) : (modChan s c f).dbg = s.dbg := rfl
@[simp] theorem modChan_bmp (c : Nat) (f : Chan → Chan) : (modChan s c f).bmp = s.bmp := rfl

/-! ### cfgPut -/

@[simp] theorem cfgPut_pending (r i v : Nat) : (cfgPut s r i v).pending = s.pending := rfl
@[simp] theorem cfgPut_free (r i v : Nat) : (cfgPut s r i v).free = s.free := rfl
@[simp] theorem cfgPut_variant (r i v : Nat) : (cfgPut s r i v).variant = s.variant := rfl
@[simp] theorem cfgPut_raw (r i v : Nat) : (cfgPut s r i v).raw = s.raw := rfl
@[simp] theorem cfgPut_pins (r i v : Nat) : (cfgPut s r i v).pins = s.pins := rfl
@[simp] theorem cfgPut_boot (r i v : Nat) : (cfgPut s r i v).boot = s.boot := rfl
@[simp] theorem cfgPut_chans (r i v : Nat) : (cfgPut s r i v).chans = s.chans := rfl
@[simp] theorem cfgPut_cnt (r i v : Nat) : (cfgPut s r i v).cnt = s.cnt := rfl
@[simp] theorem cfgPut_sub (r i v : Nat) : (cfgPut s r i v).sub = s.sub := rfl
@[simp] theorem cfgPut_txn (r i v : Nat) : (cfgPut s r i v).txn = s.txn := rfl
@[simp] theorem cfgPut_log (r i v : Nat) : (cfgPut s r i v).log = s.log := rfl
@[simp] theorem cfgPut_dies (r i v : Nat) : (cfgPut s r i v).dies = s.dies := rfl
@[simp] theorem cfgPut_hops (r i v : Nat) : (cfgPut s r i v).hops = s.hops := rfl
@[simp] theorem cfgPut_halyard (r i v : Nat) : (cfgPut s r i v).halyard = s.halyard := rfl
@[simp] theorem cfgPut_arbs (r i v : Nat) : (cfgPut s r i v).arbs = s.arbs := rfl
@[simp] theorem cfgPut_pkgs (r i v : Nat) : (cfgPut s r i v).pkgs = s.pkgs := rfl
@[simp] theorem cfgPut_ctxs (r i v : Nat) : (cfgPut s r i v).ctxs = s.ctxs := rfl
@[simp] theorem cfgPut_frames (r i v : Nat) : (cfgPut s r i v).frames = s.frames := rfl
@[simp] theorem cfgPut_lanes (r i v : Nat) : (cfgPut s r i v).lanes = s.lanes := rfl
@[simp] theorem cfgPut_fwq (r i v : Nat) : (cfgPut s r i v).fwq = s.fwq := rfl
@[simp] theorem cfgPut_steer (r i v : Nat) : (cfgPut s r i v).steer = s.steer := rfl
@[simp] theorem cfgPut_decs (r i v : Nat) : (cfgPut s r i v).decs = s.decs := rfl
@[simp] theorem cfgPut_sensors (r i v : Nat) : (cfgPut s r i v).sensors = s.sensors := rfl
@[simp] theorem cfgPut_hiw (r i v : Nat) : (cfgPut s r i v).hiw = s.hiw := rfl
@[simp] theorem cfgPut_lastBlock (r i v : Nat) : (cfgPut s r i v).lastBlock = s.lastBlock := rfl
@[simp] theorem cfgPut_tmu (r i v : Nat) : (cfgPut s r i v).tmu = s.tmu := rfl
@[simp] theorem cfgPut_poses (r i v : Nat) : (cfgPut s r i v).poses = s.poses := rfl
@[simp] theorem cfgPut_tables (r i v : Nat) : (cfgPut s r i v).tables = s.tables := rfl
@[simp] theorem cfgPut_zck (r i v : Nat) : (cfgPut s r i v).zck = s.zck := rfl
@[simp] theorem cfgPut_pwr (r i v : Nat) : (cfgPut s r i v).pwr = s.pwr := rfl
@[simp] theorem cfgPut_backup (r i v : Nat) : (cfgPut s r i v).backup = s.backup := rfl
@[simp] theorem cfgPut_life (r i v : Nat) : (cfgPut s r i v).life = s.life := rfl
@[simp] theorem cfgPut_nv (r i v : Nat) : (cfgPut s r i v).nv = s.nv := rfl
@[simp] theorem cfgPut_sec (r i v : Nat) : (cfgPut s r i v).sec = s.sec := rfl
@[simp] theorem cfgPut_fwStat (r i v : Nat) : (cfgPut s r i v).fwStat = s.fwStat := rfl
@[simp] theorem cfgPut_dbg (r i v : Nat) : (cfgPut s r i v).dbg = s.dbg := rfl
@[simp] theorem cfgPut_bmp (r i v : Nat) : (cfgPut s r i v).bmp = s.bmp := rfl

/-! ### cntAdd -/

@[simp] theorem cntAdd_pending (r i n : Nat) : (cntAdd s r i n).pending = s.pending := rfl
@[simp] theorem cntAdd_free (r i n : Nat) : (cntAdd s r i n).free = s.free := rfl
@[simp] theorem cntAdd_variant (r i n : Nat) : (cntAdd s r i n).variant = s.variant := rfl
@[simp] theorem cntAdd_raw (r i n : Nat) : (cntAdd s r i n).raw = s.raw := rfl
@[simp] theorem cntAdd_pins (r i n : Nat) : (cntAdd s r i n).pins = s.pins := rfl
@[simp] theorem cntAdd_boot (r i n : Nat) : (cntAdd s r i n).boot = s.boot := rfl
@[simp] theorem cntAdd_chans (r i n : Nat) : (cntAdd s r i n).chans = s.chans := rfl
@[simp] theorem cntAdd_cfg (r i n : Nat) : (cntAdd s r i n).cfg = s.cfg := rfl
@[simp] theorem cntAdd_sub (r i n : Nat) : (cntAdd s r i n).sub = s.sub := rfl
@[simp] theorem cntAdd_txn (r i n : Nat) : (cntAdd s r i n).txn = s.txn := rfl
@[simp] theorem cntAdd_log (r i n : Nat) : (cntAdd s r i n).log = s.log := rfl
@[simp] theorem cntAdd_dies (r i n : Nat) : (cntAdd s r i n).dies = s.dies := rfl
@[simp] theorem cntAdd_hops (r i n : Nat) : (cntAdd s r i n).hops = s.hops := rfl
@[simp] theorem cntAdd_halyard (r i n : Nat) : (cntAdd s r i n).halyard = s.halyard := rfl
@[simp] theorem cntAdd_arbs (r i n : Nat) : (cntAdd s r i n).arbs = s.arbs := rfl
@[simp] theorem cntAdd_pkgs (r i n : Nat) : (cntAdd s r i n).pkgs = s.pkgs := rfl
@[simp] theorem cntAdd_ctxs (r i n : Nat) : (cntAdd s r i n).ctxs = s.ctxs := rfl
@[simp] theorem cntAdd_frames (r i n : Nat) : (cntAdd s r i n).frames = s.frames := rfl
@[simp] theorem cntAdd_lanes (r i n : Nat) : (cntAdd s r i n).lanes = s.lanes := rfl
@[simp] theorem cntAdd_fwq (r i n : Nat) : (cntAdd s r i n).fwq = s.fwq := rfl
@[simp] theorem cntAdd_steer (r i n : Nat) : (cntAdd s r i n).steer = s.steer := rfl
@[simp] theorem cntAdd_decs (r i n : Nat) : (cntAdd s r i n).decs = s.decs := rfl
@[simp] theorem cntAdd_sensors (r i n : Nat) : (cntAdd s r i n).sensors = s.sensors := rfl
@[simp] theorem cntAdd_hiw (r i n : Nat) : (cntAdd s r i n).hiw = s.hiw := rfl
@[simp] theorem cntAdd_lastBlock (r i n : Nat) : (cntAdd s r i n).lastBlock = s.lastBlock := rfl
@[simp] theorem cntAdd_tmu (r i n : Nat) : (cntAdd s r i n).tmu = s.tmu := rfl
@[simp] theorem cntAdd_poses (r i n : Nat) : (cntAdd s r i n).poses = s.poses := rfl
@[simp] theorem cntAdd_tables (r i n : Nat) : (cntAdd s r i n).tables = s.tables := rfl
@[simp] theorem cntAdd_zck (r i n : Nat) : (cntAdd s r i n).zck = s.zck := rfl
@[simp] theorem cntAdd_pwr (r i n : Nat) : (cntAdd s r i n).pwr = s.pwr := rfl
@[simp] theorem cntAdd_backup (r i n : Nat) : (cntAdd s r i n).backup = s.backup := rfl
@[simp] theorem cntAdd_life (r i n : Nat) : (cntAdd s r i n).life = s.life := rfl
@[simp] theorem cntAdd_nv (r i n : Nat) : (cntAdd s r i n).nv = s.nv := rfl
@[simp] theorem cntAdd_sec (r i n : Nat) : (cntAdd s r i n).sec = s.sec := rfl
@[simp] theorem cntAdd_fwStat (r i n : Nat) : (cntAdd s r i n).fwStat = s.fwStat := rfl
@[simp] theorem cntAdd_dbg (r i n : Nat) : (cntAdd s r i n).dbg = s.dbg := rfl
@[simp] theorem cntAdd_bmp (r i n : Nat) : (cntAdd s r i n).bmp = s.bmp := rfl

/-! ### modCtx -/

@[simp] theorem modCtx_pending (x : Nat) (f : Ctx → Ctx) : (modCtx s x f).pending = s.pending := rfl
@[simp] theorem modCtx_free (x : Nat) (f : Ctx → Ctx) : (modCtx s x f).free = s.free := rfl
@[simp] theorem modCtx_variant (x : Nat) (f : Ctx → Ctx) : (modCtx s x f).variant = s.variant := rfl
@[simp] theorem modCtx_raw (x : Nat) (f : Ctx → Ctx) : (modCtx s x f).raw = s.raw := rfl
@[simp] theorem modCtx_pins (x : Nat) (f : Ctx → Ctx) : (modCtx s x f).pins = s.pins := rfl
@[simp] theorem modCtx_boot (x : Nat) (f : Ctx → Ctx) : (modCtx s x f).boot = s.boot := rfl
@[simp] theorem modCtx_chans (x : Nat) (f : Ctx → Ctx) : (modCtx s x f).chans = s.chans := rfl
@[simp] theorem modCtx_cfg (x : Nat) (f : Ctx → Ctx) : (modCtx s x f).cfg = s.cfg := rfl
@[simp] theorem modCtx_cnt (x : Nat) (f : Ctx → Ctx) : (modCtx s x f).cnt = s.cnt := rfl
@[simp] theorem modCtx_sub (x : Nat) (f : Ctx → Ctx) : (modCtx s x f).sub = s.sub := rfl
@[simp] theorem modCtx_txn (x : Nat) (f : Ctx → Ctx) : (modCtx s x f).txn = s.txn := rfl
@[simp] theorem modCtx_log (x : Nat) (f : Ctx → Ctx) : (modCtx s x f).log = s.log := rfl
@[simp] theorem modCtx_dies (x : Nat) (f : Ctx → Ctx) : (modCtx s x f).dies = s.dies := rfl
@[simp] theorem modCtx_hops (x : Nat) (f : Ctx → Ctx) : (modCtx s x f).hops = s.hops := rfl
@[simp] theorem modCtx_halyard (x : Nat) (f : Ctx → Ctx) : (modCtx s x f).halyard = s.halyard := rfl
@[simp] theorem modCtx_arbs (x : Nat) (f : Ctx → Ctx) : (modCtx s x f).arbs = s.arbs := rfl
@[simp] theorem modCtx_pkgs (x : Nat) (f : Ctx → Ctx) : (modCtx s x f).pkgs = s.pkgs := rfl
@[simp] theorem modCtx_frames (x : Nat) (f : Ctx → Ctx) : (modCtx s x f).frames = s.frames := rfl
@[simp] theorem modCtx_lanes (x : Nat) (f : Ctx → Ctx) : (modCtx s x f).lanes = s.lanes := rfl
@[simp] theorem modCtx_fwq (x : Nat) (f : Ctx → Ctx) : (modCtx s x f).fwq = s.fwq := rfl
@[simp] theorem modCtx_steer (x : Nat) (f : Ctx → Ctx) : (modCtx s x f).steer = s.steer := rfl
@[simp] theorem modCtx_decs (x : Nat) (f : Ctx → Ctx) : (modCtx s x f).decs = s.decs := rfl
@[simp] theorem modCtx_sensors (x : Nat) (f : Ctx → Ctx) : (modCtx s x f).sensors = s.sensors := rfl
@[simp] theorem modCtx_hiw (x : Nat) (f : Ctx → Ctx) : (modCtx s x f).hiw = s.hiw := rfl
@[simp] theorem modCtx_lastBlock (x : Nat) (f : Ctx → Ctx) : (modCtx s x f).lastBlock = s.lastBlock := rfl
@[simp] theorem modCtx_tmu (x : Nat) (f : Ctx → Ctx) : (modCtx s x f).tmu = s.tmu := rfl
@[simp] theorem modCtx_poses (x : Nat) (f : Ctx → Ctx) : (modCtx s x f).poses = s.poses := rfl
@[simp] theorem modCtx_tables (x : Nat) (f : Ctx → Ctx) : (modCtx s x f).tables = s.tables := rfl
@[simp] theorem modCtx_zck (x : Nat) (f : Ctx → Ctx) : (modCtx s x f).zck = s.zck := rfl
@[simp] theorem modCtx_pwr (x : Nat) (f : Ctx → Ctx) : (modCtx s x f).pwr = s.pwr := rfl
@[simp] theorem modCtx_backup (x : Nat) (f : Ctx → Ctx) : (modCtx s x f).backup = s.backup := rfl
@[simp] theorem modCtx_life (x : Nat) (f : Ctx → Ctx) : (modCtx s x f).life = s.life := rfl
@[simp] theorem modCtx_nv (x : Nat) (f : Ctx → Ctx) : (modCtx s x f).nv = s.nv := rfl
@[simp] theorem modCtx_sec (x : Nat) (f : Ctx → Ctx) : (modCtx s x f).sec = s.sec := rfl
@[simp] theorem modCtx_fwStat (x : Nat) (f : Ctx → Ctx) : (modCtx s x f).fwStat = s.fwStat := rfl
@[simp] theorem modCtx_dbg (x : Nat) (f : Ctx → Ctx) : (modCtx s x f).dbg = s.dbg := rfl
@[simp] theorem modCtx_bmp (x : Nat) (f : Ctx → Ctx) : (modCtx s x f).bmp = s.bmp := rfl

/-! ### modFrameAt -/

@[simp] theorem modFrameAt_pending (x n : Nat) (f : Frame → Frame) : (modFrameAt s x n f).pending = s.pending := rfl
@[simp] theorem modFrameAt_free (x n : Nat) (f : Frame → Frame) : (modFrameAt s x n f).free = s.free := rfl
@[simp] theorem modFrameAt_variant (x n : Nat) (f : Frame → Frame) : (modFrameAt s x n f).variant = s.variant := rfl
@[simp] theorem modFrameAt_raw (x n : Nat) (f : Frame → Frame) : (modFrameAt s x n f).raw = s.raw := rfl
@[simp] theorem modFrameAt_pins (x n : Nat) (f : Frame → Frame) : (modFrameAt s x n f).pins = s.pins := rfl
@[simp] theorem modFrameAt_boot (x n : Nat) (f : Frame → Frame) : (modFrameAt s x n f).boot = s.boot := rfl
@[simp] theorem modFrameAt_chans (x n : Nat) (f : Frame → Frame) : (modFrameAt s x n f).chans = s.chans := rfl
@[simp] theorem modFrameAt_cfg (x n : Nat) (f : Frame → Frame) : (modFrameAt s x n f).cfg = s.cfg := rfl
@[simp] theorem modFrameAt_cnt (x n : Nat) (f : Frame → Frame) : (modFrameAt s x n f).cnt = s.cnt := rfl
@[simp] theorem modFrameAt_sub (x n : Nat) (f : Frame → Frame) : (modFrameAt s x n f).sub = s.sub := rfl
@[simp] theorem modFrameAt_txn (x n : Nat) (f : Frame → Frame) : (modFrameAt s x n f).txn = s.txn := rfl
@[simp] theorem modFrameAt_log (x n : Nat) (f : Frame → Frame) : (modFrameAt s x n f).log = s.log := rfl
@[simp] theorem modFrameAt_dies (x n : Nat) (f : Frame → Frame) : (modFrameAt s x n f).dies = s.dies := rfl
@[simp] theorem modFrameAt_hops (x n : Nat) (f : Frame → Frame) : (modFrameAt s x n f).hops = s.hops := rfl
@[simp] theorem modFrameAt_halyard (x n : Nat) (f : Frame → Frame) : (modFrameAt s x n f).halyard = s.halyard := rfl
@[simp] theorem modFrameAt_arbs (x n : Nat) (f : Frame → Frame) : (modFrameAt s x n f).arbs = s.arbs := rfl
@[simp] theorem modFrameAt_pkgs (x n : Nat) (f : Frame → Frame) : (modFrameAt s x n f).pkgs = s.pkgs := rfl
@[simp] theorem modFrameAt_ctxs (x n : Nat) (f : Frame → Frame) : (modFrameAt s x n f).ctxs = s.ctxs := rfl
@[simp] theorem modFrameAt_lanes (x n : Nat) (f : Frame → Frame) : (modFrameAt s x n f).lanes = s.lanes := rfl
@[simp] theorem modFrameAt_fwq (x n : Nat) (f : Frame → Frame) : (modFrameAt s x n f).fwq = s.fwq := rfl
@[simp] theorem modFrameAt_steer (x n : Nat) (f : Frame → Frame) : (modFrameAt s x n f).steer = s.steer := rfl
@[simp] theorem modFrameAt_decs (x n : Nat) (f : Frame → Frame) : (modFrameAt s x n f).decs = s.decs := rfl
@[simp] theorem modFrameAt_sensors (x n : Nat) (f : Frame → Frame) : (modFrameAt s x n f).sensors = s.sensors := rfl
@[simp] theorem modFrameAt_hiw (x n : Nat) (f : Frame → Frame) : (modFrameAt s x n f).hiw = s.hiw := rfl
@[simp] theorem modFrameAt_lastBlock (x n : Nat) (f : Frame → Frame) : (modFrameAt s x n f).lastBlock = s.lastBlock := rfl
@[simp] theorem modFrameAt_tmu (x n : Nat) (f : Frame → Frame) : (modFrameAt s x n f).tmu = s.tmu := rfl
@[simp] theorem modFrameAt_poses (x n : Nat) (f : Frame → Frame) : (modFrameAt s x n f).poses = s.poses := rfl
@[simp] theorem modFrameAt_tables (x n : Nat) (f : Frame → Frame) : (modFrameAt s x n f).tables = s.tables := rfl
@[simp] theorem modFrameAt_zck (x n : Nat) (f : Frame → Frame) : (modFrameAt s x n f).zck = s.zck := rfl
@[simp] theorem modFrameAt_pwr (x n : Nat) (f : Frame → Frame) : (modFrameAt s x n f).pwr = s.pwr := rfl
@[simp] theorem modFrameAt_backup (x n : Nat) (f : Frame → Frame) : (modFrameAt s x n f).backup = s.backup := rfl
@[simp] theorem modFrameAt_life (x n : Nat) (f : Frame → Frame) : (modFrameAt s x n f).life = s.life := rfl
@[simp] theorem modFrameAt_nv (x n : Nat) (f : Frame → Frame) : (modFrameAt s x n f).nv = s.nv := rfl
@[simp] theorem modFrameAt_sec (x n : Nat) (f : Frame → Frame) : (modFrameAt s x n f).sec = s.sec := rfl
@[simp] theorem modFrameAt_fwStat (x n : Nat) (f : Frame → Frame) : (modFrameAt s x n f).fwStat = s.fwStat := rfl
@[simp] theorem modFrameAt_dbg (x n : Nat) (f : Frame → Frame) : (modFrameAt s x n f).dbg = s.dbg := rfl
@[simp] theorem modFrameAt_bmp (x n : Nat) (f : Frame → Frame) : (modFrameAt s x n f).bmp = s.bmp := rfl

/-! ### modPwr -/

@[simp] theorem modPwr_pending (f : Pwr → Pwr) : (modPwr s f).pending = s.pending := rfl
@[simp] theorem modPwr_free (f : Pwr → Pwr) : (modPwr s f).free = s.free := rfl
@[simp] theorem modPwr_variant (f : Pwr → Pwr) : (modPwr s f).variant = s.variant := rfl
@[simp] theorem modPwr_raw (f : Pwr → Pwr) : (modPwr s f).raw = s.raw := rfl
@[simp] theorem modPwr_pins (f : Pwr → Pwr) : (modPwr s f).pins = s.pins := rfl
@[simp] theorem modPwr_boot (f : Pwr → Pwr) : (modPwr s f).boot = s.boot := rfl
@[simp] theorem modPwr_chans (f : Pwr → Pwr) : (modPwr s f).chans = s.chans := rfl
@[simp] theorem modPwr_cfg (f : Pwr → Pwr) : (modPwr s f).cfg = s.cfg := rfl
@[simp] theorem modPwr_cnt (f : Pwr → Pwr) : (modPwr s f).cnt = s.cnt := rfl
@[simp] theorem modPwr_sub (f : Pwr → Pwr) : (modPwr s f).sub = s.sub := rfl
@[simp] theorem modPwr_txn (f : Pwr → Pwr) : (modPwr s f).txn = s.txn := rfl
@[simp] theorem modPwr_log (f : Pwr → Pwr) : (modPwr s f).log = s.log := rfl
@[simp] theorem modPwr_dies (f : Pwr → Pwr) : (modPwr s f).dies = s.dies := rfl
@[simp] theorem modPwr_hops (f : Pwr → Pwr) : (modPwr s f).hops = s.hops := rfl
@[simp] theorem modPwr_halyard (f : Pwr → Pwr) : (modPwr s f).halyard = s.halyard := rfl
@[simp] theorem modPwr_arbs (f : Pwr → Pwr) : (modPwr s f).arbs = s.arbs := rfl
@[simp] theorem modPwr_pkgs (f : Pwr → Pwr) : (modPwr s f).pkgs = s.pkgs := rfl
@[simp] theorem modPwr_ctxs (f : Pwr → Pwr) : (modPwr s f).ctxs = s.ctxs := rfl
@[simp] theorem modPwr_frames (f : Pwr → Pwr) : (modPwr s f).frames = s.frames := rfl
@[simp] theorem modPwr_lanes (f : Pwr → Pwr) : (modPwr s f).lanes = s.lanes := rfl
@[simp] theorem modPwr_fwq (f : Pwr → Pwr) : (modPwr s f).fwq = s.fwq := rfl
@[simp] theorem modPwr_steer (f : Pwr → Pwr) : (modPwr s f).steer = s.steer := rfl
@[simp] theorem modPwr_decs (f : Pwr → Pwr) : (modPwr s f).decs = s.decs := rfl
@[simp] theorem modPwr_sensors (f : Pwr → Pwr) : (modPwr s f).sensors = s.sensors := rfl
@[simp] theorem modPwr_hiw (f : Pwr → Pwr) : (modPwr s f).hiw = s.hiw := rfl
@[simp] theorem modPwr_lastBlock (f : Pwr → Pwr) : (modPwr s f).lastBlock = s.lastBlock := rfl
@[simp] theorem modPwr_tmu (f : Pwr → Pwr) : (modPwr s f).tmu = s.tmu := rfl
@[simp] theorem modPwr_poses (f : Pwr → Pwr) : (modPwr s f).poses = s.poses := rfl
@[simp] theorem modPwr_tables (f : Pwr → Pwr) : (modPwr s f).tables = s.tables := rfl
@[simp] theorem modPwr_zck (f : Pwr → Pwr) : (modPwr s f).zck = s.zck := rfl
@[simp] theorem modPwr_backup (f : Pwr → Pwr) : (modPwr s f).backup = s.backup := rfl
@[simp] theorem modPwr_life (f : Pwr → Pwr) : (modPwr s f).life = s.life := rfl
@[simp] theorem modPwr_nv (f : Pwr → Pwr) : (modPwr s f).nv = s.nv := rfl
@[simp] theorem modPwr_sec (f : Pwr → Pwr) : (modPwr s f).sec = s.sec := rfl
@[simp] theorem modPwr_fwStat (f : Pwr → Pwr) : (modPwr s f).fwStat = s.fwStat := rfl
@[simp] theorem modPwr_dbg (f : Pwr → Pwr) : (modPwr s f).dbg = s.dbg := rfl
@[simp] theorem modPwr_bmp (f : Pwr → Pwr) : (modPwr s f).bmp = s.bmp := rfl

/-! ## The host's side -/

section
variable {s t : State}

theorem rest_arbs (h : restOf s = restOf t) : s.arbs = t.arbs := (congrArg State.arbs h : (restOf s).arbs = (restOf t).arbs)
theorem rest_backup (h : restOf s = restOf t) : s.backup = t.backup := (congrArg State.backup h : (restOf s).backup = (restOf t).backup)
theorem rest_bmp (h : restOf s = restOf t) : s.bmp = t.bmp := (congrArg State.bmp h : (restOf s).bmp = (restOf t).bmp)
theorem rest_boot (h : restOf s = restOf t) : s.boot = t.boot := (congrArg State.boot h : (restOf s).boot = (restOf t).boot)
theorem rest_cfg (h : restOf s = restOf t) : s.cfg = t.cfg := (congrArg State.cfg h : (restOf s).cfg = (restOf t).cfg)
theorem rest_cnt (h : restOf s = restOf t) : s.cnt = t.cnt := (congrArg State.cnt h : (restOf s).cnt = (restOf t).cnt)
theorem rest_ctxs (h : restOf s = restOf t) : s.ctxs = t.ctxs := (congrArg State.ctxs h : (restOf s).ctxs = (restOf t).ctxs)
theorem rest_dbg (h : restOf s = restOf t) : s.dbg = t.dbg := (congrArg State.dbg h : (restOf s).dbg = (restOf t).dbg)
theorem rest_decs (h : restOf s = restOf t) : s.decs = t.decs := (congrArg State.decs h : (restOf s).decs = (restOf t).decs)
theorem rest_dies (h : restOf s = restOf t) : s.dies = t.dies := (congrArg State.dies h : (restOf s).dies = (restOf t).dies)
theorem rest_frames (h : restOf s = restOf t) : s.frames = t.frames := (congrArg State.frames h : (restOf s).frames = (restOf t).frames)
theorem rest_fwStat (h : restOf s = restOf t) : s.fwStat = t.fwStat := (congrArg State.fwStat h : (restOf s).fwStat = (restOf t).fwStat)
theorem rest_fwq (h : restOf s = restOf t) : s.fwq = t.fwq := (congrArg State.fwq h : (restOf s).fwq = (restOf t).fwq)
theorem rest_halyard (h : restOf s = restOf t) : s.halyard = t.halyard := (congrArg State.halyard h : (restOf s).halyard = (restOf t).halyard)
theorem rest_hiw (h : restOf s = restOf t) : s.hiw = t.hiw := (congrArg State.hiw h : (restOf s).hiw = (restOf t).hiw)
theorem rest_lastBlock (h : restOf s = restOf t) : s.lastBlock = t.lastBlock := (congrArg State.lastBlock h : (restOf s).lastBlock = (restOf t).lastBlock)
theorem rest_hops (h : restOf s = restOf t) : s.hops = t.hops := (congrArg State.hops h : (restOf s).hops = (restOf t).hops)
theorem rest_lanes (h : restOf s = restOf t) : s.lanes = t.lanes := (congrArg State.lanes h : (restOf s).lanes = (restOf t).lanes)
theorem rest_life (h : restOf s = restOf t) : s.life = t.life := (congrArg State.life h : (restOf s).life = (restOf t).life)
theorem rest_nv (h : restOf s = restOf t) : s.nv = t.nv := (congrArg State.nv h : (restOf s).nv = (restOf t).nv)
theorem rest_pending (h : restOf s = restOf t) : s.pending = t.pending := (congrArg State.pending h : (restOf s).pending = (restOf t).pending)
theorem rest_pkgs (h : restOf s = restOf t) : s.pkgs = t.pkgs := (congrArg State.pkgs h : (restOf s).pkgs = (restOf t).pkgs)
theorem rest_poses (h : restOf s = restOf t) : s.poses = t.poses := (congrArg State.poses h : (restOf s).poses = (restOf t).poses)
theorem rest_pwr (h : restOf s = restOf t) : s.pwr = t.pwr := (congrArg State.pwr h : (restOf s).pwr = (restOf t).pwr)
theorem rest_raw (h : restOf s = restOf t) : s.raw = t.raw := (congrArg State.raw h : (restOf s).raw = (restOf t).raw)
theorem rest_sec (h : restOf s = restOf t) : s.sec = t.sec := (congrArg State.sec h : (restOf s).sec = (restOf t).sec)
theorem rest_sensors (h : restOf s = restOf t) : s.sensors = t.sensors := (congrArg State.sensors h : (restOf s).sensors = (restOf t).sensors)
theorem rest_steer (h : restOf s = restOf t) : s.steer = t.steer := (congrArg State.steer h : (restOf s).steer = (restOf t).steer)
theorem rest_sub (h : restOf s = restOf t) : s.sub = t.sub := (congrArg State.sub h : (restOf s).sub = (restOf t).sub)
theorem rest_tables (h : restOf s = restOf t) : s.tables = t.tables := (congrArg State.tables h : (restOf s).tables = (restOf t).tables)
theorem rest_tmu (h : restOf s = restOf t) : s.tmu = t.tmu := (congrArg State.tmu h : (restOf s).tmu = (restOf t).tmu)
theorem rest_txn (h : restOf s = restOf t) : s.txn = t.txn := (congrArg State.txn h : (restOf s).txn = (restOf t).txn)
theorem rest_variant (h : restOf s = restOf t) : s.variant = t.variant := (congrArg State.variant h : (restOf s).variant = (restOf t).variant)
theorem rest_zck (h : restOf s = restOf t) : s.zck = t.zck := (congrArg State.zck h : (restOf s).zck = (restOf t).zck)
end

theorem restOf_foldl {α : Type} (f : State → α → State) (h : ∀ t a, restOf (f t a) = restOf t) (l : List α) :
    ∀ t, restOf (l.foldl f t) = restOf t := by
  induction l with
  | nil => exact fun _ => rfl
  | cons a l ih => exact fun t => (ih _).trans (h t a)

theorem hintUpdate_rest : restOf (hintUpdate s) = restOf s := rfl
theorem modChan_rest (c : Nat) (f : Chan → Chan) : restOf (modChan s c f) = restOf s := rfl
theorem markStarted_rest (k : Nat) : restOf (markStarted s k) = restOf s := rfl
theorem apertureWrite_rest (c o : Nat) (d : List Byte) : restOf (apertureWrite s c o d) = restOf s := rfl
theorem writePennant_rest (c : Nat) (x : Pennant) : restOf (writePennant s c x) = restOf s := rfl

theorem flushMarker_rest (c : Nat) : restOf (flushMarker s c) = restOf s := by
  unfold flushMarker
  split <;> rfl

theorem looseP_rest (c : Nat) (x : Pennant) : restOf (looseP s c x) = restOf s := by
  unfold looseP
  dsimp only
  split
  · exact flushMarker_rest s c
  · exact flushMarker_rest s c

theorem ringEvent_rest (e : Ev) : restOf (ringEvent s e) = restOf s := by
  simp only [ringEvent]
  repeat' split
  all_goals first
    | rfl
    | exact (looseP_rest _ _ _).trans rfl

theorem raiseOne_rest (e : Ev) : restOf (raiseOne s e) = restOf s := (ringEvent_rest _ _).trans rfl

theorem raise_rest (l : List Ev) : restOf (raise s l) = restOf s := restOf_foldl _ raiseOne_rest _ s

theorem complete_rest (c : Cmd) (st : Nat) (b : List Byte) : restOf (complete s c st b) = restOf s := by
  unfold complete
  exact (writePennant_rest _ _ _).trans (flushMarker_rest _ _)

theorem completeSlot_rest (k st : Nat) (b : List Byte) : restOf (completeSlot s k st b) = restOf s := by
  unfold completeSlot
  split
  · exact complete_rest s _ st b
  · rfl

/-! ### markStarted -/

@[simp] theorem markStarted_pending (k : Nat) : (markStarted s k).pending = s.pending := rfl
@[simp] theorem markStarted_variant (k : Nat) : (markStarted s k).variant = s.variant := rfl
@[simp] theorem markStarted_raw (k : Nat) : (markStarted s k).raw = s.raw := rfl
@[simp] theorem markStarted_boot (k : Nat) : (markStarted s k).boot = s.boot := rfl
@[simp] theorem markStarted_cfg (k : Nat) : (markStarted s k).cfg = s.cfg := rfl
@[simp] theorem markStarted_cnt (k : Nat) : (markStarted s k).cnt = s.cnt := rfl
@[simp] theorem markStarted_sub (k : Nat) : (markStarted s k).sub = s.sub := rfl
@[simp] theorem markStarted_txn (k : Nat) : (markStarted s k).txn = s.txn := rfl
@[simp] theorem markStarted_dies (k : Nat) : (markStarted s k).dies = s.dies := rfl
@[simp] theorem markStarted_hops (k : Nat) : (markStarted s k).hops = s.hops := rfl
@[simp] theorem markStarted_halyard (k : Nat) : (markStarted s k).halyard = s.halyard := rfl
@[simp] theorem markStarted_arbs (k : Nat) : (markStarted s k).arbs = s.arbs := rfl
@[simp] theorem markStarted_pkgs (k : Nat) : (markStarted s k).pkgs = s.pkgs := rfl
@[simp] theorem markStarted_ctxs (k : Nat) : (markStarted s k).ctxs = s.ctxs := rfl
@[simp] theorem markStarted_frames (k : Nat) : (markStarted s k).frames = s.frames := rfl
@[simp] theorem markStarted_lanes (k : Nat) : (markStarted s k).lanes = s.lanes := rfl
@[simp] theorem markStarted_fwq (k : Nat) : (markStarted s k).fwq = s.fwq := rfl
@[simp] theorem markStarted_steer (k : Nat) : (markStarted s k).steer = s.steer := rfl
@[simp] theorem markStarted_decs (k : Nat) : (markStarted s k).decs = s.decs := rfl
@[simp] theorem markStarted_sensors (k : Nat) : (markStarted s k).sensors = s.sensors := rfl
@[simp] theorem markStarted_hiw (k : Nat) : (markStarted s k).hiw = s.hiw := rfl
@[simp] theorem markStarted_lastBlock (k : Nat) : (markStarted s k).lastBlock = s.lastBlock := rfl
@[simp] theorem markStarted_tmu (k : Nat) : (markStarted s k).tmu = s.tmu := rfl
@[simp] theorem markStarted_poses (k : Nat) : (markStarted s k).poses = s.poses := rfl
@[simp] theorem markStarted_tables (k : Nat) : (markStarted s k).tables = s.tables := rfl
@[simp] theorem markStarted_zck (k : Nat) : (markStarted s k).zck = s.zck := rfl
@[simp] theorem markStarted_pwr (k : Nat) : (markStarted s k).pwr = s.pwr := rfl
@[simp] theorem markStarted_backup (k : Nat) : (markStarted s k).backup = s.backup := rfl
@[simp] theorem markStarted_life (k : Nat) : (markStarted s k).life = s.life := rfl
@[simp] theorem markStarted_nv (k : Nat) : (markStarted s k).nv = s.nv := rfl
@[simp] theorem markStarted_sec (k : Nat) : (markStarted s k).sec = s.sec := rfl
@[simp] theorem markStarted_fwStat (k : Nat) : (markStarted s k).fwStat = s.fwStat := rfl
@[simp] theorem markStarted_dbg (k : Nat) : (markStarted s k).dbg = s.dbg := rfl
@[simp] theorem markStarted_bmp (k : Nat) : (markStarted s k).bmp = s.bmp := rfl

/-! ### apertureWrite -/

@[simp] theorem apertureWrite_pending (c o : Nat) (d : List Byte) : (apertureWrite s c o d).pending = s.pending := rfl
@[simp] theorem apertureWrite_variant (c o : Nat) (d : List Byte) : (apertureWrite s c o d).variant = s.variant := rfl
@[simp] theorem apertureWrite_raw (c o : Nat) (d : List Byte) : (apertureWrite s c o d).raw = s.raw := rfl
@[simp] theorem apertureWrite_boot (c o : Nat) (d : List Byte) : (apertureWrite s c o d).boot = s.boot := rfl
@[simp] theorem apertureWrite_cfg (c o : Nat) (d : List Byte) : (apertureWrite s c o d).cfg = s.cfg := rfl
@[simp] theorem apertureWrite_cnt (c o : Nat) (d : List Byte) : (apertureWrite s c o d).cnt = s.cnt := rfl
@[simp] theorem apertureWrite_sub (c o : Nat) (d : List Byte) : (apertureWrite s c o d).sub = s.sub := rfl
@[simp] theorem apertureWrite_txn (c o : Nat) (d : List Byte) : (apertureWrite s c o d).txn = s.txn := rfl
@[simp] theorem apertureWrite_dies (c o : Nat) (d : List Byte) : (apertureWrite s c o d).dies = s.dies := rfl
@[simp] theorem apertureWrite_hops (c o : Nat) (d : List Byte) : (apertureWrite s c o d).hops = s.hops := rfl
@[simp] theorem apertureWrite_halyard (c o : Nat) (d : List Byte) : (apertureWrite s c o d).halyard = s.halyard := rfl
@[simp] theorem apertureWrite_arbs (c o : Nat) (d : List Byte) : (apertureWrite s c o d).arbs = s.arbs := rfl
@[simp] theorem apertureWrite_pkgs (c o : Nat) (d : List Byte) : (apertureWrite s c o d).pkgs = s.pkgs := rfl
@[simp] theorem apertureWrite_ctxs (c o : Nat) (d : List Byte) : (apertureWrite s c o d).ctxs = s.ctxs := rfl
@[simp] theorem apertureWrite_frames (c o : Nat) (d : List Byte) : (apertureWrite s c o d).frames = s.frames := rfl
@[simp] theorem apertureWrite_lanes (c o : Nat) (d : List Byte) : (apertureWrite s c o d).lanes = s.lanes := rfl
@[simp] theorem apertureWrite_fwq (c o : Nat) (d : List Byte) : (apertureWrite s c o d).fwq = s.fwq := rfl
@[simp] theorem apertureWrite_steer (c o : Nat) (d : List Byte) : (apertureWrite s c o d).steer = s.steer := rfl
@[simp] theorem apertureWrite_decs (c o : Nat) (d : List Byte) : (apertureWrite s c o d).decs = s.decs := rfl
@[simp] theorem apertureWrite_sensors (c o : Nat) (d : List Byte) : (apertureWrite s c o d).sensors = s.sensors := rfl
@[simp] theorem apertureWrite_hiw (c o : Nat) (d : List Byte) : (apertureWrite s c o d).hiw = s.hiw := rfl
@[simp] theorem apertureWrite_lastBlock (c o : Nat) (d : List Byte) : (apertureWrite s c o d).lastBlock = s.lastBlock := rfl
@[simp] theorem apertureWrite_tmu (c o : Nat) (d : List Byte) : (apertureWrite s c o d).tmu = s.tmu := rfl
@[simp] theorem apertureWrite_poses (c o : Nat) (d : List Byte) : (apertureWrite s c o d).poses = s.poses := rfl
@[simp] theorem apertureWrite_tables (c o : Nat) (d : List Byte) : (apertureWrite s c o d).tables = s.tables := rfl
@[simp] theorem apertureWrite_zck (c o : Nat) (d : List Byte) : (apertureWrite s c o d).zck = s.zck := rfl
@[simp] theorem apertureWrite_pwr (c o : Nat) (d : List Byte) : (apertureWrite s c o d).pwr = s.pwr := rfl
@[simp] theorem apertureWrite_backup (c o : Nat) (d : List Byte) : (apertureWrite s c o d).backup = s.backup := rfl
@[simp] theorem apertureWrite_life (c o : Nat) (d : List Byte) : (apertureWrite s c o d).life = s.life := rfl
@[simp] theorem apertureWrite_nv (c o : Nat) (d : List Byte) : (apertureWrite s c o d).nv = s.nv := rfl
@[simp] theorem apertureWrite_sec (c o : Nat) (d : List Byte) : (apertureWrite s c o d).sec = s.sec := rfl
@[simp] theorem apertureWrite_fwStat (c o : Nat) (d : List Byte) : (apertureWrite s c o d).fwStat = s.fwStat := rfl
@[simp] theorem apertureWrite_dbg (c o : Nat) (d : List Byte) : (apertureWrite s c o d).dbg = s.dbg := rfl
@[simp] theorem apertureWrite_bmp (c o : Nat) (d : List Byte) : (apertureWrite s c o d).bmp = s.bmp := rfl

/-! ### raise -/

@[simp] theorem raise_pending (l : List Ev) : (raise s l).pending = s.pending :=
  rest_pending (raise_rest s l)
@[simp] theorem raise_variant (l : List Ev) : (raise s l).variant = s.variant :=
  rest_variant (raise_rest s l)
@[simp] theorem raise_raw (l : List Ev) : (raise s l).raw = s.raw := rest_raw (raise_rest s l)
@[simp] theorem raise_boot (l : List Ev) : (raise s l).boot = s.boot := rest_boot (raise_rest s l)
@[simp] theorem raise_cfg (l : List Ev) : (raise s l).cfg = s.cfg := rest_cfg (raise_rest s l)
@[simp] theorem raise_cnt (l : List Ev) : (raise s l).cnt = s.cnt := rest_cnt (raise_rest s l)
@[simp] theorem raise_sub (l : List Ev) : (raise s l).sub = s.sub := rest_sub (raise_rest s l)
@[simp] theorem raise_txn (l : List Ev) : (raise s l).txn = s.txn := rest_txn (raise_rest s l)
@[simp] theorem raise_dies (l : List Ev) : (raise s l).dies = s.dies := rest_dies (raise_rest s l)
@[simp] theorem raise_hops (l : List Ev) : (raise s l).hops = s.hops := rest_hops (raise_rest s l)
@[simp] theorem raise_halyard (l : List Ev) : (raise s l).halyard = s.halyard :=
  rest_halyard (raise_rest s l)
@[simp] theorem raise_arbs (l : List Ev) : (raise s l).arbs = s.arbs := rest_arbs (raise_rest s l)
@[simp] theorem raise_pkgs (l : List Ev) : (raise s l).pkgs = s.pkgs := rest_pkgs (raise_rest s l)
@[simp] theorem raise_ctxs (l : List Ev) : (raise s l).ctxs = s.ctxs := rest_ctxs (raise_rest s l)
@[simp] theorem raise_frames (l : List Ev) : (raise s l).frames = s.frames := rest_frames (raise_rest s l)
@[simp] theorem raise_lanes (l : List Ev) : (raise s l).lanes = s.lanes := rest_lanes (raise_rest s l)
@[simp] theorem raise_fwq (l : List Ev) : (raise s l).fwq = s.fwq := rest_fwq (raise_rest s l)
@[simp] theorem raise_steer (l : List Ev) : (raise s l).steer = s.steer := rest_steer (raise_rest s l)
@[simp] theorem raise_decs (l : List Ev) : (raise s l).decs = s.decs := rest_decs (raise_rest s l)
@[simp] theorem raise_sensors (l : List Ev) : (raise s l).sensors = s.sensors :=
  rest_sensors (raise_rest s l)
@[simp] theorem raise_hiw (l : List Ev) : (raise s l).hiw = s.hiw := rest_hiw (raise_rest s l)
@[simp] theorem raise_lastBlock (l : List Ev) : (raise s l).lastBlock = s.lastBlock := rest_lastBlock (raise_rest s l)
@[simp] theorem raise_tmu (l : List Ev) : (raise s l).tmu = s.tmu := rest_tmu (raise_rest s l)
@[simp] theorem raise_poses (l : List Ev) : (raise s l).poses = s.poses := rest_poses (raise_rest s l)
@[simp] theorem raise_tables (l : List Ev) : (raise s l).tables = s.tables := rest_tables (raise_rest s l)
@[simp] theorem raise_zck (l : List Ev) : (raise s l).zck = s.zck := rest_zck (raise_rest s l)
@[simp] theorem raise_pwr (l : List Ev) : (raise s l).pwr = s.pwr := rest_pwr (raise_rest s l)
@[simp] theorem raise_backup (l : List Ev) : (raise s l).backup = s.backup := rest_backup (raise_rest s l)
@[simp] theorem raise_life (l : List Ev) : (raise s l).life = s.life := rest_life (raise_rest s l)
@[simp] theorem raise_nv (l : List Ev) : (raise s l).nv = s.nv := rest_nv (raise_rest s l)
@[simp] theorem raise_sec (l : List Ev) : (raise s l).sec = s.sec := rest_sec (raise_rest s l)
@[simp] theorem raise_fwStat (l : List Ev) : (raise s l).fwStat = s.fwStat := rest_fwStat (raise_rest s l)
@[simp] theorem raise_dbg (l : List Ev) : (raise s l).dbg = s.dbg := rest_dbg (raise_rest s l)
@[simp] theorem raise_bmp (l : List Ev) : (raise s l).bmp = s.bmp := rest_bmp (raise_rest s l)

/-! ### complete -/

@[simp] theorem complete_pending (c : Cmd) (st : Nat) (b : List Byte) : (complete s c st b).pending = s.pending :=
  rest_pending (complete_rest s c st b)
@[simp] theorem complete_variant (c : Cmd) (st : Nat) (b : List Byte) : (complete s c st b).variant = s.variant :=
  rest_variant (complete_rest s c st b)
@[simp] theorem complete_raw (c : Cmd) (st : Nat) (b : List Byte) : (complete s c st b).raw = s.raw :=
  rest_raw (complete_rest s c st b)
@[simp] theorem complete_boot (c : Cmd) (st : Nat) (b : List Byte) : (complete s c st b).boot = s.boot :=
  rest_boot (complete_rest s c st b)
@[simp] theorem complete_cfg (c : Cmd) (st : Nat) (b : List Byte) : (complete s c st b).cfg = s.cfg :=
  rest_cfg (complete_rest s c st b)
@[simp] theorem complete_cnt (c : Cmd) (st : Nat) (b : List Byte) : (complete s c st b).cnt = s.cnt :=
  rest_cnt (complete_rest s c st b)
@[simp] theorem complete_sub (c : Cmd) (st : Nat) (b : List Byte) : (complete s c st b).sub = s.sub :=
  rest_sub (complete_rest s c st b)
@[simp] theorem complete_txn (c : Cmd) (st : Nat) (b : List Byte) : (complete s c st b).txn = s.txn :=
  rest_txn (complete_rest s c st b)
@[simp] theorem complete_dies (c : Cmd) (st : Nat) (b : List Byte) : (complete s c st b).dies = s.dies :=
  rest_dies (complete_rest s c st b)
@[simp] theorem complete_hops (c : Cmd) (st : Nat) (b : List Byte) : (complete s c st b).hops = s.hops :=
  rest_hops (complete_rest s c st b)
@[simp] theorem complete_halyard (c : Cmd) (st : Nat) (b : List Byte) : (complete s c st b).halyard = s.halyard :=
  rest_halyard (complete_rest s c st b)
@[simp] theorem complete_arbs (c : Cmd) (st : Nat) (b : List Byte) : (complete s c st b).arbs = s.arbs :=
  rest_arbs (complete_rest s c st b)
@[simp] theorem complete_pkgs (c : Cmd) (st : Nat) (b : List Byte) : (complete s c st b).pkgs = s.pkgs :=
  rest_pkgs (complete_rest s c st b)
@[simp] theorem complete_ctxs (c : Cmd) (st : Nat) (b : List Byte) : (complete s c st b).ctxs = s.ctxs :=
  rest_ctxs (complete_rest s c st b)
@[simp] theorem complete_frames (c : Cmd) (st : Nat) (b : List Byte) : (complete s c st b).frames = s.frames :=
  rest_frames (complete_rest s c st b)
@[simp] theorem complete_lanes (c : Cmd) (st : Nat) (b : List Byte) : (complete s c st b).lanes = s.lanes :=
  rest_lanes (complete_rest s c st b)
@[simp] theorem complete_fwq (c : Cmd) (st : Nat) (b : List Byte) : (complete s c st b).fwq = s.fwq :=
  rest_fwq (complete_rest s c st b)
@[simp] theorem complete_steer (c : Cmd) (st : Nat) (b : List Byte) : (complete s c st b).steer = s.steer :=
  rest_steer (complete_rest s c st b)
@[simp] theorem complete_decs (c : Cmd) (st : Nat) (b : List Byte) : (complete s c st b).decs = s.decs :=
  rest_decs (complete_rest s c st b)
@[simp] theorem complete_sensors (c : Cmd) (st : Nat) (b : List Byte) : (complete s c st b).sensors = s.sensors :=
  rest_sensors (complete_rest s c st b)
@[simp] theorem complete_hiw (c : Cmd) (st : Nat) (b : List Byte) : (complete s c st b).hiw = s.hiw :=
  rest_hiw (complete_rest s c st b)
@[simp] theorem complete_lastBlock (c : Cmd) (st : Nat) (b : List Byte) : (complete s c st b).lastBlock = s.lastBlock :=
  rest_lastBlock (complete_rest s c st b)
@[simp] theorem complete_tmu (c : Cmd) (st : Nat) (b : List Byte) : (complete s c st b).tmu = s.tmu :=
  rest_tmu (complete_rest s c st b)
@[simp] theorem complete_poses (c : Cmd) (st : Nat) (b : List Byte) : (complete s c st b).poses = s.poses :=
  rest_poses (complete_rest s c st b)
@[simp] theorem complete_tables (c : Cmd) (st : Nat) (b : List Byte) : (complete s c st b).tables = s.tables :=
  rest_tables (complete_rest s c st b)
@[simp] theorem complete_zck (c : Cmd) (st : Nat) (b : List Byte) : (complete s c st b).zck = s.zck :=
  rest_zck (complete_rest s c st b)
@[simp] theorem complete_pwr (c : Cmd) (st : Nat) (b : List Byte) : (complete s c st b).pwr = s.pwr :=
  rest_pwr (complete_rest s c st b)
@[simp] theorem complete_backup (c : Cmd) (st : Nat) (b : List Byte) : (complete s c st b).backup = s.backup :=
  rest_backup (complete_rest s c st b)
@[simp] theorem complete_life (c : Cmd) (st : Nat) (b : List Byte) : (complete s c st b).life = s.life :=
  rest_life (complete_rest s c st b)
@[simp] theorem complete_nv (c : Cmd) (st : Nat) (b : List Byte) : (complete s c st b).nv = s.nv :=
  rest_nv (complete_rest s c st b)
@[simp] theorem complete_sec (c : Cmd) (st : Nat) (b : List Byte) : (complete s c st b).sec = s.sec :=
  rest_sec (complete_rest s c st b)
@[simp] theorem complete_fwStat (c : Cmd) (st : Nat) (b : List Byte) : (complete s c st b).fwStat = s.fwStat :=
  rest_fwStat (complete_rest s c st b)
@[simp] theorem complete_dbg (c : Cmd) (st : Nat) (b : List Byte) : (complete s c st b).dbg = s.dbg :=
  rest_dbg (complete_rest s c st b)
@[simp] theorem complete_bmp (c : Cmd) (st : Nat) (b : List Byte) : (complete s c st b).bmp = s.bmp :=
  rest_bmp (complete_rest s c st b)

/-! ### completeSlot -/

@[simp] theorem completeSlot_pending (k st : Nat) (b : List Byte) : (completeSlot s k st b).pending = s.pending :=
  rest_pending (completeSlot_rest s k st b)
@[simp] theorem completeSlot_variant (k st : Nat) (b : List Byte) : (completeSlot s k st b).variant = s.variant :=
  rest_variant (completeSlot_rest s k st b)
@[simp] theorem completeSlot_raw (k st : Nat) (b : List Byte) : (completeSlot s k st b).raw = s.raw :=
  rest_raw (completeSlot_rest s k st b)
@[simp] theorem completeSlot_boot (k st : Nat) (b : List Byte) : (completeSlot s k st b).boot = s.boot :=
  rest_boot (completeSlot_rest s k st b)
@[simp] theorem completeSlot_cfg (k st : Nat) (b : List Byte) : (completeSlot s k st b).cfg = s.cfg :=
  rest_cfg (completeSlot_rest s k st b)
@[simp] theorem completeSlot_cnt (k st : Nat) (b : List Byte) : (completeSlot s k st b).cnt = s.cnt :=
  rest_cnt (completeSlot_rest s k st b)
@[simp] theorem completeSlot_sub (k st : Nat) (b : List Byte) : (completeSlot s k st b).sub = s.sub :=
  rest_sub (completeSlot_rest s k st b)
@[simp] theorem completeSlot_txn (k st : Nat) (b : List Byte) : (completeSlot s k st b).txn = s.txn :=
  rest_txn (completeSlot_rest s k st b)
@[simp] theorem completeSlot_dies (k st : Nat) (b : List Byte) : (completeSlot s k st b).dies = s.dies :=
  rest_dies (completeSlot_rest s k st b)
@[simp] theorem completeSlot_hops (k st : Nat) (b : List Byte) : (completeSlot s k st b).hops = s.hops :=
  rest_hops (completeSlot_rest s k st b)
@[simp] theorem completeSlot_halyard (k st : Nat) (b : List Byte) : (completeSlot s k st b).halyard = s.halyard :=
  rest_halyard (completeSlot_rest s k st b)
@[simp] theorem completeSlot_arbs (k st : Nat) (b : List Byte) : (completeSlot s k st b).arbs = s.arbs :=
  rest_arbs (completeSlot_rest s k st b)
@[simp] theorem completeSlot_pkgs (k st : Nat) (b : List Byte) : (completeSlot s k st b).pkgs = s.pkgs :=
  rest_pkgs (completeSlot_rest s k st b)
@[simp] theorem completeSlot_ctxs (k st : Nat) (b : List Byte) : (completeSlot s k st b).ctxs = s.ctxs :=
  rest_ctxs (completeSlot_rest s k st b)
@[simp] theorem completeSlot_frames (k st : Nat) (b : List Byte) : (completeSlot s k st b).frames = s.frames :=
  rest_frames (completeSlot_rest s k st b)
@[simp] theorem completeSlot_lanes (k st : Nat) (b : List Byte) : (completeSlot s k st b).lanes = s.lanes :=
  rest_lanes (completeSlot_rest s k st b)
@[simp] theorem completeSlot_fwq (k st : Nat) (b : List Byte) : (completeSlot s k st b).fwq = s.fwq :=
  rest_fwq (completeSlot_rest s k st b)
@[simp] theorem completeSlot_steer (k st : Nat) (b : List Byte) : (completeSlot s k st b).steer = s.steer :=
  rest_steer (completeSlot_rest s k st b)
@[simp] theorem completeSlot_decs (k st : Nat) (b : List Byte) : (completeSlot s k st b).decs = s.decs :=
  rest_decs (completeSlot_rest s k st b)
@[simp] theorem completeSlot_sensors (k st : Nat) (b : List Byte) : (completeSlot s k st b).sensors = s.sensors :=
  rest_sensors (completeSlot_rest s k st b)
@[simp] theorem completeSlot_hiw (k st : Nat) (b : List Byte) : (completeSlot s k st b).hiw = s.hiw :=
  rest_hiw (completeSlot_rest s k st b)
@[simp] theorem completeSlot_lastBlock (k st : Nat) (b : List Byte) : (completeSlot s k st b).lastBlock = s.lastBlock :=
  rest_lastBlock (completeSlot_rest s k st b)
@[simp] theorem completeSlot_tmu (k st : Nat) (b : List Byte) : (completeSlot s k st b).tmu = s.tmu :=
  rest_tmu (completeSlot_rest s k st b)
@[simp] theorem completeSlot_poses (k st : Nat) (b : List Byte) : (completeSlot s k st b).poses = s.poses :=
  rest_poses (completeSlot_rest s k st b)
@[simp] theorem completeSlot_tables (k st : Nat) (b : List Byte) : (completeSlot s k st b).tables = s.tables :=
  rest_tables (completeSlot_rest s k st b)
@[simp] theorem completeSlot_zck (k st : Nat) (b : List Byte) : (completeSlot s k st b).zck = s.zck :=
  rest_zck (completeSlot_rest s k st b)
@[simp] theorem completeSlot_pwr (k st : Nat) (b : List Byte) : (completeSlot s k st b).pwr = s.pwr :=
  rest_pwr (completeSlot_rest s k st b)
@[simp] theorem completeSlot_backup (k st : Nat) (b : List Byte) : (completeSlot s k st b).backup = s.backup :=
  rest_backup (completeSlot_rest s k st b)
@[simp] theorem completeSlot_life (k st : Nat) (b : List Byte) : (completeSlot s k st b).life = s.life :=
  rest_life (completeSlot_rest s k st b)
@[simp] theorem completeSlot_nv (k st : Nat) (b : List Byte) : (completeSlot s k st b).nv = s.nv :=
  rest_nv (completeSlot_rest s k st b)
@[simp] theorem completeSlot_sec (k st : Nat) (b : List Byte) : (completeSlot s k st b).sec = s.sec :=
  rest_sec (completeSlot_rest s k st b)
@[simp] theorem completeSlot_fwStat (k st : Nat) (b : List Byte) : (completeSlot s k st b).fwStat = s.fwStat :=
  rest_fwStat (completeSlot_rest s k st b)
@[simp] theorem completeSlot_dbg (k st : Nat) (b : List Byte) : (completeSlot s k st b).dbg = s.dbg :=
  rest_dbg (completeSlot_rest s k st b)
@[simp] theorem completeSlot_bmp (k st : Nat) (b : List Byte) : (completeSlot s k st b).bmp = s.bmp :=
  rest_bmp (completeSlot_rest s k st b)

end Sys2Proof.Machine
end

