-- ==== Sys2Proof/Laws/Completion.lean ====
section
/-!
SUPPORT. What a pennant leaves in the ring and what the completion of a command does: the lemmas to cite instead of
unfolding `complete` and `withCmd`.
-/
namespace Sys2Proof.Machine

variable {s : State}

/-! ## Channels -/

theorem updAt_getD_same {α : Type} (l : List α) (i : Nat) (f : α → α) (d : α) (h : i < l.length) :
    (updAt l i f).getD i d = f (l.getD i d) := by
  induction l generalizing i with
  | nil => exact absurd h (Nat.not_lt_zero _)
  | cons a l ih =>
    cases i with
    | zero => simp [updAt]
    | succ i => simpa [updAt] using ih i (Nat.lt_of_succ_lt_succ h)

theorem updAt_getD_other {α : Type} (l : List α) (i j : Nat) (f : α → α) (d : α) (h : j ≠ i) :
    (updAt l i f).getD j d = l.getD j d := by
  induction l generalizing i j with
  | nil => rfl
  | cons a l ih =>
    cases i with
    | zero =>
      cases j with
      | zero => exact absurd rfl h
      | succ j => simp [updAt]
    | succ i =>
      cases j with
      | zero => simp [updAt]
      | succ j => simpa [updAt] using ih i j (fun e => h (congrArg Nat.succ e))

theorem chanOf_modChan (ch : Nat) (f : Chan → Chan) (h : ch < s.chans.length) :
    chanOf (modChan s ch f) ch = f (chanOf s ch) := updAt_getD_same _ _ _ _ h

theorem chanOf_modChan_other {ch k : Nat} (f : Chan → Chan) (h : k ≠ ch) :
    chanOf (modChan s ch f) k = chanOf s k := updAt_getD_other _ _ _ _ _ h

@[simp] theorem chanOf_hintUpdate (k : Nat) : chanOf (hintUpdate s) k = chanOf s k := rfl

@[simp] theorem modChan_count (ch : Nat) (f : Chan → Chan) : (modChan s ch f).chans.length = s.chans.length :=
  updAt_length _ _ _

theorem Inv.chanCount (h : Inv s) : s.chans.length = 2 := h.1

theorem Inv.chanOk (h : Inv s) {ch : Nat} (hc : ch < 2) : ChanOk (chanOf s ch) := by
  have h1 : ch < s.chans.length := h.1 ▸ hc
  have h2 : chanOf s ch = s.chans[ch] := by simp [chanOf, List.getD_eq_getElem?_getD, h1]
  rw [h2]
  exact h.2.1 _ (List.getElem_mem h1)

theorem Inv.good (h : Inv s) : Good s s := ⟨rfl, rfl, Grows.refl _, h⟩

theorem Good.inv {s0 : State} (h : Good s0 s) : Inv s := h.2.2.2

/-! ## Pennants -/

@[simp] theorem leBytes_length (n v : Nat) : (leBytes n v).length = n := by
  induction n generalizing v with
  | zero => rfl
  | succ n ih => simp [leBytes, ih]

theorem padTo_exact {n : Nat} {l : List Byte} (h : l.length = n) : padTo n l = l := by
  simp [padTo, ← h]

@[simp] theorem padTo_length (n : Nat) (l : List Byte) : (padTo n l).length = n := by
  simp [padTo]; omega

theorem pennantBytes_length (p time : Nat) (x : Pennant) : (pennantBytes p time x).length = 32 := by
  simp [pennantBytes]

/-- The header of a pennant: its bytes 0 to 11 (R84). -/
theorem pennantBytes_take (p time : Nat) (x : Pennant) :
    (pennantBytes p time x).take 12 =
      leBytes 1 x.type ++ leBytes 1 (p / 8192 % 256) ++ leBytes 2 x.status ++ leBytes 2 x.source ++ leBytes 2 x.whr ++
        leBytes 4 x.ident := by
  rw [pennantBytes, List.append_assoc, List.take_left' (by simp)]

/-- The body of a pennant: its bytes 16 to 31 (R84). -/
theorem pennantBytes_drop (p time : Nat) (x : Pennant) : (pennantBytes p time x).drop 16 = padTo 16 x.body := by
  rw [pennantBytes, List.drop_left' (by simp)]

/-- A written pennant stands at entry P, and P advances (R84). -/
theorem writePennant_entry {ch : Nat} (x : Pennant) (h : Inv s) (hc : ch < 2) :
    (chanOf (writePennant s ch x) ch).prod = ((chanOf s ch).prod + 1) % 2 ^ 32 ∧
      ringEntry (writePennant s ch x) ch (chanOf s ch).prod = pennantBytes (chanOf s ch).prod (now32 s) x := by
  have hl : ch < s.chans.length := h.1 ▸ hc
  have hw := (h.chanOk hc).1
  have e := pennantBytes_length (chanOf s ch).prod (now32 s) x
  have a : (0x300000 + (chanOf s ch).prod % 8192 * 32) / 32 * 32 = 0x300000 + (chanOf s ch).prod % 8192 * 32 := by omega
  constructor
  · rw [writePennant]
    simp only [chanOf_hintUpdate, chanOf_modChan _ _ hl, devWriteUnit]
  · rw [ringEntry, writePennant]
    simp only [chanOf_hintUpdate, chanOf_modChan _ _ hl, devWriteUnit, padTo_exact e, a]
    have h1 := memRead_memWrite (0x300000 + (chanOf s ch).prod % 8192 * 32)
      (pennantBytes (chanOf s ch).prod (now32 s) x) hw
    rwa [e] at h1

theorem writePennant_inflight {ch : Nat} (x : Pennant) (hc : ch < s.chans.length) :
    (chanOf (writePennant s ch x) ch).inflight = (chanOf s ch).inflight := by
  rw [writePennant]
  simp only [chanOf_hintUpdate, chanOf_modChan _ _ hc, devWriteUnit]

/-! ## Completions -/

/-- What completing a command does (R75, R84): it leaves the commands in flight and its pennant is the channel's last
one, with its body; nothing but the host's side changes. -/
theorem complete_spec (c : Cmd) (st : Nat) (body : List Byte) (h : Inv s) (hc : c.slot < 16384)
    (hb : body.length ≤ 16) :
    Completed (complete s c st body) c st ∧ LastBody (complete s c st body) c body ∧
      restOf (complete s c st body) = restOf s := by
  have hch : c.slot / 8192 < 2 := by omega
  have hg : Good s s := h.good
  let u := modChan (flushMarker (freeBytes s (16 - body.length)).2 (c.slot / 8192)) (c.slot / 8192)
    (fun k => { k with inflight := k.inflight.filter (fun x => x.slot != c.slot) })
  have hu : Inv u := by
    have : Good s u := by simp (maxDischargeDepth := 99) [u, hg]
    exact this.inv
  let x : Pennant := ⟨1, st, c.slot, 0, c.tag, body ++ (freeBytes s (16 - body.length)).1⟩
  have hx : complete s c st body = writePennant u (c.slot / 8192) x := rfl
  obtain ⟨h1, h2⟩ := writePennant_entry (ch := c.slot / 8192) x hu hch
  have hfl : c.slot / 8192 < (flushMarker (freeBytes s (16 - body.length)).2 (c.slot / 8192)).chans.length := by
    have : Good s (flushMarker (freeBytes s (16 - body.length)).2 (c.slot / 8192)) := by
      simp (maxDischargeDepth := 99) [hg]
    rw [this.inv.1]; exact hch
  have h3 : (chanOf (writePennant u (c.slot / 8192) x) (c.slot / 8192)).inflight.find? (fun y => y.slot == c.slot) =
      none := by
    rw [writePennant_inflight x (hu.1 ▸ hch), chanOf_modChan _ _ hfl]
    simp [List.find?_eq_none]
  have h4 : (x.body).length = 16 := by simp [x, freeBytes]; omega
  refine ⟨⟨?_, (chanOf u (c.slot / 8192)).prod, ?_, ?_⟩, ⟨(chanOf u (c.slot / 8192)).prod, ?_, ?_⟩, complete_rest _ _ _ _⟩
  · rw [hx]; exact h3
  · rw [hx, h1]
  · rw [hx, h2, pennantBytes_take]
  · rw [hx, h1]
  · rw [hx, h2, pennantBytes_drop, padTo_exact h4, List.take_left]

/-! ## What a pennant leaves alone -/

theorem RingOnly.refl (s : State) (ch : Nat) : RingOnly s s ch := ⟨rfl, fun _ _ => rfl, rfl, fun _ _ => rfl⟩

theorem RingOnly.trans {s t u : State} {ch : Nat} (h : RingOnly s t ch) (g : RingOnly t u ch) : RingOnly s u ch :=
  ⟨g.1.trans h.1, fun k hk => (g.2.1 k hk).trans (h.2.1 k hk), g.2.2.1.trans h.2.2.1,
    fun a ha => (g.2.2.2 a ha).trans (h.2.2.2 a ha)⟩

/-- An update of a channel that leaves its memory and all else but its ring and its commands in flight alone. -/
theorem modChan_ringOnly {ch : Nat} (f : Chan → Chan) (hf : ∀ c, (f c).mem = c.mem) (hq : ∀ c, quietOf (f c) = quietOf c)
    (hc : ch < s.chans.length) : RingOnly s (modChan s ch f) ch :=
  ⟨rfl, fun _ hk => chanOf_modChan_other f hk, by rw [chanOf_modChan ch f hc, hq],
    fun a _ => by rw [chanOf_modChan ch f hc, hf]⟩

theorem writePennant_ringOnly {ch : Nat} (x : Pennant) (h : Inv s) (hc : ch < 2) :
    RingOnly s (writePennant s ch x) ch := by
  have hl : ch < s.chans.length := h.1 ▸ hc
  have e := pennantBytes_length (chanOf s ch).prod (now32 s) x
  refine ⟨rfl, fun k hk => ?_, ?_, fun a ha => ?_⟩
  · rw [writePennant, chanOf_hintUpdate]
    exact chanOf_modChan_other _ hk
  · rw [writePennant, chanOf_hintUpdate, chanOf_modChan _ _ hl]
    rfl
  · rw [writePennant]
    simp only [chanOf_hintUpdate, chanOf_modChan _ _ hl, devWriteUnit, padTo_exact e]
    rw [memGet_memWrite _ _ _ (h.chanOk hc).1, if_neg (by rw [e]; omega)]

theorem flushMarker_ringOnly {ch : Nat} (h : Inv s) (hc : ch < 2) : RingOnly s (flushMarker s ch) ch := by
  unfold flushMarker
  split
  · have h1 : Inv (writePennant s ch ⟨4, 0, 0, 0, (chanOf s ch).lostSince, []⟩) :=
      (writePennant_good _ _ _ h.good).inv
    exact (writePennant_ringOnly _ h hc).trans (modChan_ringOnly _ (fun _ => rfl) (fun _ => rfl) (h1.1 ▸ hc))
  · exact RingOnly.refl _ _

/-- Completing a command touches its channel's ring and nothing else of the host's side. -/
theorem complete_ringOnly (c : Cmd) (st : Nat) (body : List Byte) (h : Inv s) (hc : c.slot < 16384) :
    RingOnly s (complete s c st body) (c.slot / 8192) := by
  have hch : c.slot / 8192 < 2 := by omega
  have h1 : Inv (freeBytes s (16 - body.length)).2 := h
  have h2 : Inv (flushMarker (freeBytes s (16 - body.length)).2 (c.slot / 8192)) := (flushMarker_good _ _ h1.good).inv
  have h3 := modChan_ringOnly (s := flushMarker (freeBytes s (16 - body.length)).2 (c.slot / 8192))
    (fun k : Chan => { k with inflight := k.inflight.filter (fun x => x.slot != c.slot) }) (fun _ => rfl) (fun _ => rfl)
    (h2.1 ▸ hch)
  have h4 : Inv (modChan (flushMarker (freeBytes s (16 - body.length)).2 (c.slot / 8192)) (c.slot / 8192)
      (fun k : Chan => { k with inflight := k.inflight.filter (fun x => x.slot != c.slot) })) := by
    have : Good s _ := good_modChan (s0 := s) (s := flushMarker (freeBytes s (16 - body.length)).2 (c.slot / 8192))
      (c.slot / 8192) (fun k : Chan => { k with inflight := k.inflight.filter (fun x => x.slot != c.slot) })
      (fun x => by simp) (by simp (maxDischargeDepth := 99) [h.good])
    exact this.inv
  have h5 : RingOnly s (freeBytes s (16 - body.length)).2 (c.slot / 8192) := ⟨rfl, fun _ _ => rfl, rfl, fun _ _ => rfl⟩
  exact ((h5.trans (flushMarker_ringOnly h1 hch)).trans h3).trans (writePennant_ringOnly _ h4 hch)

theorem flushMarker_inflight {ch : Nat} (h : Inv s) (hc : ch < 2) :
    (chanOf (flushMarker s ch) ch).inflight = (chanOf s ch).inflight := by
  unfold flushMarker
  split
  · have h1 : Inv (writePennant s ch ⟨4, 0, 0, 0, (chanOf s ch).lostSince, []⟩) :=
      (writePennant_good _ _ _ h.good).inv
    rw [chanOf_modChan _ _ (h1.1 ▸ hc)]
    exact writePennant_inflight _ (h.1 ▸ hc)
  · rfl

/-- Completing a command takes it alone out of its channel's commands in flight. -/
theorem complete_leftFlight (c : Cmd) (st : Nat) (body : List Byte) (h : Inv s) (hc : c.slot < 16384) :
    LeftFlight s (complete s c st body) c := by
  have hch : c.slot / 8192 < 2 := by omega
  have h1 : Inv (freeBytes s (16 - body.length)).2 := h
  have h2 : Inv (flushMarker (freeBytes s (16 - body.length)).2 (c.slot / 8192)) := (flushMarker_good _ _ h1.good).inv
  have h3 := chanOf_modChan (s := flushMarker (freeBytes s (16 - body.length)).2 (c.slot / 8192)) (c.slot / 8192)
    (fun k : Chan => { k with inflight := k.inflight.filter (fun x => x.slot != c.slot) }) (h2.1 ▸ hch)
  have h4 := writePennant_inflight
    (s := modChan (flushMarker (freeBytes s (16 - body.length)).2 (c.slot / 8192)) (c.slot / 8192)
      (fun k : Chan => { k with inflight := k.inflight.filter (fun x => x.slot != c.slot) }))
    (ch := c.slot / 8192) ⟨1, st, c.slot, 0, c.tag, body ++ (freeBytes s (16 - body.length)).1⟩
    (by rw [modChan_count, h2.1]; exact hch)
  refine h4.trans ?_
  rw [h3]
  dsimp only
  rw [flushMarker_inflight h1 hch]
  rfl

theorem cmdOf_mem {slot : Nat} {c : Cmd} (h : cmdOf s slot = some c) : c.slot = slot := by
  simpa using List.find?_some h

theorem startable_cmd {slot code : Nat} {c : Cmd} (h : startable s slot code = some c) :
    cmdOf s slot = some c := by
  unfold startable at h
  dsimp only at h
  split at h
  · cases h
  · rename_i c' hc
    split at h
    · cases h; exact hc
    · cases h

theorem MayStart.slot {slot code : Nat} {c : Cmd} (h : MayStart s slot code c) : c.slot = slot :=
  cmdOf_mem (startable_cmd h.2.2)

/-- Starting a command that completes at once (R75, R80, R84). -/
theorem withCmd_done {slot code : Nat} {c : Cmd} {f : Cmd → State → State × CmdRes} {t : State} {st : Nat}
    {body : List Byte} (h : MayStart s slot code c) (hf : f c (markStarted s slot) = (t, .done st body))
    (ht : Inv t) (hb : body.length ≤ 16) :
    Completed (withCmd code slot s f) c st ∧ LastBody (withCmd code slot s f) c body ∧
      restOf (withCmd code slot s f) = restOf t ∧ RingOnly t (withCmd code slot s f) (slot / 8192) ∧
      LeftFlight t (withCmd code slot s f) c := by
  have e : withCmd code slot s f = complete t c st body := by
    simp only [withCmd, h.2.2, hf]
  have hs : c.slot < 16384 := h.slot ▸ h.2.1
  have h1 := complete_spec c st body ht hs hb
  rw [e]
  exact ⟨h1.1, h1.2.1, h1.2.2, h.slot ▸ complete_ringOnly c st body ht hs, complete_leftFlight c st body ht hs⟩

/-- Starting a command that stays in flight. -/
theorem withCmd_stay {slot code : Nat} {c : Cmd} {f : Cmd → State → State × CmdRes} {t : State}
    (h : MayStart s slot code c) (hf : f c (markStarted s slot) = (t, .stay)) : withCmd code slot s f = t := by
  simp only [withCmd, h.2.2, hf]

theorem MayStart.inv {slot code : Nat} {c : Cmd} (h : MayStart s slot code c) : Inv (markStarted s slot) :=
  (markStarted_good s slot h.1.good).inv

theorem MayStart.ringOnly {slot code : Nat} {c : Cmd} (h : MayStart s slot code c) :
    RingOnly s (markStarted s slot) (slot / 8192) := by
  have := h.2.1
  exact modChan_ringOnly _ (fun _ => rfl) (fun _ => rfl) (h.1.1 ▸ (by omega))

/-- A command whose effect makes `u` of the state, and then completes. -/
theorem withCmd_over {slot code : Nat} {c : Cmd} {f : Cmd → State → State × CmdRes} {t u : State} {st : Nat}
    {body : List Byte} (h : MayStart s slot code c) (hf : f c (markStarted s slot) = (t, .done st body))
    (ht : Inv t) (hb : body.length ≤ 16) (hr : restOf t = restOf u) (ho : RingOnly u t (slot / 8192))
    (hl : (chanOf t (slot / 8192)).inflight = (chanOf u (slot / 8192)).inflight) :
    CompletedOver u (withCmd code slot s f) c st body := by
  obtain ⟨h1, h2, h3, h4, h5⟩ := withCmd_done h hf ht hb
  refine ⟨h1, h2, h3.trans hr, h.slot.symm ▸ ho.trans h4, h5.trans ?_⟩
  rw [h.slot, hl]

theorem writePennant_log (v : State) (ch : Nat) (p : Pennant) : (writePennant v ch p).log = v.log := id rfl

theorem ite_log {c : Prop} [Decidable c] {a b v : State} (ha : a.log = v.log) (hb : b.log = v.log) :
    (if c then a else b).log = v.log := by
  split
  · exact ha
  · exact hb

theorem flushMarker_log (v : State) (ch : Nat) : (flushMarker v ch).log = v.log :=
  ite_log ((modChan_log _ _ _).trans (writePennant_log v ch _)) rfl

/-- A pennant leaves the event log alone. -/
theorem looseP_log (v : State) (ch : Nat) (p : Pennant) : (looseP v ch p).log = v.log :=
  ite_log ((writePennant_log _ ch p).trans (flushMarker_log v ch)) ((modChan_log _ _ _).trans (flushMarker_log v ch))

theorem ite_recs {c : Prop} [Decidable c] {a b v : State} (ha : a.log.recs = v.log.recs)
    (hb : b.log.recs = v.log.recs) : (if c then a else b).log.recs = v.log.recs := by
  split
  · exact ha
  · exact hb

/-- An event's pennant leaves the records of the event log alone. -/
theorem ringEvent_recs (u : State) (x : Ev) : (ringEvent u x).log.recs = u.log.recs := by
  have h : (if x.limited then { u with log := { u.log with ring := mapPut u.log.ring x.key u.raw } } else u).log.recs =
      u.log.recs := ite_recs rfl rfl
  apply ite_recs rfl
  dsimp only
  generalize (if x.limited then { u with log := { u.log with ring := mapPut u.log.ring x.key u.raw } } else u) = v at h
  cases eventChan v x with
  | some ch => exact (congrArg EventLog.recs (looseP_log v ch _)).trans h
  | none => exact ite_recs ((congrArg EventLog.recs (modChan_log _ _ _)).trans h) h

theorem raise_one (e : Ev) : raise s [e] = raiseOne s e := rfl

theorem logEvent_recs (e : Ev) : ∃ r, (logEvent s e).log.recs = keepLast 8192 (s.log.recs ++ [r]) ∧ r.code = e.code ∧
    r.whr = e.whr := by
  unfold logEvent
  dsimp only
  generalize padTo 16 e.detail = d
  generalize (8192 : Nat) = n
  exact ⟨_, rfl, rfl, rfl⟩

/-- Raising one event logs one record (R535). -/
theorem raise_logged (e : Ev) : Logged s (raise s [e]) e.code e.whr := by
  rw [raise_one]
  unfold raiseOne Logged
  dsimp only
  rw [ringEvent_recs]
  generalize e.detail ++ (freeBytes s (16 - e.detail.length)).1 = d
  obtain ⟨r, h1, h2, h3⟩ := logEvent_recs (s := (freeBytes s (16 - e.detail.length)).2) ⟨e.code, e.die, e.loc, d, e.limited⟩
  exact ⟨r, h1, h2, h3⟩

theorem Logged.of_log {u t : State} {code whr : Nat} (h : Logged u t code whr) (e : u.log = s.log) :
    Logged s t code whr := by
  unfold Logged at *
  rw [← e]
  exact h

/-- The same for an event given by its code and place. -/
theorem raise_logs {u : State} (e : Ev) {code whr : Nat} (hl : u.log = s.log) (hc : e.code = code) (hw : e.whr = whr) :
    Logged s (raise u [e]) code whr := hc ▸ hw ▸ (raise_logged e).of_log hl

end Sys2Proof.Machine
end

