-- ==== Sys2Proof/Laws/Events.lean ====
section
/-!
SUPPORT. What raising events leaves alone: pennants touch the rings only.
-/
namespace Sys2Proof.Machine

variable {s : State}

theorem PennantsOnly.refl (s : State) : PennantsOnly s s := fun _ => ⟨rfl, fun _ _ => rfl⟩

theorem PennantsOnly.trans {s t u : State} (h : PennantsOnly s t) (g : PennantsOnly t u) : PennantsOnly s u :=
  fun k => ⟨(g k).1.trans (h k).1, fun a ha => ((g k).2 a ha).trans ((h k).2 a ha)⟩

theorem PennantsOnly.ite {c : Prop} [Decidable c] {s t u : State} (h : c → PennantsOnly s t)
    (g : ¬ c → PennantsOnly s u) : PennantsOnly s (if c then t else u) := by
  split
  · exact h ‹_›
  · exact g ‹_›

theorem updAt_out {α : Type} (f : α → α) : ∀ (l : List α) (i : Nat), l.length ≤ i → updAt l i f = l := by
  intro l
  induction l with
  | nil => intro i _; rfl
  | cons a l ih =>
    intro i h
    cases i with
    | zero => exact absurd h (Nat.not_succ_le_zero _)
    | succ i => exact congrArg (a :: ·) (ih i (Nat.le_of_succ_le_succ h))

/-- An update of a channel that changes what pennants change, and no byte outside the ring. -/
theorem modChan_pennants (ch : Nat) (f : Chan → Chan) (hf : ∀ c, portOf (f c) = portOf c)
    (hm : ch < 2 → ∀ a, a < 0x300000 ∨ 0x340000 ≤ a →
      memGet (f (chanOf s ch)).mem a = memGet (chanOf s ch).mem a) (hs : s.chans.length = 2) :
    PennantsOnly s (modChan s ch f) := by
  intro k
  by_cases hl : ch < 2
  · by_cases hk : k = ch
    · subst hk
      rw [chanOf_modChan _ _ (hs ▸ hl)]
      exact ⟨hf _, hm hl⟩
    · rw [chanOf_modChan_other _ hk]
      exact ⟨rfl, fun _ _ => rfl⟩
  · have : modChan s ch f = s := by
      unfold modChan
      rw [updAt_out f s.chans ch (by omega)]
    rw [this]
    exact ⟨rfl, fun _ _ => rfl⟩

theorem writePennant_pennants (ch : Nat) (x : Pennant) (h : Inv s) : PennantsOnly s (writePennant s ch x) := by
  intro k
  rw [writePennant, chanOf_hintUpdate]
  refine modChan_pennants ch _ (fun c => ?_) (fun hl a ha => ?_) h.1 k
  · simp only [portOf, devWriteUnit]
  have e := pennantBytes_length (chanOf s ch).prod (now32 s) x
  simp only [devWriteUnit, padTo_exact e]
  rw [memGet_memWrite _ _ _ (h.chanOk hl).1, if_neg (by rw [e]; omega)]

theorem flushMarker_pennants (ch : Nat) (h : Inv s) : PennantsOnly s (flushMarker s ch) := by
  unfold flushMarker
  refine PennantsOnly.ite (fun _ => ?_) (fun _ => PennantsOnly.refl _)
  exact (writePennant_pennants ch _ h).trans (modChan_pennants ch _ (fun _ => rfl) (fun _ _ _ => rfl)
    (writePennant_good _ _ _ h.good).inv.1)

theorem looseP_pennants (ch : Nat) (x : Pennant) (h : Inv s) : PennantsOnly s (looseP s ch x) := by
  have h1 := (flushMarker_good s ch h.good).inv
  unfold looseP
  exact PennantsOnly.ite (fun _ => (flushMarker_pennants ch h).trans (writePennant_pennants ch x h1))
    (fun _ => (flushMarker_pennants ch h).trans (modChan_pennants ch _ (fun _ => rfl) (fun _ _ _ => rfl) h1.1))

/-- The pennant of an event touches the rings only (R82, R85). -/
theorem ringEvent_pennants (e : Ev) (h : Inv s) : PennantsOnly s (ringEvent s e) := by
  unfold ringEvent
  refine PennantsOnly.ite (fun _ => PennantsOnly.refl s) (fun _ => ?_)
  dsimp only
  have h1 : PennantsOnly s
      (if e.limited then { s with log := { s.log with ring := mapPut s.log.ring e.key s.raw } } else s) :=
    PennantsOnly.ite (fun _ => PennantsOnly.refl _) (fun _ => PennantsOnly.refl _)
  have h2 : Inv (if e.limited then { s with log := { s.log with ring := mapPut s.log.ring e.key s.raw } } else s) := by
    split <;> exact h
  generalize (if e.limited then { s with log := { s.log with ring := mapPut s.log.ring e.key s.raw } } else s) = v
    at h1 h2
  cases eventChan v e with
  | some ch => exact h1.trans (looseP_pennants ch _ h2)
  | none =>
    exact PennantsOnly.ite
      (fun _ => h1.trans (modChan_pennants e.loc _ (fun _ => rfl) (fun _ _ _ => rfl) h2.1)) (fun _ => h1)

theorem raiseOne_pennants (e : Ev) (h : Inv s) : PennantsOnly s (raiseOne s e) := by
  unfold raiseOne
  dsimp only
  generalize e.detail ++ (freeBytes s (16 - e.detail.length)).1 = d
  have h1 : Inv (freeBytes s (16 - e.detail.length)).2 := h
  have h2 := (logEvent_good _ ⟨e.code, e.die, e.loc, d, e.limited⟩ h1.good).inv
  have h3 : PennantsOnly s (logEvent (freeBytes s (16 - e.detail.length)).2 ⟨e.code, e.die, e.loc, d, e.limited⟩) := by
    unfold logEvent
    exact PennantsOnly.refl s
  exact h3.trans (ringEvent_pennants _ h2)

/-- Raising events touches the rings only. -/
theorem raise_pennants (l : List Ev) (h : Inv s) : PennantsOnly s (raise s l) := by
  have : ∀ (l : List Ev) (u : State), Inv u → PennantsOnly u (l.foldl raiseOne u) := by
    intro l
    induction l with
    | nil => exact fun u _ => PennantsOnly.refl u
    | cons e l ih =>
      exact fun u hu => (raiseOne_pennants e hu).trans (ih _ (raiseOne_good _ _ hu.good).inv)
  exact this _ s h

/-- What raising one event does. -/
theorem raise_raised (e : Ev) {code whr : Nat} (h : Inv s) (hc : e.code = code) (hw : e.whr = whr) :
    Raised s (raise s [e]) code whr :=
  ⟨raise_rest _ _, raise_pennants _ h, raise_logs e rfl hc hw⟩

end Sys2Proof.Machine
end

