-- ==== Sys2Proof/Tests/Slice0.lean ====
section
/-!
SUPPORT. Checks of the model: ill-formed commands are refused, the hypotheses of every statement are met by a concrete
state and operands, and single steps give what the spec's own words and examples say.
-/
set_option Elab.async false

namespace Sys2Proof.Tests
open Sys2Proof.Machine

/-! ## Ill-formed commands -/

theorem test_wf_slot : (Instr.nop 16383).wf = true ∧ (Instr.nop 16384).wf = false := by decide
theorem test_wf_seal_unit : (Instr.sealWrite 0 (List.replicate 32 0) 0 0).wf = true ∧ (Instr.sealWrite 0 [] 0 0).wf = false := by decide
theorem test_wf_channel : (Instr.refresh ⟨1, 0⟩).wf = true ∧ (Instr.refresh ⟨2, 0⟩).wf = false := by decide
theorem test_wf_bank : (Instr.activate 0 1 15 0).wf = true ∧ (Instr.activate 0 2 0 0).wf = false ∧
    (Instr.activate 0 0 16 0).wf = false := by decide
theorem test_wf_mode_register : (Instr.modeRegisterRead ⟨0, 1⟩ 255).wf = true ∧ (Instr.modeRegisterRead ⟨0, 1⟩ 256).wf = false := by decide
theorem test_wf_subchannel : (Instr.precharge 0 1 none).wf = true ∧ (Instr.precharge 0 2 none).wf = false ∧
    (Instr.zqCalibrationStart ⟨0, 2⟩).wf = false := by decide
theorem test_wf_die : (Instr.audit 7 []).wf = true ∧ (Instr.audit 8 []).wf = false := by decide
theorem test_wf_compute_die : (Instr.leaveGrant 1).wf = true ∧ (Instr.leaveGrant 0).wf = false ∧ (Instr.leaveGrant 8).wf = false := by
  decide
theorem test_wf_frame : (Instr.exactPass 4095 4294967295).wf = true ∧ (Instr.exactPass 4096 0).wf = false ∧
    (Instr.exactPass 0 4294967296).wf = false := by decide
theorem test_wf_stall : (Instr.stallTile 279).wf = true ∧ (Instr.stallTile 280).wf = false := by decide
theorem test_wf_lane : (Instr.packetSteer 15).wf = true ∧ (Instr.packetSteer 16).wf = false := by decide
theorem test_wf_table : (Instr.flipStart 255).wf = true ∧ (Instr.flipStart 256).wf = false := by decide
theorem test_wf_cluster : (Instr.paddockEngineDone 1 4 0).wf = true ∧ (Instr.paddockEngineDone 1 5 0).wf = false := by decide
theorem test_wf_source : (Instr.gather 0 127 (.paddock 4 0) 1).wf = true ∧ (Instr.gather 0 0 (.paddock 5 0) 1).wf = false ∧
    (Instr.gather 0 128 (.paddock 4 0) 1).wf = false ∧ (Instr.gather 0 0 (.memory 8 0) 1).wf = false ∧
    (Instr.gather 0 0 (.remote 0 0 0) 1).wf = false := by decide
theorem test_wf_arbiter : (Instr.arbiterDecide (.bank 1 0 15) ⟨0, [], []⟩).wf = true ∧ (Instr.arbiterDecide (.bank 1 0 64) ⟨0, [], []⟩).wf = false ∧
    (Instr.arbiterDecide (.mem 0 4) ⟨0, [], []⟩).wf = false ∧ (Instr.arbiterDecide (.link 0 7) ⟨0, [], []⟩).wf = false ∧
    (Instr.arbiterDecide (.halyard 8) ⟨0, [], []⟩).wf = false ∧ (Instr.arbiterDecide (.halyard 492) ⟨0, [], []⟩).wf = true ∧
    (Instr.arbiterDecide (.halyard 493) ⟨0, [], []⟩).wf = false := by decide
theorem test_wf_steal_lanes : (Instr.chunkSteal 0 31 30).wf = true ∧ (Instr.chunkSteal 0 32 31).wf = false ∧
    (Instr.chunkSteal 0 31 32).wf = false := by decide
theorem test_wf_window : (Instr.hostWindowPublish 0 6 (List.replicate 32 0) 0 0).wf = true ∧
    (Instr.hostWindowPublish 0 7 (List.replicate 32 0) 0 0).wf = false := by decide
theorem test_wf_board_addresses : (Instr.setdasa 127 127).wf = true ∧ (Instr.setdasa 128 0).wf = false ∧ (Instr.entdaa 128).wf = false := by
  decide
theorem test_wf_sensor : (Instr.sensorSilenceExpiry 255).wf = true ∧ (Instr.sensorSilenceExpiry 256).wf = false := by decide
theorem test_wf_links : (Instr.flitReceived 0 6 []).wf = true ∧ (Instr.flitReceived 0 7 []).wf = false ∧
    (Instr.halyardMessage (.die 8) (.die 0) [] []).wf = false ∧ (Instr.halyardMessage (.die 0) (.warden 1 4) [] []).wf = false ∧
    (Instr.halyardMessage (.die 0) (.port 0 0) [] []).wf = false := by decide
theorem test_wf_memory_channel : (Instr.mmcRefresh 0 3 0).wf = true ∧ (Instr.mmcRefresh 0 4 0).wf = false := by decide
theorem test_wf_domain : (Instr.memoryAccess 0 0 15 0 1 none .other).wf = true ∧ (Instr.memoryAccess 0 0 16 0 1 none .other).wf = false := by
  decide
theorem test_wf_debug_register : (Instr.abstractRegisterAccess 65535 none).wf = true ∧ (Instr.abstractRegisterAccess 65536 none).wf = false := by
  decide

/-! ## A part in service -/

/-- A unit in service. -/
def upUnit : UnitSt := ⟨.ready, .ready, 0, false⟩

/-- A die in service, with its channels trained at capacity code 2. -/
def upDie (hub : Bool) : Die :=
  let d := Die.reset hub
  let e := { d with stalls := d.stalls.map (fun t : StallSt => { t with view := upUnit }) }
  let f := { e with mmc := d.mmc.map (fun m : MemChan => { m with trained := true, cap := 2 }) }
  let g := { f with paceWins := [⟨[(0, 13000), (1, 13000), (2, 13000), (3, 13000)]⟩] }
  { g with powered := true, up := true, floorKnown := true, pens := d.pens.map (fun _ => upUnit) }

/-- An LN880-8 in READY, 10,000 s after its release. -/
def live : State :=
  let boot := { Boot.reset with phase := .running, idBoot := 1, diesUp := 255 }
  let pins := { Pins.reset with resetN := true, pwrReq := true, cmpEn := true }
  let dies := upDie true :: List.replicate 7 (upDie false)
  { State.reset with raw := 10000000000000, boot := boot, pins := pins, dies := dies, sec := { Sec.reset with trng := 1 } }

def chanB (c : Chan) : Bool :=
  c.mem.wf && decide (c.prod < 2 ^ 32) && decide (c.cons < 2 ^ 32) && decide (c.unbacked < 2 ^ 32) && decide (c.roWrites < 2 ^ 32) &&
    decide (c.unsupported < 2 ^ 32) && decide (c.latencyErr < 2 ^ 32) && decide (c.sramUe < 2 ^ 32) && decide (c.refused < 2 ^ 32) &&
    decide (c.busySeals < 2 ^ 32) && decide (c.consumerInvalid < 2 ^ 32) && decide (c.lost < 2 ^ 32) && keysFrom 0 c.rows &&
    keysFrom 0 c.seqs && keysFrom 0 c.winSeq

def dieB (d : Die) : Bool :=
  d.mem.wf && d.pads.all (fun p => Memory.wf p) && d.sram.all (fun e => Memory.wf e.2) && keysFrom 0 d.units

/-- The invariant, evaluated. -/
def invB (s : State) : Bool :=
  decide (s.chans.length = 2) && s.chans.all chanB && decide (s.dies.map dieShape = dieShapes) && s.dies.all dieB &&
    s.dbg.hubMem.wf && decide (s.pwr.st ≤ 4) && decide (s.pwr.target ≤ 4) && decide (s.pwr.level ≤ 2) &&
    s.pwr.paceTo.all (fun l => decide (l ≤ 2)) && decide (s.sec.debug ≤ 2) && s.sec.chal.all (fun c => decide (c.1 ≤ 2)) &&
    decide (s.nv.ownerGen ≤ 32) && s.nv.revoked.all (fun k => decide (k < 4)) && decide (s.log.recs.length ≤ 8192)

theorem inv_of (s : State) (h : invB s = true) : Inv s := by
  simp only [invB, Bool.and_eq_true, decide_eq_true_eq, List.all_eq_true, Option.all_eq_true] at h
  obtain ⟨⟨⟨⟨⟨⟨⟨⟨⟨⟨⟨⟨⟨h1, h2⟩, h3⟩, h4⟩, h5⟩, h6⟩, h7⟩, h8⟩, h9⟩, h10⟩, h11⟩, h12⟩, h13⟩, h14⟩ := h
  refine ⟨h1, fun c hc => ?_, h3, fun d hd => ?_, h5, ⟨h6, h7, h8, fun l hl => ?_, h10, fun c hc => ?_⟩, ⟨h12, h13⟩, h14⟩
  · have := h2 c hc
    simpa [chanB, ChanOk, and_assoc] using this
  · have := h4 d hd
    simpa [dieB, DieOk, and_assoc] using this
  · exact h9 l hl
  · exact h11 c hc

theorem test_live_sound : Inv live := inv_of _ (by decide +kernel)

/-! ## Commands in flight -/

/-- Operand bytes from byte 16 on. -/
def opBytes (l : List Nat) : List Byte := padTo 224 (List.replicate 16 0 ++ l.map (BitVec.ofNat 8))

/-- A command of slot 0 with tag 7. -/
def cmd (code flags txn : Nat) (l : List Nat) : Cmd := ⟨0, code, flags, txn, 7, opBytes l, false, 0, 0, none⟩

/-- A state with the command in flight alone, over an aperture of channel 0. -/
def holding (s : State) (c : Cmd) (m : Memory) : State := { s with chans := [{ Chan.reset with mem := m, inflight := [c] }, Chan.reset] }

def mayStartB (s : State) (slot code : Nat) (c : Cmd) : Bool :=
  invB s && decide (slot < 16384) && decide (startable s slot code = some c)

theorem mayStart_of (s : State) (slot code : Nat) (c : Cmd) (h : mayStartB s slot code c = true) : MayStart s slot code c := by
  simp only [mayStartB, Bool.and_eq_true, decide_eq_true_eq] at h
  exact ⟨inv_of s h.1.1, h.1.2, h.2⟩

/-! ## Witnesses: the host port -/

/-- A channel with a row open in sub-channel 0, bank 0. -/
def rowAt (row : Nat) : State := { live with chans := [{ Chan.reset with rows := [(0, row)] }, Chan.reset] }

theorem witness_row_commands : Inv live ∧ portReady live 0 1 = true ∧ portReady live 1 1 = true ∧ burstOk 1 15 0 = true :=
  ⟨test_live_sound, by decide +kernel⟩

theorem witness_write_without_row : portReady live 0 1 = true ∧ burstOk 1 15 63 = true ∧ mapFind (chanOf live 0).rows (rowKey 1 15) = none := by
  decide +kernel

/-- The row of each region: identity page, slots, ring, window pages with the consumer position first, ingest windows, and an
offset with nothing behind it. -/
theorem witness_host_write (row : Nat) (h : row ∈ [0, 0x10, 0x30, 0x40, 0x58, 0x7FFF]) :
    Inv (rowAt row) ∧ portReady (rowAt row) 0 0 = true ∧ burstOk 0 0 0 = true ∧ mapFind (chanOf (rowAt row) 0).rows (rowKey 0 0) = some row ∧
      (chanOf (rowAt row) 0).lowLat = [] := by
  simp only [List.mem_cons, List.not_mem_nil, or_false] at h
  rcases h with rfl | rfl | rfl | rfl | rfl | rfl <;> exact ⟨inv_of _ (by decide +kernel), by decide +kernel⟩

theorem witness_host_write_regions : [0, 0x10, 0x30, 0x40, 0x58, 0x7FFF].map (fun row => regionOf (burstOff row 0 0 0)) =
    [.identity, .slots, .ring, .windows, .ingest, .unbacked] ∧ burstOff 0x40 0 0 0 = 0x400000 ∧ burstOff 0x58 0 0 0 % 0x8000 = 0 ∧
    burstOff 0x10 0 3 1 % 256 = 224 := by decide +kernel

/-- The worked example of R62: the seal word of slot 9,000 lies in the burst of row 19, bank 2, column 35, sub-channel 1. -/
theorem test_seal_burst_of_slot_9000 : burstOff 19 2 35 1 = 0x1328E0 ∧ slotOff 9000 + 224 = 0x1328E0 := by decide

/-- Which mode registers can be written is opaque (R51): of a writable one none can be shown. -/
theorem witness_interface : Inv live ∧ (∀ ch ∈ [0, 1], ∀ sub ∈ [0, 1], (chanOf live ch).trained.length = 2 ∧ portReady live ch sub = true ∧
    portLive live ch = true ∧ lowOf live ch sub = .active ∧ chanExists live ch = true ∧ (chanOf live ch).rateEvent = false) ∧ live.chans.length = 2 ∧
    cfgFld live rHptHintCfg 0 31 31 = 0 ∧ ∀ k, k < 2 → ringPending (chanOf live k) = 0 :=
  ⟨test_live_sound, by decide +kernel⟩

theorem witness_low_power (p : PortPower) (h : p = .powerDown ∨ p = .selfRefresh) :
    let s := { live with chans := [{ Chan.reset with low := [.active, p] }, Chan.reset] }
    portLive s 0 = true ∧ lowOf s 0 1 = p := by
  rcases h with rfl | rfl <;> decide +kernel

/-- HINT_N driven: one pennant pending since time 0 and hints enabled. -/
theorem witness_hint : let s := cfgPut { live with chans := [{ Chan.reset with prod := 1, penTimes := [0] }, Chan.reset] } rHptHintCfg 0 (2 ^ 31)
    s.chans.length = 2 ∧ cfgFld s rHptHintCfg 0 31 31 = 1 ∧ 0 + cfgFld s rHptHintCfg 0 11 0 * 1000 ≤ s.raw ∧ ringPending (chanOf s 0) ≠ 0 := by
  decide +kernel

theorem test_hint_driven : let s := cfgPut { live with chans := [{ Chan.reset with prod := 1, penTimes := [0] }, Chan.reset] } rHptHintCfg 0 (2 ^ 31)
    ∃ t, exec .hintHoldoffExpiry s = .next t ∧ t.pins.hint = true := ⟨_, rfl, by decide +kernel⟩

theorem test_activate_opens_row : ∃ t, exec (.activate 1 1 15 19) live = .next t ∧ mapFind (chanOf t 1).rows (rowKey 1 15) = some 19 :=
  ⟨_, rfl, by decide +kernel⟩

theorem test_mode_register_5_is_felsol : ∃ t, exec (.modeRegisterRead ⟨0, 1⟩ 5) live = .next t ∧ (chanOf t 0).mrOut = modeValue live 0 1 5 :=
  ⟨_, rfl, by decide +kernel⟩

/-! ## Witnesses: the mailbox -/

/-- An aperture whose slot 0 holds a NOP, sealed with sequence 1. -/
def slotImage (code seq : Nat) (body : List Nat) : List Byte :=
  let b := padTo 224 ((List.map (BitVec.ofNat 8) ([code % 256, code / 256] ++ body)))
  b ++ leBytes 24 0 ++ leBytes 4 (crc32 b) ++ leBytes 2 seq ++ leBytes 2 0x5EA1

def slotFilled (b : List Byte) : State :=
  { live with chans := [{ Chan.reset with rows := [(16, 0x10)], mem := memWrite [] 0x100000 (b.take 224) }, Chan.reset] }

theorem witness_seal : Inv (slotFilled (slotImage 1 1 [])) ∧ RowOpen (slotFilled (slotImage 1 1 [])) 0 (slotOff 0 + 224) ∧
    (BitVec.allOnes 32).getLsbD 31 = true := ⟨inv_of _ (by decide +kernel), ⟨by decide +kernel, by decide +kernel⟩, by decide +kernel⟩

set_option maxRecDepth 20000 in
/-- Magic absent; busy; accepted; refused for its sequence. -/
theorem witness_seal_cases :
    let s := slotFilled (slotImage 1 1 [])
    let read := fun (b : List Byte) => memRead (chanOf (storeUnit s 0 (slotOff 0 + 224) (b.drop 224) (BitVec.allOnes 32) 0) 0).mem (slotOff 0) 256
    u16 (read (slotImage 1 1 [])) 254 = 0x5EA1 ∧ u16 (read (List.replicate 256 0)) 254 ≠ 0x5EA1 ∧ slotBusy s 0 = false ∧
      slotBusy (holding live (cmd 1 0 0 []) []) 0 = true ∧
      sealStatus (storeUnit s 0 (slotOff 0 + 224) ((slotImage 1 1 []).drop 224) (BitVec.allOnes 32) 0) 0 (read (slotImage 1 1 [])) = 0 ∧
      sealStatus (storeUnit s 0 (slotOff 0 + 224) ((slotImage 1 2 []).drop 224) (BitVec.allOnes 32) 0) 0 (read (slotImage 1 2 [])) = 0x0301 := by
  decide +kernel

set_option maxRecDepth 20000 in
theorem test_seal_accepts_nop : ∃ t, exec (.sealWrite 0 ((slotImage 1 1 []).drop 224) (BitVec.allOnes 32) 0) (slotFilled (slotImage 1 1 [])) = .next t ∧
    (chanOf t 0).inflight.length = 1 ∧ expectedSeq (chanOf t 0) 0 = 2 := ⟨_, rfl, by decide +kernel⟩

theorem witness_consumer : let s := rowAt 0x40
    Inv s ∧ RowOpen s 0 0x400000 ∧ ((chanOf s 0).prod + 2 ^ 32 - 0) % 2 ^ 32 ≤ ((chanOf s 0).prod + 2 ^ 32 - (chanOf s 0).cons) % 2 ^ 32 ∧
    ¬ ((chanOf s 0).prod + 2 ^ 32 - 1) % 2 ^ 32 ≤ ((chanOf s 0).prod + 2 ^ 32 - (chanOf s 0).cons) % 2 ^ 32 :=
  ⟨inv_of _ (by decide +kernel), ⟨by decide +kernel, by decide +kernel⟩, by decide +kernel⟩

theorem live_holding (c : Cmd) : Inv (holding live c []) := by
  have h := test_live_sound
  refine ⟨rfl, ?_, h.2.2.1, h.2.2.2.1, h.2.2.2.2.1, h.2.2.2.2.2.1, h.2.2.2.2.2.2⟩
  intro k hk
  have : ChanOk Chan.reset := h.2.1 _ (by simp [live, State.reset, State.coldReset])
  simp only [holding, List.mem_cons, List.not_mem_nil, or_false] at hk
  rcases hk with rfl | rfl
  · exact this
  · exact this

/-- Every mailbox command may start from a slot that holds it. -/
theorem witness_may_start (code : Nat) (l : List Nat) : MayStart (holding live (cmd code 0 0 l) []) 0 code (cmd code 0 0 l) :=
  ⟨live_holding _, by decide, if_pos ⟨rfl, rfl, rfl, rfl, rfl, rfl, rfl, Or.inl (show bitOf 0 1 = false by decide)⟩⟩
theorem holding_sound (s : State) (c : Cmd) (h : Inv s) : Inv (holding s c []) := by
  refine ⟨rfl, ?_, h.2.2.1, h.2.2.2.1, h.2.2.2.2.1, h.2.2.2.2.2.1, h.2.2.2.2.2.2⟩
  intro k hk
  have : ChanOk Chan.reset := test_live_sound.2.1 _ (by simp [live, State.reset, State.coldReset])
  simp only [holding, List.mem_cons, List.not_mem_nil, or_false] at hk
  rcases hk with rfl | rfl
  · exact this
  · exact this

/-- A part with a transaction open under identifier 5, and one whose commit still has a block to apply. -/
def inTxn (buf : List BufEntry) : State := { live with txn := { live.txn with st := 1, id := 5, buf := buf, lastUse := 0 } }
def committing : State := { live with txn := { live.txn with st := 2, id := 5, commits := [⟨0, [], [], [(0x0D, 0), (0x05, 0)], false⟩] } }

theorem witness_txn_begin : live.txn.st = 0 ∧ (inTxn []).txn.st ≠ 0 ∧
    MayStart (holding (inTxn []) (cmd 0x0012 0 0 []) []) 0 0x0012 (cmd 0x0012 0 0 []) := ⟨by decide, by decide, mayStart_of _ _ _ _ (by decide +kernel)⟩

theorem witness_txn_abort (s : State) (h : s = inTxn [] ∨ s = committing) : let c := cmd 0x0014 1 5 []
    MayStart (holding s c []) 0 0x0014 c ∧ bitOf c.flags 0 = true ∧ s.txn.st ≠ 0 ∧ c.txn ≠ 0 ∧ s.txn.id = c.txn := by
  rcases h with rfl | rfl <;> exact ⟨mayStart_of _ _ _ _ (by decide +kernel), by decide⟩

theorem witness_txn_idle : Inv (inTxn []) ∧ (inTxn []).txn.st = 1 ∧ cfgFld (inTxn []) rMbxTxnCfg 0 15 0 ≠ 0 ∧
    (inTxn []).txn.lastUse + cfgFld (inTxn []) rMbxTxnCfg 0 15 0 * 1000000 ≤ (inTxn []).raw := ⟨inv_of _ (by decide +kernel), by decide +kernel⟩

theorem test_txn_begin_answers_1 : ∃ t, exec (.txnBegin 0) (holding live (cmd 0x0012 0 0 []) []) = .next t ∧ t.txn.st = 1 ∧ t.txn.id = 1 :=
  ⟨_, rfl, by decide +kernel⟩

/-- CFG_READ of HPT_HINT_CFG, which reads 0x1000 at reset. -/
theorem witness_cfg_read : let c := cmd 0x0010 0 0 [0x01, 0x02, 0, 0]
    let u := markStarted (holding live c []) 0
    MayStart (holding live c []) 0 0x0010 c ∧ (regOf (u16 c.bytes 16)).isSome = true ∧ indexOk u (u16 c.bytes 16) (u16 c.bytes 18) = true ∧
      readBlocked u (u16 c.bytes 16) (u16 c.bytes 18) = false ∧ (regRead u 0x0201 0).1 = 0x1000 :=
  ⟨mayStart_of _ _ _ _ (by decide +kernel), by decide +kernel⟩

/-- Operands of a CFG_WRITE: register, index, value and mask. -/
def writeOps (reg i v m : Nat) : List Nat :=
  [reg % 256, reg / 256, i % 256, i / 256, 0, 0, 0, 0] ++ (leBytes 8 v ++ leBytes 8 m).map BitVec.toNat

/-- A CFG_WRITE that covers a read-only bit of DCU_THERM is refused with CFG_READ_ONLY. -/
theorem witness_cfg_refused : let c := cmd 0x0011 0 0 (writeOps 0x010A 1 0 1)
    MayStart (holding live c []) 0 0x0011 c ∧ ∃ t, exec (.cfgWrite 0) (holding live c []) = .next t ∧ Completed t c 0x0312 :=
  ⟨mayStart_of _ _ _ _ (by decide +kernel), _, rfl, by decide +kernel, 0, by decide +kernel⟩

/-- LIVE writes: HPT_HINT_CFG, the bank arbiters' order and a leave budget. -/
theorem witness_cfg_live (reg i v m : Nat) (h : (reg, i, v, m) ∈ [(0x0201, 0, 2 ^ 31, 2 ^ 31), (rPdkArbOrder, 5, 0x000BCA9876543210, 0xFFFFFFFFFFFFF),
      (rDcuLeaveBudget, 1, 44000, 0xFFFFF)]) : let c := cmd 0x0011 0 0 (writeOps reg i v m)
    let u := markStarted (holding live c []) 0
    MayStart (holding live c []) 0 0x0011 c ∧ bitOf c.flags 0 = false ∧ u16 c.bytes 16 = reg ∧
      cfgTests u 0 reg i (u64 c.bytes 24) (u64 c.bytes 32) (stagedGet u reg (copyIdx reg i)) = 0 ∧ u64 c.bytes 32 &&& stgMask reg = 0 ∧
      u64 c.bytes 32 &&& (regSpec reg).live ≠ 0 := by
  simp only [List.mem_cons, List.not_mem_nil, or_false, Prod.mk.injEq] at h
  rcases h with ⟨rfl, rfl, rfl, rfl⟩ | ⟨rfl, rfl, rfl, rfl⟩ | ⟨rfl, rfl, rfl, rfl⟩ <;>
    exact ⟨mayStart_of _ _ _ _ (by decide +kernel), by decide +kernel⟩

/-- A part in SERVING, whose blocks run. -/
def inServing : State := { live with pwr := { live.pwr with st := 4, target := 4 } }

/-- STAGED writes: of the mailbox block, which applies at once; of a block that runs, which waits; and one whose pair check
fails (a reserved ring larger than the ring). -/
theorem witness_cfg_staged (s : State) (reg i v m : Nat) (h : (s, reg, i, v, m) ∈ [(live, 0x0300, 0, 0x10000000, 0xFFFF0000),
      (inServing, rMtuCfg, 0, 0x4007014800C03410, 0xFF), (live, 0x0300, 0, 0x20000001, 0xFFFFFFFF)]) : let c := cmd 0x0011 0 0 (writeOps reg i v m)
    let u := markStarted (holding s c []) 0
    MayStart (holding s c []) 0 0x0011 c ∧ bitOf c.flags 0 = false ∧ u16 c.bytes 16 = reg ∧
      cfgTests u 0 reg i (u64 c.bytes 24) (u64 c.bytes 32) (stagedGet u reg (copyIdx reg i)) = 0 ∧ u64 c.bytes 32 &&& stgMask reg ≠ 0 ∧
      ¬ (u64 c.bytes 32 &&& (regSpec reg).locked ≠ 0 ∧ lockedBusy u reg i = true) ∧ u64 c.bytes 32 &&& (regSpec reg).live = 0 ∧ copies u reg i ≠ [] ∧
      ∀ j ∈ copies u reg i, appliesNow u (reg / 256) (blockDie reg j) = decide (s.pwr.st ≠ 4) := by
  simp only [List.mem_cons, List.not_mem_nil, or_false, Prod.mk.injEq] at h
  rcases h with ⟨rfl, rfl, rfl, rfl, rfl⟩ | ⟨rfl, rfl, rfl, rfl, rfl⟩ | ⟨rfl, rfl, rfl, rfl, rfl⟩ <;>
    exact ⟨mayStart_of _ _ _ _ (by decide +kernel), by decide +kernel⟩

theorem witness_staged_apply : let s := { inServing with cfg := ⟨[], [(cfgKey rMtuCfg 0, cfgGet live rMtuCfg 0)], [⟨0x0D, 0, 0, rMtuCfg, 0, true, false⟩]⟩ }
    Inv s ∧ thermBlock 0x0D = false ∧ thermBlock 0x01 = true ∧ s.cfg.waits.filter (fun w => w.blk == 0x0D && w.die == 0) ≠ [] := ⟨inv_of _ (by decide +kernel), by decide +kernel⟩

/-- Buffered writes: one that covers nothing, a new entry, an entry written before, and a 257th entry. -/
theorem witness_buffered : let c := fun m => cmd 0x0011 1 5 (writeOps 0x0201 0 0 m)
    let full := (List.range 256).map (fun k => (⟨cfgKey 0x0108 k, 0, 0⟩ : BufEntry))
    let u := fun (b : List BufEntry) m => markStarted (holding (inTxn b) (c m) []) 0
    (∀ b ∈ [[], [⟨cfgKey 0x0201 0, 0, 1⟩], full], ∀ m ∈ [0, 1], mayStartB (holding (inTxn b) (c m) []) 0 0x0011 (c m) = true ∧
      cfgTests (u b m) 1 0x0201 0 0 m (overlayGet (u b m) b 0x0201 (copyIdx 0x0201 0)) = 0) ∧ copyIdx 0x0201 0 = 0 ∧
      bitOf (c 0).flags 0 = true ∧ (inTxn []).txn.st = 1 ∧ (inTxn []).txn.id = 5 ∧ full.length = 256 ∧ ∀ e ∈ full, e.key ≠ cfgKey 0x0201 0 := by
  decide +kernel

/-- Commits: of a buffer that applies at once, of one with a running block left, and of one whose pair check fails. -/
theorem witness_commit : let c := cmd 0x0013 1 5 []
    let good : List BufEntry := [⟨cfgKey 0x0201 0, 1, 1⟩]
    let bad : List BufEntry := [⟨cfgKey 0x0300 0, 0x20000001, 0xFFFFFFFF⟩]
    let u := fun (s : State) b => markStarted (holding { s with txn := (inTxn b).txn } c []) 0
    (∀ s ∈ [live, inServing], ∀ b ∈ [good, bad], mayStartB (holding { s with txn := (inTxn b).txn } c []) 0 0x0013 c = true) ∧
      let ready := u live good
      let runs := u inServing good
      commitCheck (u live bad) (spread (u live bad) bad) ≠ 0 ∧ commitCheck ready (spread ready good) = 0 ∧ (startCommit ready 0 false (spread ready good)).2.todo = [] ∧
      commitCheck runs (spread runs good) = 0 ∧ (startCommit runs 0 false (spread runs good)).2.todo ≠ [] := by decide +kernel

theorem witness_commit_apply : Inv committing ∧
    committing.txn.commits.find? (fun k => k.todo.contains (0x0D, 0)) = some ⟨0, [], [], [(0x0D, 0), (0x05, 0)], false⟩ :=
  ⟨inv_of _ (by decide +kernel), by decide +kernel⟩
/-! ## Contexts and frames to test with -/

/-- A declaration of 64 bytes: class, package 1, period and deadline, caps, die mask, domain 3, one page, host paced, share. -/
def declBytes (cls period deadline mask host share : Nat) : List Byte :=
  leBytes 1 cls ++ leBytes 1 0 ++ leBytes 2 1 ++ leBytes 4 period ++ leBytes 4 deadline ++ leBytes 4 1000 ++ leBytes 4 1000 ++
    leBytes 4 0 ++ leBytes 1 mask ++ leBytes 1 3 ++ leBytes 1 1 ++ leBytes 1 host ++ leBytes 2 share ++ leBytes 34 0

/-- A guaranteed context on die 1, host paced, 10 ms period and deadline. -/
def ctxA : Ctx := declCtx (declBytes 1 10000 10000 2 1 32) 3 0 0

/-- A package with these operators and map declarations. -/
def pkgWith (ops : List OpDecl) (maps tensors : List (List Byte)) : Pkg :=
  ⟨1, { tensors := tensors, maps := maps, weights := [], consts := [], ops := ops, sMax := 100, workBytes := 0, mergeEntries := 0, leaveStall := 0,
        leaveStage := 0 }, 64, List.replicate 64 0⟩

/-- An operator with a descriptor and no cost. -/
def opOf (code : Nat) (b : List Nat) (leave : Bool) : OpDecl :=
  ⟨padTo 64 ((code :: b).map (BitVec.ofNat 8)), ⟨0, 1, leave, 500⟩, 0⟩

/-- A train under way, and its first frame in a phase. -/
def onTrain (c : Ctx) : Ctx := { c with st := 2, stores := true, train := some ⟨0, 0, 8, 0, false⟩ }
def frameIn (c : Ctx) (phase : FPhase) : Frame := { newFrame live c.id 0 8 0 0 with phase := phase }

/-- A part with a package, one context and one frame of it. -/
def withFrame (p : Pkg) (c : Ctx) (f : Frame) : State := { live with pkgs := [p], ctxs := [onTrain c], frames := [f] }
def noOps : Pkg := pkgWith [] [] []

theorem framed_sound (p : Pkg) (c : Ctx) (f : Frame) : Inv (withFrame p c f) := test_live_sound

/-! ## Witnesses: contexts and packages -/

/-- CTX_CREATE: reserved pages, a bad declaration, no such package, and a declaration that passes. -/
theorem witness_ctx_create : let c := cmd 0x0020 0 0 [1, 0, 0, 0, 64, 0, 0, 0]
    let at_ := fun (b : List Byte) => { holding { live with pkgs := [noOps] } c (memWrite [] 0x401000 b) with variant := 8 }
    (∀ b ∈ [declBytes 0 10000 0 2 1 0, declBytes 9 0 0 0 0 0], mayStartB (at_ b) 0 0x0020 c = true) ∧
      declOk (markStarted (at_ (declBytes 9 0 0 0 0 0)) 0) (staged (markStarted (at_ (declBytes 9 0 0 0 0 0)) 0) 0 1 64) = false ∧
      declOk (markStarted (at_ (declBytes 0 10000 0 2 1 0)) 0) (staged (markStarted (at_ (declBytes 0 10000 0 2 1 0)) 0) 0 1 64) = true ∧
      (pkgOf (at_ (declBytes 0 10000 0 2 1 0)) 1).isSome = true ∧ (pkgOf live 1).isNone = true ∧ freeCtx live = some 0 ∧
      ∃ t, exec (.ctxCreate 0) (at_ (declBytes 0 10000 0 2 1 0)) = .next t ∧ t.ctxs.length = 1 :=
  ⟨by decide +kernel, by decide +kernel, by decide +kernel, by decide +kernel, by decide +kernel, by decide +kernel, _, rfl, by decide +kernel⟩

/-- A context with an open and a pending frame, whose destruction starts. -/
theorem witness_destroy : let c := cmd 0x0021 0 0 [3, 0]
    let s := holding { withFrame noOps ctxA (frameIn ctxA .opened) with frames := [frameIn ctxA .opened, { frameIn ctxA .pending with num := 7 }] } c []
    mayStartB s 0 0x0021 c = true ∧ ctxOf s (u16 c.bytes 16) = some (onTrain ctxA) ∧ (onTrain ctxA).destroy = none ∧
      openFrame s 3 = some (frameIn ctxA .opened) ∧ (∀ g ∈ s.frames, g.ctx = 3 → g.phase = .pending → g.num ≠ 8) ∧
      ctxOf (holding live c []) (u16 c.bytes 16) = none := by decide +kernel

/-- Commands that name context 3: without and with a destroy under way, and with a latched zone. -/
theorem witness_ctx_commands : let c := fun code => cmd code 0 0 [3, 0]
    let s := fun (k : Ctx) code => holding { live with ctxs := [k] } (c code) []
    let latched := { ctxA with zst := [⟨7, true, true, true, false⟩] }
    (∀ code ∈ [0x0021, 0x0022, 0x0025], ∀ k ∈ [ctxA, { ctxA with destroy := some 9 }, latched],
      mayStartB (s k code) 0 code (c code) = true ∧ ctxOf (s k code) (u16 (c code).bytes 16) = some k) ∧
      latched.st = 1 ∧ anyLatched latched = true ∧ ({ ctxA with destroy := some 9 } : Ctx).destroy.isSome = true := by decide +kernel

theorem witness_destroy_complete : let s := { live with ctxs := [{ ctxA with destroy := some 9 }] }
    Inv s ∧ ctxOf s 3 = some { ctxA with destroy := some 9 } ∧ 9 < 16384 ∧ s.frames.any (unsealed 3) = false := ⟨test_live_sound, by decide +kernel⟩

theorem test_query_returns_state : ∃ t, exec (.ctxQuery 0) (holding { live with ctxs := [ctxA] } (cmd 0x0022 0 0 [3, 0]) []) = .next t ∧
    ((ringEntry t 0 0).drop 16).take 4 = [1, 1, 2, 0] := ⟨_, rfl, by decide +kernel⟩

/-- PKG_UNLOAD of a package that no context uses, of one in use, and of none. -/
theorem witness_pkg_unload : let c := cmd 0x0031 0 0 [1, 0]
    let s := fun (l : List Ctx) (p : List Pkg) => holding { live with ctxs := l, pkgs := p } c []
    mayStartB (s [] [noOps]) 0 0x0031 c = true ∧ mayStartB (s [ctxA] [noOps]) 0 0x0031 c = true ∧ mayStartB (s [] []) 0 0x0031 c = true ∧
      (pkgOf (s [] [noOps]) 1).isSome = true ∧ [ctxA].any (fun k => k.pkg == 1) = true ∧ (pkgOf (s [] []) 1).isNone = true := by decide +kernel

/-- FRAME_OPEN on an IDLE context that passes, and on one with a train. -/
theorem witness_frame_open : let c := cmd 0x0023 0 0 [3, 0, 0, 0, 8, 0, 0, 0]
    let s := fun (k : Ctx) => holding { live with pkgs := [noOps], ctxs := [k] } c []
    (∀ k ∈ [ctxA, onTrain ctxA], mayStartB (s k) 0 0x0023 c = true ∧ ctxOf (s k) (u16 c.bytes 16) = some k) ∧
      frameOpenCheck (markStarted (s ctxA) 0) ctxA (u64 c.bytes 24) = 0 ∧
      frameOpenCheck (markStarted (s (onTrain ctxA)) 0) (onTrain ctxA) (u64 c.bytes 24) ≠ 0 := by decide +kernel

/-- FRAME_CLOSE with the stop flag on a periodic train, at its acceptance and when it starts. -/
theorem witness_close_order : let c := cmd 0x0024 0 0 [3, 0, 1]
    let k := { onTrain ctxA with hostPaced := false }
    let s := fun (c : Cmd) => holding { live with pkgs := [noOps], ctxs := [k], frames := [frameIn ctxA .opened] } c []
    invB (s c) = true ∧ cmdOf (s c) 0 = some c ∧ c.code = 0x0024 ∧ ctxOf (s c) (u16 c.bytes 16) = some k ∧ k.hostPaced = false ∧ k.train.isSome = true ∧
      openFrame (s c) k.id = some (frameIn ctxA .opened) ∧ bitOf (byteAt c.bytes 18) 0 = true ∧
      mayStartB (s { c with note := some 8 }) 0 0x0024 { c with note := some 8 } = true := by decide +kernel

/-- FRAME_CLOSE of host-paced trains, with and without the stop flag and too early, and of a periodic one. -/
theorem witness_frame_close : let periodic := { ctxA with hostPaced := false }
    let soon := { onTrain ctxA with train := some ⟨0, 0, 8, 10000000000000, false⟩ }
    ∀ stop ∈ [0, 1], ∀ k ∈ [onTrain ctxA, soon, onTrain periodic], let c := cmd 0x0024 0 0 [3, 0, stop]
      let s := holding { live with pkgs := [noOps], ctxs := [k], frames := [frameIn ctxA .opened] } c []
      mayStartB s 0 0x0024 c = true ∧ ctxOf s (u16 c.bytes 16) = some k ∧ c.note = none ∧ k.train.isSome = true ∧ openFrame s k.id = some (frameIn ctxA .opened) := by
  decide +kernel

theorem witness_periodic_close : let k := { onTrain ctxA with hostPaced := false }
    let s := { live with pkgs := [noOps], ctxs := [k], frames := [frameIn ctxA .opened] }
    ctxOf s 3 = some k ∧ openFrame s 3 = some (frameIn ctxA .opened) ∧ (frameIn ctxA .opened).sched ≤ now s ∧
      firstDue s (frameIn ctxA .opened).sched = true := by decide +kernel

/-- The exact pass of a pending frame whose deadline is far, and of one whose deadline has passed. -/
theorem witness_exact_pass : ∀ d ∈ [0, 20000000000000], let f := { frameIn ctxA .pending with voxDone := true, deadline := d }
    let s := withFrame noOps ctxA f
    let v := notePace s (onTrain ctxA).dieMask
    ctxOf s 3 = some (onTrain ctxA) ∧ frameOf s 3 8 = some f ∧ f.phase = .pending ∧ f.voxDone = true ∧ hubServes s 0x04 = true ∧
      s.cfg.waits = [] ∧ s.txn.commits = [] ∧ 1 ≤ ringFree s 0 ∧
      (bound? (declOf v 1) (exactCounts v (onTrain ctxA) f) (smallTable v) (evalShares v (onTrain ctxA)) (retryBudget v) false).isSome = true := by
  decide +kernel

theorem test_exact_pass_accepts_and_refuses : ∀ d ∈ [0, 20000000000000], let f := { frameIn ctxA .pending with voxDone := true, deadline := d }
    ∃ t g, exec (.exactPass 3 8) (withFrame noOps ctxA f) = .next t ∧ frameOf t 3 8 = some g ∧
      (g.phase, g.refusal) = (if d = 0 then (.refused, 0x0420) else (.accepted, 0)) := by
  intro d hd
  simp only [List.mem_cons, List.not_mem_nil, or_false] at hd
  rcases hd with rfl | rfl
  · exact ⟨_, _, rfl, rfl, by decide +kernel⟩
  · exact ⟨_, _, rfl, rfl, by decide +kernel⟩
/-! ## Witnesses: ingest and time -/

/-- A decoder descriptor of one block of one point with three 16-bit fields, 6 payload bytes. -/
def descA : List Byte :=
  let spec := fun (a : Nat) => leBytes 2 a ++ [3, 16, 0, 0, 0, 0, 0, 0, 0, 0]
  padTo 128 ([0, 0] ++ leBytes 2 6 ++ leBytes 4 0 ++ leBytes 2 1 ++ leBytes 4 0 ++ leBytes 2 1 ++ leBytes 16 0 ++
    (spec 0 ++ spec 2 ++ spec 4))

/-- DECODER_SET of a descriptor within its ranges and of zeros, and of page 0. -/
theorem witness_decoder_set : let c := fun p => cmd 0x0040 0 0 [p, 0, 0, 0, 128, 0, 0, 0]
    let s := fun p (m : Memory) => holding live (c p) m
    (∀ p ∈ [0, 1], mayStartB (s p []) 0 0x0040 (c p) = true) ∧ mayStartB (s 1 (memWrite [] 0x401000 descA)) 0 0x0040 (c 1) = true ∧
      descOk (staged (s 1 (memWrite [] 0x401000 descA)) 0 1 128) = true ∧ descOk (staged (s 1 []) 0 1 128) = false ∧
      pagesOk (s 0 []) 0 0 1 = false := by decide +kernel

/-- STEER_SET of a host window entry for context 3, of one for a context that does not exist, of a clear, and of a bad kind. -/
theorem witness_steer_set : let c := fun (kind n : Nat) => cmd 0x0041 0 0 ([9, 0, kind, 0, b2n (kind == 3), 0, 0, 0, 0, 0, 0, 0, 0, n] ++ List.replicate 18 0 ++ [3, 0])
    let s := fun (l : List Ctx) c => holding { live with ctxs := l } c []
    (∀ kind ∈ [0, 3, 4], mayStartB (s [ctxA] (c kind (b2n (kind == 3)))) 0 0x0041 (c kind (b2n (kind == 3))) = true) ∧
      steerOk live (c 3 1).bytes = true ∧ (steerCtxs (c 3 1).bytes).any (fun x => (ctxOf (s [ctxA] (c 3 1)) x).isNone) = false ∧
      (steerCtxs (c 3 1).bytes).any (fun x => (ctxOf live x).isNone) = true ∧ steerOk live (c 4 0).bytes = false := by decide +kernel

/-- POSE_WRITE: static, append, append out of order, clear, and a bad operation. -/
theorem witness_pose_write : let c := fun (op n : Nat) (t : Nat) => cmd 0x0042 0 0 ([7, 0, op, n, 0, 0, 0, 0] ++ [t])
    let s := fun (l : List Pose) c => holding { live with poses := [(7, ⟨2, l⟩)] } c []
    (∀ x ∈ [(0, 1, 5), (1, 1, 5), (2, 0, 0), (3, 0, 0)], let y := c x.1 x.2.1 x.2.2
      mayStartB (s [⟨1, []⟩] y) 0 0x0042 y = true ∧ poseOk y.bytes = decide (x.1 < 3)) ∧
      ascending ([(⟨1, []⟩ : Pose)] ++ [poseSample (c 0 1 5).bytes 0]) = true ∧ ascending ([(⟨9, []⟩ : Pose)] ++ [poseSample (c 0 1 5).bytes 0]) = false := by
  decide +kernel

/-- TIME_SET of a step, a rate and the calendar, and one that selects nothing. -/
theorem witness_time_set : ∀ sel ∈ [0, 1, 2, 4, 7], let c := cmd 0x0043 0 0 [sel, 0, 0, 0, 0, 0, 0, 0, 100]
    mayStartB (holding live c []) 0 0x0043 c = true ∧
      (timeSetCheck (holding live c []) (byteAt c.bytes 16) (i64 c.bytes 24) = 0 ↔ sel ≠ 0) := by decide +kernel

/-- A lane that is enabled with MAC address 02:00:00:00:00:01 and IPv4 address 10.0.0.1. -/
def laned (l : Lane) : State := { cfgPut (cfgPut live rPdeLaneCfg 0 (0x020000000001 * 65536 + 32768)) rPdeIp4 0 0x0A000001 with lanes := l :: List.replicate 15 Lane.reset }
def lockedLane : Lane := { Lane.reset with locked := true }

theorem witness_lanes : Inv (laned Lane.reset) ∧ laneEnabled (laned Lane.reset) 0 = true ∧ partOn (laned Lane.reset) = true ∧
    3 ≤ (laned Lane.reset).pwr.st ∧ (laneOf (laned Lane.reset) 0).locked = false ∧ (laneOf (laned lockedLane) 0).locked = true ∧
    (laneOf (laned lockedLane) 0).lockRaw + 10000000 ≤ (laned lockedLane).raw ∧
    (laneOf (laned { lockedLane with tx := [⟨none, []⟩] }) 0).tx = [⟨none, []⟩] := ⟨test_live_sound, by decide +kernel⟩

/-- A UDP datagram to port 2368 on the lane. -/
def udpFrame : List Byte :=
  ethFrame (macOf (laned lockedLane) 0) (beBytes 6 2) 0x0800 (ipv4Head 0 1 64 17 (beBytes 4 0x0A000002) (beBytes 4 0x0A000001) 14 ++
    udpData (beBytes 4 0x0A000002) (beBytes 4 0x0A000001) 5000 2368 (leBytes 6 0x000300020001))

theorem test_parse_udp : parseFrame udpFrame = .udp ⟨4, beBytes 4 0x0A000002, beBytes 4 0x0A000001, 5000, 2368, leBytes 6 0x000300020001⟩ := by
  decide +kernel

set_option maxRecDepth 20000 in
theorem witness_received_frames : let s := laned lockedLane
    let bad := fun (b : List Byte) => crc32 (b.take (b.length - 4)) ≠ leNat (b.drop (b.length - 4))
    udpFrame.length = 64 ∧ ¬ bad udpFrame ∧ bad (List.replicate 64 0) ∧ macAccepts s 0 udpFrame = true ∧
      macAccepts s 0 (beBytes 6 4 ++ udpFrame.drop 6) = false ∧ rxBytes s 0 + udpFrame.length ≤ 65536 ∧
      9216 < (List.replicate 9217 (0 : Byte)).length := by decide +kernel

/-- A frame that waits on the lane, steered to context 3 as sensor 9. -/
def steering : State :=
  { laned { lockedLane with rx := [⟨0, udpFrame, 5⟩] } with steer := [(9, ⟨1, 0, 1, 2368, 0, 0xFFFF, 0, [3], []⟩)], decs := [(0, descA)] }

theorem witness_steer : hubServes steering 0x05 = true ∧ (laneOf steering 0).dec = none ∧ (laneOf steering 0).rx = [⟨0, udpFrame, 5⟩] ∧ payloadOk descA 6 = true ∧
    (steering.steer.find? (fun e => steerMatches e.2 0 (vlanOf udpFrame) ⟨4, beBytes 4 0x0A000002, beBytes 4 0x0A000001, 5000, 2368, leBytes 6 0x000300020001⟩)).isSome = true ∧ parseFrame (List.replicate 64 0) = .other := by decide +kernel

theorem witness_decode : let s := laned { lockedLane with dec := some ⟨9, descA, [3], leBytes 6 0, 0, 5⟩ }
    (laneOf s 0).dec = some ⟨9, descA, [3], leBytes 6 0, 0, 5⟩ ∧ s.lastBlock.2 ≤ 0 ∧ NoCloseDue s :=
  ⟨by decide +kernel, by decide +kernel, (fun _ h => absurd h List.not_mem_nil : NoCloseDue live)⟩

theorem test_steer_then_decode : ∃ t, exec (.packetSteer 0) steering = .next t ∧ (laneOf t 0).rx = [] ∧ ((laneOf t 0).dec.map (·.sensor)) = some 9 :=
  ⟨_, rfl, by decide +kernel⟩

set_option maxRecDepth 20000

/-- An ARP request for 10.0.0.1 and a neighbour solicitation for the lane's link-local address. -/
def arpFrame : List Byte :=
  ethFrame (List.replicate 6 0xFF) (beBytes 6 2) 0x0806 (beBytes 2 1 ++ beBytes 2 0x0800 ++ [6, 4] ++ beBytes 2 1 ++ beBytes 6 2 ++
    beBytes 4 0x0A000002 ++ beBytes 6 0 ++ beBytes 4 0x0A000001)

def solicitFrame : List Byte :=
  let src := [0xFE, 0x80] ++ leBytes 13 0 ++ [2]
  let dst := linkLocal (laned lockedLane) 0
  let m := fun (sum : Nat) => [135, 0] ++ beBytes 2 sum ++ leBytes 4 0 ++ dst
  let sum := checksum (src ++ dst ++ beBytes 4 24 ++ [0, 0, 0, 58] ++ m 0)
  ethFrame (macOf (laned lockedLane) 0) (beBytes 6 2) 0x86DD (ipv6Head 0 58 255 src dst 24 ++ m sum)

def queuedFw (b : List Byte) : State := { laned { lockedLane with up := true } with fwq := [⟨0, b, 5⟩] }

theorem witness_address_queries : fwHead (queuedFw arpFrame) = some ⟨0, arpFrame, 5⟩ ∧ isArp (queuedFw arpFrame) ⟨0, arpFrame, 5⟩ = true ∧
    fwHead (queuedFw solicitFrame) = some ⟨0, solicitFrame, 5⟩ ∧ isSolicit (queuedFw solicitFrame) ⟨0, solicitFrame, 5⟩ = true := by decide +kernel

/-- A part whose time comes by PTP directly over Ethernet on lane 0, from the master at port 1. -/
def ptpMaster : PtpMaster := ⟨beBytes 8 9, beBytes 10 1, beBytes 34 0⟩
def byPtp (m : List Byte) (t : Tmu) : State :=
  { cfgPut (laned { lockedLane with up := true }) rTmuCfg 0 0x80080000 with fwq := [⟨0, ethFrame (macOf live 0) (beBytes 6 2) 0x88F7 m, 5⟩], tmu := t }
def withMaster : Tmu := { Tmu.reset with master := some ptpMaster, gm := some ptpMaster.gm, foreign := [⟨ptpMaster, 1000000000, [9999000000000]⟩] }

/-- A PTP message of a type from port 1 with sequence 6. -/
def ptpMsg (ty flags : Nat) (n : Nat) : List Byte :=
  [BitVec.ofNat 8 ty, 2, 0, 0, 0, 0, BitVec.ofNat 8 flags] ++ leBytes 13 0 ++ beBytes 10 1 ++ beBytes 2 6 ++ leBytes (n - 32) 0

theorem witness_ptp : (∀ x ∈ [(0, 0), (0, 2), (8, 0), (9, 0), (11, 0)], let s := byPtp (ptpMsg x.1 x.2 64) withMaster
      (ptpHead s x.1).map (fun h => (fromMaster s h.2, seqId h.2, decide (64 ≤ h.2.length))) = some (true, 6, true)) ∧
    mayRequest (byPtp [] withMaster) = true := by decide +kernel

/-- A Sync awaiting its Follow_Up, a Delay_Req awaiting its Delay_Resp, and a locked servo without a Sync since reset. -/
theorem witness_ptp_waiting : let s := byPtp (ptpMsg 8 0 64) { withMaster with pendSync := some (6, 5, 0) }
    let u := byPtp (ptpMsg 9 0 44 ++ ownPort (byPtp [] withMaster)) { withMaster with delayReq := some (6, 5) }
    let v := byPtp [] { withMaster with servo := 2 }
    s.tmu.pendSync = some (6, 5, 0) ∧ u.tmu.delayReq = some (6, 5) ∧ (ptpHead u 9).map (fun h => (slice h.2 44 10 == ownPort u, seqId h.2)) = some (true, 6) ∧
      Inv v ∧ cfgFld v rTmuCfg 0 31 31 = 1 ∧ v.tmu.servo = 2 ∧ v.tmu.lastSync + cfgFld v rTmuPtpCfg 0 31 16 * 1000000 ≤ v.raw :=
  ⟨rfl, rfl, by decide +kernel, test_live_sound, by decide +kernel⟩

/-- A servo whose corrections are held. -/
theorem witness_holdover : (byPtp [] { withMaster with servo := 3 }).tmu.servo = 3 := rfl

/-- Announces of another clock: of a master that was heard before and becomes the best, and of one heard for the first time. -/
theorem witness_announce : let s := fun (p : Nat) => byPtp ((ptpMsg 11 0 64).take 20 ++ beBytes 10 p ++ (ptpMsg 11 0 64).drop 30) withMaster
    let m := fun (p : Nat) => ((ptpHead (s p) 11).map (·.2)).getD []
    ∀ p ∈ [1, 0x77], (ptpHead (s p) 11).isSome = true ∧ announceOk (s p) (m p) = true ∧ invB (s p) = true ∧
      (bestMaster (modTmu (fwTake (s p)) (fun t => { t with foreign := noteAnnounce (s p) (m p) }))).isSome = decide (p = 1) := by decide +kernel

/-- Host windows: published with the magic value, without it, and while busy; served with a failing and with a passing header. -/
def windowHead (seq count crc : Nat) : List Byte := padTo 32 (leBytes 2 0x1A7E ++ leBytes 2 count ++ [9, 0] ++ leBytes 2 seq ++ leBytes 4 crc)

theorem witness_window_publish : let s := { live with chans := [{ Chan.reset with rows := [(rowKey (subOfOff (winOff 6)) (bankOfOff (winOff 6)), winOff 6 / 65536)] }, Chan.reset] }
    Inv s ∧ RowOpen s 0 (winOff 6) ∧ (BitVec.allOnes 32).getLsbD 0 = true ∧
    u16 (memRead (chanOf (storeUnit s 0 (winOff 6) (windowHead 1 1 0) (BitVec.allOnes 32) 0) 0).mem (winOff 6) 32) 0 = 0x1A7E ∧
    u16 (memRead (chanOf (storeUnit s 0 (winOff 6) [] (BitVec.allOnes 32) 0) 0).mem (winOff 6) 32) 0 ≠ 0x1A7E ∧
    ({ s with hiw := [⟨0, 6, [], 0⟩] } : State).hiw.any (fun b => b.ch == 0 && b.win == 6) = true :=
  ⟨inv_of _ (by decide +kernel), ⟨by decide +kernel, by decide +kernel⟩, by decide +kernel⟩

set_option maxRecDepth 20000 in
theorem witness_window_answer : let b := fun seq => (⟨0, 6, windowHead seq 1 (crc32 (List.replicate 32 0)), 0⟩ : HiwBusy)
    let s := fun seq => { live with hiw := [b seq], steer := [(9, ⟨3, 0, 64, 0, 0, 0, 0, [3], []⟩)] }
    Inv (s 1) ∧ NoCloseDue (s 1) ∧ hubServes (s 1) 0x05 = true ∧ nextWindow (s 1) = some (b 1) ∧ (s 1).lastBlock.2 ≤ 16 ∧ winStatus (s 1) (b 1) = 0 ∧
      nextWindow (s 2) = some (b 2) ∧ winStatus (s 2) (b 2) ≠ 0 :=
  ⟨test_live_sound, (fun _ h => absurd h List.not_mem_nil : NoCloseDue live), by decide +kernel⟩

theorem witness_silence : let s := cfgPut { live with sensors := [(9, ⟨none, some 0, false⟩)] } rPdeIngestCfg 0 (100 * 2 ^ 20)
    Inv s ∧ underSilence s 9 = true ∧ (sensorOf s 9).raised = false := ⟨test_live_sound, by decide +kernel⟩
/-! ## Witnesses: debug and board management -/

/-- A part at a debug level, its cores halted or not. -/
def debugging (n : Nat) (h : Bool) : State := { live with sec := { live.sec with debug := n }, dbg := { live.dbg with halted := h } }

theorem witness_debug : partOn live = true ∧ live.sec.debug < 1 ∧ 1 ≤ (debugging 1 false).sec.debug ∧ (debugging 2 false).dbg.halted = false ∧ 2 ≤ (debugging 2 true).sec.debug ∧
    (debugging 2 true).dbg.halted = true ∧ partOn (debugging 2 true) = true ∧ (debugging 2 true).dbg.hubMem.wf = true := by decide +kernel

theorem witness_board_port : partOn live = true ∧ live.pwr.st ≠ 0 ∧ live.bmp.dyn = none := by decide +kernel

theorem test_idcode_of_the_octal_part : ∃ t, exec .idcode live = .next t ∧ t.dbg.dr = 0x088080B9 := ⟨_, rfl, by decide +kernel⟩

/-! ## Witnesses: frame stages -/

/-- Deskew, voxelise and curve operators: 1 us slices; a grid of 16 × 16 × 16 voxels of 1,000 units. -/
def dskOp : OpDecl := opOf 0x10 ([0, 0, 0] ++ [232, 3, 0, 0]) false
def vhuOp : OpDecl :=
  let d := leBytes 2 0x11 ++ leBytes 18 0 ++ (leBytes 4 1000 ++ leBytes 4 1000 ++ leBytes 4 1000) ++
    (leBytes 4 16 ++ leBytes 4 16 ++ leBytes 4 16)
  ⟨padTo 64 d, ⟨0, 1, false, 500⟩, 0⟩
def csuOp : OpDecl := opOf 0x12 [] false

def ptA : Pt := ⟨1500, 2500, 3500, 9, 7, 0, 5⟩
def identity : PoseTab := ⟨1, [⟨0, [2 ^ 30, 0, 0, 0, 2 ^ 30, 0, 0, 0, 2 ^ 30, 10, 20, 30]⟩]⟩

/-- A pending frame of one point, not yet read, and read but not yet voxelised. -/
def stagePkg (ops : List OpDecl) : Pkg := pkgWith ([dskOp, vhuOp, csuOp] ++ ops) [] []
def closedFrame : Frame := { frameIn ctxA .pending with pts := [ptA], poses := [(7, identity)] }
def deskewedFrame : Frame := { closedFrame with dskDone := [(1, 1)], dpts := [⟨0, 1510, 2520, 3530, ptA⟩] }

theorem witness_deskew : let s := withFrame (stagePkg []) ctxA closedFrame
    Inv s ∧ frameOf s 3 8 = some closedFrame ∧ working closedFrame = true ∧ 1 ∈ frameDies s closedFrame ∧ stageReady s 1 0x07 = true ∧
      holdsLeave s closedFrame 1 (512 + 0x07) = true ∧ mapGet 0 closedFrame.dskDone 1 < dskTotal closedFrame 1 0 ∧
      closedFrame.pts[0]? = some ptA ∧ deskewPt (dskDesc (pkgOfFrame s closedFrame)) (snapTab closedFrame 7) ptA = some ⟨1510, 2520, 3530, false⟩ ∧
      (⟨1510, 2520, 3530, false⟩ : Placed).fits = true := ⟨test_live_sound, by decide +kernel⟩

theorem test_deskew_adds_the_translation : ∃ t g, exec (.deskewTile 3 8 1) (withFrame (stagePkg []) ctxA closedFrame) = .next t ∧ frameOf t 3 8 = some g ∧
    g.dpts = deskewedFrame.dpts ∧ g.dskDone = [(1, 1)] ∧ g.psHalf = false := ⟨_, _, rfl, rfl, by decide +kernel⟩

theorem witness_voxelise : let s := withFrame (stagePkg []) ctxA deskewedFrame
    ctxOf s 3 = some (onTrain ctxA) ∧ frameOf s 3 8 = some deskewedFrame ∧ working deskewedFrame = true ∧ deskewedFrame.voxDone = false ∧
      vhuReady s deskewedFrame (maskDies 2) = true ∧ deskewedFrame.voxNext < dskReach (maskDies 2) deskewedFrame ∧
      dskReach (maskDies 2) deskewedFrame = deskewedFrame.pts.length := by decide +kernel

theorem test_voxelise_takes_the_voxel_key : ∃ t g c, exec (.voxeliseTile 3 8) (withFrame (stagePkg []) ctxA deskewedFrame) = .next t ∧
    frameOf t 3 8 = some g ∧ g.cells = [c] ∧ c.key = voxKey 1 2 3 ∧ (c.su, c.sv, c.sw) = (510, 520, 530) ∧ c.mask = 2 ^ 13 ∧ g.voxNext = 1 :=
  ⟨_, _, _, rfl, rfl, rfl, by decide +kernel⟩

/-- The frame with its cell, voxelisation complete, accepted and ordered. -/
def cellA : Cell := ⟨voxKey 1 2 3, 1, 0, 1, 510, 520, 530, 9, 1, 0, 2 ^ 13, 0⟩
def voxFrame (phase : FPhase) : Frame := { deskewedFrame with phase := phase, dpts := [], voxNext := 1, cells := [cellA] }
def cellFrame : Frame := { voxFrame .accepted with voxDone := true, nCells := 1, shares := [(1, 32, 30)] }
def csuFrame : Frame := { cellFrame with csuStarted := true }
def orderedFrame (op : Nat) : Frame :=
  { csuFrame with ordered := true, order := [interleave ⟨1, 2, 3⟩], cuts := [0, 1], levels := [(0, [⟨1, 2, 3, interleave ⟨1, 2, 3⟩, 1, 1510, 2520, 3530⟩])], run := { blankRun with op := op } }

theorem witness_voxelisation_complete : let f := voxFrame .pending
    let s := withFrame (stagePkg []) ctxA f
    ctxOf s 3 = some (onTrain ctxA) ∧ frameOf s 3 8 = some f ∧ working f = true ∧ f.voxDone = false ∧ dskAllDone (maskDies 2) f = true ∧
      f.pts.length ≤ f.voxNext := by decide +kernel

theorem witness_curve_order : let s := withFrame (stagePkg []) ctxA
    frameOf (s cellFrame) 3 8 = some cellFrame ∧ cellFrame.voxDone = true ∧ cellFrame.phase = .accepted ∧ cellFrame.csuStarted = false ∧
      frameOf (s csuFrame) 3 8 = some csuFrame ∧ ctxOf (s csuFrame) 3 = some (onTrain ctxA) ∧ csuFrame.ordered = false ∧ 1 ∈ maskDies 2 ∧
      stageReady (s csuFrame) 1 0x09 = true ∧ holdsLeave (s csuFrame) csuFrame 1 (512 + 0x09) = true ∧
      itemsDone csuFrame.csuDone 1 (homeCells csuFrame 1) = false := by decide +kernel

theorem test_curve_order_of_one_cell : ∃ t g, exec (.curveOrderTile 3 8 1) (withFrame (stagePkg []) ctxA csuFrame) = .next t ∧ frameOf t 3 8 = some g ∧
    g.ordered = true ∧ g.run.op = 3 ∧ g.levels = (orderedFrame 3).levels ∧ g.cuts = [0, 1] := ⟨_, _, rfl, rfl, by decide +kernel⟩

/-- A submanifold class 0 of kernel 3 × 3 × 3, and an activation from tensor 0 to tensor 1. -/
def rbbOp : OpDecl := opOf 0x13 [0, 0, 0, 0, 3, 3, 3] false
def actOp (leave : Bool) : OpDecl := opOf 0x22 [0, 0, 0, 0, 0, 1, 0] leave
def onDie (f : Frame) : Frame := { f with run := { f.run with dies := [1] } }

theorem witness_rulebook : let f := onDie (orderedFrame 3)
    let s := withFrame (stagePkg [rbbOp]) ctxA f
    ctxOf s 3 = some (onTrain ctxA) ∧ frameOf s 3 8 = some f ∧ stageServes s f 1 0x0A = true ∧ opCode (runOp s f) = cRulebook ∧
      itemsDone f.run.done 1 (buildOutputs (onTrain ctxA) (declOf s 1) f (runOp s f).desc 0).length = false := by decide +kernel

/-! ## Witnesses: stalls -/

theorem witness_dispatch : ∀ o ∈ [actOp false, rbbOp], let f := orderedFrame 3
    let s := withFrame (stagePkg [o]) ctxA f
    ctxOf s 3 = some (onTrain ctxA) ∧ frameOf s 3 8 = some f ∧ f.phase = .accepted ∧ f.ordered = true ∧ 1 ∈ maskDies ctxA.dieMask ∧ 1 ∉ f.run.dies ∧
      f.run.op < (declOf s ctxA.pkg).ops.length ∧ ([2, 10].filter (fun g => stallDie g == 1 && takesTiles s g)).eraseDups = [2, 10] := by decide +kernel

/-- An activation run with one tile on stall 2, and one whose tiles of stall 2 are all done. -/
def tileA : Tile := ⟨0, 0, 1, 2, 0, 1, none, 0, false⟩
def inRun (f : Frame) (stalls : List Nat) (l : List Tile) : Frame := { f with run := { f.run with dies := [1], stalls := stalls, tiles := l } }
def rowA : Row := ⟨List.replicate 32 0x3F80, [], 0⟩
def actFrame (stalls : List Nat) (l : List Tile) : Frame := inRun { orderedFrame 3 with tensors := [(0, [(0, rowA)])] } stalls l
def tensors2 : List (List Byte) := [[0, 4, 32, 0], [0, 4, 32, 0]]
def actPkg (leave : Bool) : Pkg := pkgWith [dskOp, vhuOp, csuOp, actOp leave] [] tensors2

theorem witness_stall_tile : let f := actFrame [2] [tileA]
    let s := withFrame (actPkg false) ctxA f
    takesTiles s 2 = true ∧ unitServes s (stallDie 2) 0x0C 0 = true ∧ stallFrame s 2 = some f ∧ frameOf s f.ctx f.num = some f ∧
      tileEnds (stallOf s 2) = true ∧ streamReady s (onTrain ctxA) (declOf s ctxA.pkg) (runOp s f) tileA = true ∧ ctxOf s f.ctx = some (onTrain ctxA) ∧
      (tilesLeft f.run 2).find? (Machine.mayStart s (onTrain ctxA) (declOf s ctxA.pkg) f (runOp s f)) = some tileA := by decide +kernel

theorem test_stall_tile_runs_once : ∃ t g, exec (.stallTile 2) (withFrame (actPkg false) ctxA (actFrame [2] [tileA])) = .next t ∧ frameOf t 3 8 = some g ∧
    g.run.tiles.map (·.done) = [true] ∧ g.run.rows.map (·.row) = [0] := ⟨_, _, rfl, rfl, by decide +kernel⟩

/-- A run whose only tile is done; its row is in range, overflows with the budget left, and overflows without. -/
def doneTile : Tile := { tileA with done := true }
def endedFrame (e : Elem) (retry : Nat) : Frame :=
  let f := actFrame [2] [doneTile]
  { f with retry := retry, run := { f.run with rows := [⟨0, List.replicate 32 e, 0, 0⟩] } }

theorem witness_retry : ∀ x ∈ [(Elem.f 0x3F800000, 4), (Elem.overs false, 4), (Elem.overs false, 0)], let f := endedFrame x.1 x.2
    let s := withFrame (actPkg false) ctxA f
    let p := declOf s ctxA.pkg
    ctxOf s 3 = some (onTrain ctxA) ∧ frameOf s 3 8 = some f ∧ f.phase = .accepted ∧ f.ordered = true ∧ isStallOp (runOp s f) = true ∧
      runComplete (maskDies ctxA.dieMask) f.run = true ∧ accessesDone s f = true ∧ f.retryEnded = false ∧
      (pendingUnits p (runOp s f) f.run).map (retryTiles (convOpOf (onTrain ctxA) p (runOp s f))) = if x.1 = .overs false then [[doneTile]] else [] := by
  decide +kernel

theorem test_retry_while_the_budget_lasts : ∀ n ∈ [0, 4], ∃ t g, exec (.retryRound 3 8) (withFrame (actPkg false) ctxA (endedFrame (.overs false) n)) = .next t ∧
    frameOf t 3 8 = some g ∧ (g.run.op, g.retry, g.retryEnded) = if n = 0 then (4, 0, true) else (3, 3, false) := by
  intro n h
  simp only [List.mem_cons, List.not_mem_nil, or_false] at h
  rcases h with rfl | rfl <;> exact ⟨_, _, rfl, rfl, by decide +kernel⟩

/-- A row's first partition of two waits, and its second after the first is merged. -/
def convPkg : Pkg := pkgWith [dskOp, vhuOp, csuOp, rbbOp, opOf 0x20 [0, 0, 0, 0, 0, 1, 0, 0, 0] false] [] tensors2
def partFrame (ms : List MergeSt) : Frame :=
  let f := inRun (orderedFrame 4) [2] [doneTile]
  { f with run := { f.run with parts := [⟨0, ms.length, 1, 0, [], 0⟩], merges := ms } }

theorem witness_partition_merge : ∀ ms ∈ [[], [(⟨0, 1, 0, [], 0⟩ : MergeSt)]], let f := partFrame ms
    let s := withFrame convPkg ctxA f
    ctxOf s 3 = some (onTrain ctxA) ∧ frameOf s 3 8 = some f ∧ (f.run.parts.find? (fun x => x.row == 0 && x.part == ms.length)).isSome = true ∧
      mergedUpto f.run 0 = ms.length ∧ unitServes s 1 0x0C 0 = true := by decide +kernel

/-! ## Witnesses: gathers and steals -/

/-- A part whose stall 0 holds these gathers. -/
def gathering (l : List Gather) : State := modStall live 0 (fun t => { t with gathers := l })

/-- A gather of frame 8's that waits for its bytes. -/
def gatherA (thread len : Nat) (src : GatherSrc) (got : List Byte) : Gather := ⟨thread, src, len, .frame 3 8, got⟩
def fullThreads : State := gathering ((List.range 128).map (fun n => gatherA n 1 (.paddock 0 0) []))

theorem witness_gather : Inv live ∧ stallOn live 0 = true ∧ gatherExists live 0 (.paddock 4 (2 ^ 23 - 64)) 64 = true ∧
    gatherExists live 0 (.paddock 4 (2 ^ 23 - 63)) 64 = false ∧ gatherExists live 0 (.remote 1 0 0) 1 = false ∧
    (∀ src ∈ [GatherSrc.paddock 0 0, .remote 2 0 0, .memory 1 0], gatherExists live 0 src 1 = true ∧ gatherRoute live 0 src = true ∧
      gatherStreams live 0 src = true ∧ invB fullThreads = true ∧ stallOn fullThreads 0 = true ∧ gatherExists fullThreads 0 src 1 = true ∧
      gatherRoute fullThreads 0 src = true ∧ gatherStreams fullThreads 0 src = true) ∧
    threadHolds live 0 5 = false ∧ threadHolds (gathering [gatherA 5 4 (.paddock 0 64) []]) 0 5 = true ∧
    threadsHeld (gathering [gatherA 5 4 (.paddock 0 64) []]) 0 < 128 ∧ 128 ≤ threadsHeld fullThreads 0 :=
  ⟨test_live_sound, by decide +kernel⟩

/-- Bytes from a paddock that have arrived, and bytes of main memory. -/
theorem witness_gather_return : ∀ x ∈ [gatherA 5 2 (.paddock 0 64) [1, 2], { gatherA 5 2 (.memory 1 64) [] with for_ := .other }], let s := gathering [x]
    invB s = true ∧ stallOn s 0 = true ∧ (stallOf s 0).gathers.find? (fun y => y.thread == 5) = some x ∧ gatherArrived x = true ∧
      gatherRoute s 0 x.src = true ∧ fwPermits s 1 9 (domainOf s .other) 64 2 false = true := by decide +kernel

/-- A convolution of 160 channels over a class whose one site has its centre pair: five chunks on lane 0, none on lane 1. -/
def wideConv : OpDecl := opOf 0x20 ([0, 0, 0, 0, 0, 1, 0, 0, 0] ++ [0, 0, 0, 0, 0, 0x44, 4]) false
def widePkg : Pkg :=
  let head := leBytes 4 4 ++ leBytes 4 1 ++ leBytes 4 4320 ++ leBytes 4 0 ++ leBytes 8 0 ++ leBytes 4 48 ++ leBytes 4 0 ++ leBytes 16 0
  ⟨1, { (pkgWith [dskOp, vhuOp, csuOp, rbbOp, wideConv] [] [[0, 4, 160, 0], [0, 4, 1, 0]]).decl with weights := [(head, [])] }, 64, List.replicate 64 0⟩
def wideFrame : Frame := { inRun (orderedFrame 4) [2] [tileA] with books := [⟨0, [⟨0, 0, 13⟩], [], []⟩], tensors := [(0, [(0, ⟨List.replicate 160 0x3F80, [], 0⟩)])] }

theorem witness_chunk_steal : let s := withFrame widePkg ctxA wideFrame
    let c := onTrain ctxA
    isDie s (stallDie 2) = true ∧ stallFrame s 2 = some wideFrame ∧ ctxOf s wideFrame.ctx = some c ∧ isConvOp (runOp s wideFrame) = true ∧
      (tilesLeft wideFrame.run 2).find? (Machine.mayStart s c (declOf s c.pkg) wideFrame (runOp s wideFrame)) = some tileA ∧
      canSteal (laneSim (tileLanes c (declOf s c.pkg) wideFrame (runOp s wideFrame) tileA) (stallOf s 2).moved) 1 0 = true := by
  decide +kernel

theorem witness_tile_steal : let f := actFrame [2, 3] [tileA, { tileA with id := 1, lo := 1, hi := 2 }]
    let s := withFrame (actPkg false) ctxA f
    takesTiles s 3 = true ∧ frameOf s 3 8 = some f ∧ s.frames.find? (fun f => f.phase == .accepted && isStallOp (runOp s f) && f.run.stalls.contains 3 &&
      (tilesLeft f.run 3).isEmpty && (stealVictim f.run 3).isSome) = some f := by decide +kernel

/-! ## Witnesses: paddocks -/

/-- A die with operations in the engine of its cluster 0, and its operations there. -/
def engineDie (l : List EngineOp) : State := modDie live 1 (fun d => { d with engines := updAt d.engines 0 (fun e => { e with ops := l }) })
def fillA (moved : Nat) : EngineOp := ⟨8, 0, .other, none, 0, 1, List.replicate 8 5, moved, none⟩
def copyA (moved : Nat) : EngineOp := ⟨0, 5, .other, some 64, 128, 1, [], moved, none⟩

theorem witness_engine : engineOn live 1 0 = true ∧ (∀ i ∈ [8, 0], issuerOn live 1 0 i 5 = true) ∧
    (∀ m ∈ [0, 1], let s := engineDie [fillA m, copyA m]
      invB s = true ∧ isDie s 1 = true ∧ (engineOf s 1 0).ops.find? (fun x => x.issuer == 8) = some (fillA m) ∧
        (engineOf s 1 0).ops.find? (fun x => x.issuer == 0) = some (copyA m)) ∧
    invB (modDie live 1 (fun d => { d with engines := updAt d.engines 0 (fun e => { e with ops := [fillA 1], waiting := [fillA 0] }) })) = true := by
  decide +kernel

/-- Operands that the engine takes, that are not of lines, and that reach past the paddock. -/
theorem witness_engine_takes : engineOk [0, 2 ^ 23 - 64] 1 = true ∧ engineOk [32] 1 = false ∧ engineOk [0] 0 = false ∧
    2 ^ 23 < 2 ^ 23 - 64 + 64 * 2 := by decide +kernel

/-- Arbiters of a bank: free with nobody waiting, free with requesters, before its eighth grant, and owned. -/
def arbed (x : ArbSt) : State := setArb live (.bank 1 0 0) x

theorem witness_arbiter : partOn live = true ∧ arbExists live (.bank 1 0 0) = true ∧ arbExists live (.halyard 492) = true ∧ arbExists live (.link 0 6) = true ∧
    arbExists live (.mem 0 1) = true ∧ arbWinner (arbOf live (.bank 1 0 0)) = none ∧ (arbOf live (.bank 1 0 0)).owner = none ∧
    ([[5, 3]].foldl arbArrive (arbOf live (.bank 1 0 0))).owner = none ∧ (arbWinner ([[5, 3]].foldl arbArrive (arbOf live (.bank 1 0 0)))).isSome = true ∧
    (∀ r ∈ [3, 5], portOpen live (.bank 1 0 0) r = true) ∧
    (arbOf (arbed ⟨List.range 13, [⟨9, 0⟩], 7, none, 0⟩) (.bank 1 0 0)).n = 7 ∧ arbWinner ([[1]].foldl arbArrive ⟨List.range 13, [⟨9, 0⟩], 7, none, 0⟩) = some 9 ∧
    arbWinner ([[1]].foldl arbArrive ⟨List.range 13, [⟨9, 0⟩], 6, none, 0⟩) = some 1 ∧
    (arbOf (arbed ⟨List.range 13, [⟨9, 0⟩], 7, some 2, 15⟩) (.bank 1 0 0)).used + servedHere (.bank 1 0 0) 1 ≤ burstLimit (.bank 1 0 0) 2 ∧
    (arbDrop ⟨List.range 13, [⟨9, 0⟩], 7, some 2, 15⟩ [2]).owner = none := by decide +kernel

theorem witness_paddock_access : let s := fun used => arbed ⟨List.range 13, [⟨9, 0⟩], 7, some 2, used⟩
    (∀ used ∈ [0, 15, 16], invB (s used) = true ∧ partOn (s used) = true ∧ isDie (s used) 1 = true ∧ (arbOf (s used) (.bank 1 0 0)).owner = some 2 ∧
      pensLive (s used) = true ∧ unitServes (s used) 1 0x0B 0 = true ∧ portOpen (s used) (.bank 1 0 0) 2 = true) ∧
      (arbOf (s 15) (.bank 1 0 0)).used < burstLimit (.bank 1 0 0) 2 ∧ burstLimit (.bank 1 0 0) 2 ≤ (arbOf (s 16) (.bank 1 0 0)).used ∧
      isDie live 8 = false ∧ accLen (.write 60 [1, 2, 3, 4]) = 4 ∧ accAddr (.write 60 [1, 2, 3, 4]) % 64 + 4 ≤ 64 ∧
      accFor (s 0) 1 0 2 .other = .other ∧ (arbOf (s 0) (.bank 1 0 0)).used + 2 ≤ burstLimit (.bank 1 0 0) 2 ∧
      fwPermits (s 0) 1 0 (domainOf (s 0) .other) 60 4 true = true ∧ fwPermits (s 0) 1 0 (domainOf (s 0) .other) 64 1 true = true := by decide +kernel

theorem test_burst_past_limit_fences : ∃ t, exec (.paddockAccess 1 0 ⟨2, .other⟩ (.read 0 64) false) (arbed ⟨List.range 13, [], 7, some 2, 16⟩) = .next t ∧
    (arbOf t (.bank 1 0 0)).owner = none ∧ t.log.recs.map (·.code) = [0x0B80] := ⟨_, rfl, by decide +kernel⟩

/-- A read that serves a gather, a drain with lines left, and the engine's next line of a fill and of a copy. -/
theorem witness_line_access : servedGather (gathering [gatherA 5 2 (.paddock 0 64) []]) 1 0 0 64 2 = some (0, gatherA 5 2 (.paddock 0 64) []) ∧
    fwPermits live 1 0 (domainOf live .other) 64 64 false = true ∧ (stallOf (modStall live 0 (fun t => { t with drain := 64 })) 0).drain ≠ 0 ∧
    stallFor live 0 = .other ∧ serveNext (engineOf (engineDie [fillA 0]) 1 0) = some (fillA 0) ∧ lineAddr (fillA 0) = 0 ∧
    serveNext (engineOf (engineDie [copyA 0]) 1 0) = some (copyA 0) ∧ lineAddr (copyA 0) = 64 ∧ (copyA 0).buf = none := by decide +kernel

/-! ## Witnesses: stage units -/

/-- A package of one operator after the three first, over a map of 2 × 2 pixels. -/
def mapPkg (o : OpDecl) : Pkg := pkgWith [dskOp, vhuOp, csuOp, o] [leBytes 1 4 ++ leBytes 1 0 ++ leBytes 2 1 ++ leBytes 2 2 ++ leBytes 2 2] []
def stageState (o : OpDecl) (f : Frame) : State := withFrame (mapPkg o) ctxA f
def weighted (f : Frame) : Frame := { onDie f with shares := [(1, 32, 30)] }

/-- A lookup without tables, a scatter, a selection of threshold 0 over channel 0, a suppression, zone occupancy. -/
def lookupOp : OpDecl := opOf 0x30 [0, 0, 0, 0, 0, 1, 0] false
def scatterOp : OpDecl := opOf 0x40 [0, 0, 0, 0, 0, 0, 0] false
def compactOp : OpDecl := opOf 0x50 ([0, 0, 0, 0, 0, 255, 255, 255, 255, 255, 255, 255, 255, 255, 255, 4, 0, 0, 0] ++ [0, 0, 0, 0, 2, 0, 1]) false
def suppressOp : OpDecl := opOf 0x52 [0, 1, 2, 232, 3, 0, 0] false
def zoneOp : OpDecl := opOf 0x53 [0, 1] false

theorem witness_stage_units : ∀ x ∈ [(lookupOp, 0x0D), (scatterOp, 0x0E), (compactOp, 0x0F)], let f := weighted (orderedFrame 3)
    let s := stageState x.1 f
    ctxOf s 3 = some (onTrain ctxA) ∧ frameOf s 3 8 = some f ∧ stageServes s f 1 x.2 = true ∧ itemsDone f.run.done 1 0 = false ∧ itemsDone f.run.done 1 4 = false := by
  decide +kernel

/-- A map of four pixels of channel 0: 1.0, 0, 2.0 and a NaN. -/
def mapOf4 : List (Nat × Row) := [(0, ⟨[0x3F80], [], 0⟩), (1, ⟨[0], [], 0⟩), (2, ⟨[0x4000], [], 0⟩), (3, ⟨[0x7FC0], [], 0⟩)]

theorem test_compact_takes_what_exceeds_the_threshold : ∃ t g, exec (.selectionTile 3 8 1) (stageState compactOp { weighted (orderedFrame 3) with maps := [(0, mapOf4)] }) = .next t ∧
    frameOf t 3 8 = some g ∧ g.run.selParts = [(1, [0, 2])] ∧ g.run.done = [(1, 4)] := ⟨_, _, rfl, rfl, by decide +kernel⟩

/-- A selection whose die has scanned its elements, and what suppression and zone occupancy read. -/
def scanned (f : Frame) : Frame := { f with maps := [(0, mapOf4)], run := { f.run with done := [(1, 4)], selParts := [(1, [0, 2])] } }
def entryA (i v : Nat) (x : Int) : SelEntry := ⟨i, v, x, 0, 0, false, 0, 0⟩
def withList (f : Frame) : Frame := { f with lists := [(1, [⟨0, 4, [entryA 0 0x3F800000 0, entryA 2 0x40000000 900, entryA 5 0x3F000000 5000], 3, false, false, false, false, 0, 0, 0⟩])] }

theorem witness_selection_merge : ∀ o ∈ [compactOp, suppressOp, zoneOp], let f := withList (scanned (weighted (orderedFrame 3)))
    let s := stageState o f
    ctxOf s 3 = some (onTrain ctxA) ∧ frameOf s 3 8 = some f ∧ isSelOp (runOp s f) = true ∧ stageServes s f 1 0x0F = true ∧
      selScanned (onTrain ctxA) (declOf s 1) f (runOp s f) [1] = true := by decide +kernel

theorem test_suppression_keeps_the_best_within_the_radius : ∃ t g, exec (.selectionMerge 3 8) (stageState suppressOp (withList (weighted (orderedFrame 3)))) = .next t ∧
    frameOf t 3 8 = some g ∧ (listOf g 2).map (fun l => l.entries.map (·.index)) = [[2, 5]] := ⟨_, _, rfl, rfl, by decide +kernel⟩

/-- Best-effort frames: one that waits for its only die, and one whose other die has not started it. -/
def bestFrame : Frame := frameIn ctxA .waiting
theorem witness_best_effort : ∀ m ∈ [2, 6], let c := { ctxA with guaranteed := false, dieMask := m }
    let s := withFrame noOps c bestFrame
    invB s = true ∧ isDie s 1 = true ∧ (dieOf s 1).beRun = none ∧ waitsFor s 1 = [bestFrame] ∧
      (frameDies s bestFrame).all (fun d => d == 1 || runsOn s bestFrame d) = decide (m = 2) := by decide +kernel

/-! ## Witnesses: verdicts and stop outputs -/

/-- A protective square zone of 2,000 units about the origin, at every height to 1,000. -/
def zoneA : List Byte :=
  let v := fun (x y : Int) => leBytes 4 (x % 2 ^ 32).toNat ++ leBytes 4 (y % 2 ^ 32).toNat
  padTo 64 ([0, 4] ++ leBytes 2 1 ++ leBytes 4 0 ++ leBytes 4 1000 ++ leBytes 4 0 ++ v (-1000) (-1000) ++ v 1000 (-1000) ++ v 1000 1000 ++ v (-1000) 1000)

theorem test_zone_measure : zoneOk zoneA = true ∧ measure zoneA 0 0 500 = (true, 0) ∧ measure zoneA 1250 0 500 = (false, 250) ∧
    measure zoneA 0 0 1300 = (false, 300) := by decide +kernel

def ctxZ (guar : Bool) : Ctx := { ctxA with guaranteed := guar, zones := [zoneA], zst := [⟨0, false, false, false, false⟩] }
def checked (phase : FPhase) : Frame := { frameIn ctxA phase with pts := [⟨0, 0, 500, 0, 7, 0, 0⟩], chkPts := [0], poses := [(7, identity)], cutoff := 20000000000000 }

/-- Checker verdicts that are ready, fail, and come after the seal. -/
theorem witness_checker : ∀ x ∈ [(FPhase.pending, false), (FPhase.pending, true), (FPhase.sealed, false)], let f := checked x.1
    let s := { withFrame noOps (ctxZ true) f with zck := { live.zck with dead := x.2 } }
    hubServes s 0x10 = true ∧ ctxOf s 3 = some (onTrain (ctxZ true)) ∧ s.frames.find? (fun f => f.ctx == 3 && f.num == 8 && f.phase != .opened && !f.chkReady) = some f ∧
      pastCutoff s (onTrain (ctxZ true)) f = false ∧ chkFails s (onTrain (ctxZ true)) f = x.2 ∧ chkTaken s (onTrain (ctxZ true)) f = true := by decide +kernel

theorem test_checker_counts_the_point : ∃ t g, exec (.checkerVerdictReady 3 8) (withFrame noOps (ctxZ true) (checked .pending)) = .next t ∧
    frameOf t 3 8 = some g ∧ g.chk = some ⟨[1], [0], false, false⟩ := ⟨_, _, rfl, rfl, by decide +kernel⟩

def mlClear : MlRes := ⟨[0], [400], false⟩
theorem witness_ml_results : let f := { checked .accepted with ml := some mlClear }
    let s := withFrame noOps (ctxZ true) f
    ctxOf s 3 = some (onTrain (ctxZ true)) ∧ frameOf s 3 8 = some f ∧ f.phase = .accepted ∧ f.ml.isSome = true ∧ pastCutoff s (onTrain (ctxZ true)) f = false := by
  decide +kernel

/-- A frame whose cut-off has passed, poisoned or not. -/
theorem witness_checker_late : ∀ b ∈ [true, false], let f := { checked .accepted with cutoff := 5, poisoned := b }
    let s := withFrame noOps (ctxZ true) f
    hubServes s 0x10 = true ∧ ctxOf s 3 = some (onTrain (ctxZ true)) ∧
      s.frames.find? (fun f => f.ctx == 3 && f.num == 8 && f.phase != .opened && !f.chkReady) = some f ∧
      pastCutoff s (onTrain (ctxZ true)) f = true ∧ chkTaken s (onTrain (ctxZ true)) f = true := by decide +kernel

/-- Frames to seal: refused, accepted and guaranteed with both verdicts in, and best effort. -/
def sealFrameOf (phase : FPhase) : Frame := { checked phase with mlIn := true, ml := some mlClear, chkReady := true, chk := some ⟨[1], [0], false, false⟩ }

theorem witness_frame_seal : ∀ x ∈ [(FPhase.refused, true), (FPhase.accepted, true), (FPhase.accepted, false)], let f := sealFrameOf x.1
    let c := onTrain (ctxZ x.2)
    let s := withFrame noOps (ctxZ x.2) f
    invB s = true ∧ hubServes s 0x11 = true ∧ ctxOf s 3 = some c ∧ frameOf s 3 8 = some f ∧ f.chkReady = true ∧ f.mlIn = true ∧ f.chk.isSome = true ∧ s.zck.dead = false ∧ s.raw ≤ f.cutoff := by
  decide +kernel

theorem test_a_zone_either_path_finds_is_occupied : ∃ t c, exec (.frameSeal 3 8) (withFrame noOps (ctxZ true) (sealFrameOf .accepted)) = .next t ∧ ctxOf t 3 = some c ∧
    c.zst = [⟨1, false, true, true, false⟩] := ⟨_, _, rfl, rfl, by decide +kernel⟩

theorem witness_cutoff : ∀ x ∈ [(false, false), (true, true)], let f := { checked .accepted with cutoff := 5, poisoned := x.1, chkReady := x.2 }
    let s := withFrame noOps (ctxZ true) f
    invB s = true ∧ hubServes s 0x11 = true ∧ ctxOf s 3 = some (onTrain (ctxZ true)) ∧ frameOf s 3 8 = some f ∧ (onTrain (ctxZ true)).guaranteed = true ∧ f.phase = .accepted ∧ f.cutoff ≤ s.raw := by
  decide +kernel

/-- A part in SERVING with a clear member, and the stop outputs after edges and silences. -/
def serving1 : State :=
  let c := { onTrain ctxA with sentAt := some live.raw, sentClear := true, chkClear := true }
  cfgPut { live with pwr := { live.pwr with st := 4, target := 4 }, ctxs := [c] } rVrdCtxCfg 3 (2 ^ 21)

theorem witness_stop_boundary : invB serving1 = true ∧ serving1.zck.boundary + 500000 ≤ serving1.raw ∧ serving1.pwr.st = 4 ∧ serving1.pwr.changing = false ∧ partOn serving1 = true ∧
    (stopMembers serving1).length = 1 ∧ forcedStop serving1 = false ∧ ∀ c ∈ stopMembers serving1, memberClear serving1 c = true := by decide +kernel

theorem test_both_outputs_toggle : ∃ t, exec .stopBoundary serving1 = .next t ∧ t.zck.outA.level = true ∧ t.zck.outB.level = true := ⟨_, rfl, by decide +kernel⟩

theorem witness_readback : ∀ n ∈ [0, 1], let s := { live with zck := { live.zck with outB := { StopSt.reset with edge := some (true, 5), fails := n } } }
    (outOf s .b).edge = some (true, 5) ∧ 5 + 50000 ≤ s.raw ∧ (s.zck.outA.dead && s.zck.outB.dead) = false := by decide +kernel

theorem witness_heartbeat : (outOf live (hearer true)).hb + 100000 ≤ live.raw ∧ (outOf live (hearer false)).hb + 1000000 ≤ live.raw ∧
    (outOf live (hearer false)).dead = false ∧ partOn live = true := by decide +kernel

/-! ## Witnesses: map tables -/

/-- A part of two rows of width 8, with the header of a first part: R = 2, one shard, die 1. -/
def rowRec (cls e : Nat) : List Byte := leBytes 4 cls ++ leBytes 2 e ++ leBytes 14 0
def partBytes : List Byte := leBytes 4 8 ++ leBytes 4 2 ++ [1, 2] ++ leBytes 6 0 ++ rowRec 0 0x3F80 ++ rowRec 1 0x4000
def replaceCmd (flags row count : Nat) : Cmd := cmd 0x0033 0 0 [5, 0, flags, 0, 1, 0, 0, 0, count, 0, 0, 0, row]
def tableA : MapTable :=
  { tableOr live 5 with st := 2, width := 8, shards := 1, dies := 2, small := true, epoch := 3, rows := [storeMapRow 0 [one, one, one, one, one, one, one, one]] }
def loadA (slot : Option Nat) : MapLoad := let l := (records 8 40 (partBytes.drop 16)).map (recordRow 8)
  ⟨8, 2, 1, 2, l, true, l, slot, []⟩
def loading (slot : Option Nat) : MapTable := { tableA with st := 3, load := some (loadA slot) }

/-- A first part that passes, a last part that passes, an abort of an open replacement, and a part out of order. -/
theorem witness_replace : let s := fun (l : List MapTable) (c : Cmd) => holding { live with tables := l } c (memWrite [] 0x401000 partBytes)
    (∀ x ∈ [(([] : List MapTable), replaceCmd 1 0 56), ([], replaceCmd 3 0 56), ([loading none], replaceCmd 4 0 0), ([tableA], replaceCmd 0 0 56)],
      mayStartB (s x.1 x.2) 0 0x0033 x.2 = true ∧ pagesOk (s x.1 x.2) 0 1 1 = true) ∧
      (∀ last ∈ [false, true], partStatus (s [] (replaceCmd 3 0 56)) 5 true last 0 partBytes = 0) ∧
      partStatus (s [tableA] (replaceCmd 0 0 56)) 5 false false 0 partBytes ≠ 0 ∧
      (tableOr (s [loading none] (replaceCmd 4 0 0)) 5).load = some (loadA none) ∧ (loadA (some 4)).slot ≠ some 0 := by decide +kernel

theorem witness_table_switch : let c := replaceCmd 3 0 56
    let s := holding { live with tables := [loading (some 0)] } c []
    invB s = true ∧ tableOf s 5 = some (loading (some 0)) ∧ cmdOf s 0 = some c ∧ boundTo s 5 3 = false ∧ (loading (some 0)).oldRows = none := by decide +kernel

theorem test_table_switch_counts_the_epoch : let s := holding { live with tables := [loading (some 0)] } (replaceCmd 3 0 56) []
    ∃ t y, exec (.tableSwitch 5) s = .next t ∧ tableOf t 5 = some y ∧ y.epoch = 4 ∧ y.rows.map (·.data) = [leBytes 2 0x3F80 ++ leBytes 14 0, [0x40] ++ leBytes 7 0] :=
  ⟨_, _, rfl, rfl, by decide +kernel⟩

/-- A table with a held update, one whose re-class is due, one whose flip is open and one whose flip may switch. -/
def gradA : Grad := ⟨5, 0, List.replicate 8 0x3F800000, 0x3F000000⟩
def withUpdates : MapTable := { tableA with upd := [⟨3, 2, [gradA]⟩, ⟨4, 1, []⟩] }
def flipping (taken : Option Nat) : MapTable := { withUpdates with flip := some ⟨tableA.rows, taken⟩ }

theorem witness_flips : let s := fun (x : MapTable) => cfgPut { live with tables := [x] } rMtuCfg 0 (cfgGet live rMtuCfg 0 % 65536 + 65536 + cfgGet live rMtuCfg 0 / 2 ^ 32 * 2 ^ 32)
    (∀ x ∈ [withUpdates, { tableA with since := 1 }], invB (s x) = true ∧ tableOf (s x) 5 = some x ∧ x.st = 2 ∧ x.flip = none ∧ (reclassDue (s x) x = true ∨ x.upd ≠ []) ∧
      copiesFit (modTable (s x) 5 (fun y => { y with flip := some ⟨x.rows, none⟩ })) x = true) ∧
      (invB (s (flipping none)) = true ∧ tableOf (s (flipping none)) 5 = some (flipping none) ∧ copiesFit (s (flipping none)) (flipping none) = true) ∧
      tableOf (s (flipping (some 2))) 5 = some (flipping (some 2)) ∧ (flipping (some 2)).oldRows = none := by decide +kernel

/-- A flip whose copied rows find no room: of a re-class, and of held updates at the cut-off. -/
theorem witness_flip_held : let x := { tableA with since := 1, rows := [⟨1, leBytes 8 0x40⟩], upd := [⟨3, 2, [gradA]⟩] }
    let y := { x with flip := some ⟨x.rows, none⟩ }
    let s := fun z => cfgPut { live with tables := [z] } rMtuCfg 0 65537
    let v := fun (z : MapTable) rows taken => modTable (s z) 5 (fun w => { w with flip := some ⟨rows, taken⟩ })
    invB (s x) = true ∧ reclassDue (s x) x = true ∧ copiesFit (modTable (s x) 5 (fun w => { w with flip := some ⟨reclassed (s x) x, none⟩, hits := [], since := 0 })) x = false ∧
      invB (s y) = true ∧ y.flip = some ⟨x.rows, none⟩ ∧ copiesFit (v y (reclassed (s y) y) (some 1)) y = false := by decide +kernel

/-! ## Witnesses: links, the halyard, windows, audits -/

/-- A flit of a type with a sequence and its CRC, for port 1 of a die from port 0 of another. -/
def flitOf (seq ty dst src : Nat) : List Byte := flitSeal seq (flitBody 3 ty (dst, 1) (src, 0) [])

/-- Flits at the hub's end of die 1's link: that its sender may send, good, of a wrong sequence, and of a wrong CRC. -/
theorem witness_flits : invB live = true ∧ flitTaken live 0 0 = true ∧ linkPeer live 0 0 = (1, 0) ∧
    (∀ ty ∈ [0, 1, 2, 3, 4], ∀ b ∈ [flitOf 0 ty 0 1, flitOf 1 ty 0 1, List.replicate 72 9], b.length = 72 ∧
      (linkSends (linkOf live 1 0) b).isSome = true) ∧
    (∀ ty ∈ [0, 1, 2, 3, 4], let b := flitOf 0 ty 0 1
      crc16 (b.take 70) = u16 b 70 ∧ byteAt b 0 = (linkOf live 0 0).expect ∧ flitType b = ty ∧ flitDst b = (0, 1) ∧ (flitSrc b).1 = 1) ∧
    byteAt (flitOf 1 0 0 1) 0 ≠ (linkOf live 0 0).expect ∧ crc16 ((List.replicate 72 (9 : Byte)).take 70) ≠ u16 (List.replicate 72 9) 70 ∧
    (dataRoute live 0 1).head? = some (0, 0) ∧ linkExists live 0 0 = true ∧
    (flitDst (flitOf 0 0 3 1)).1 = 3 ∧ isDie live 3 = true ∧ cutOff live 3 = false := by decide +kernel

/-- A sender whose 128 flits are all unacknowledged. -/
theorem witness_flit_no_credit : linkSends { linkOf live 1 0 with held := List.replicate 128 [] } (flitOf 0 0 0 1) = none := by decide +kernel

theorem witness_flit_replays : ∀ n ∈ [7, 8], let s := modLink live 0 6 (fun k => { k with replays := n })
    (linkOf s 0 6).replays = n ∧ flitTaken s 0 6 = true ∧ invB s = true := by decide +kernel

theorem witness_halyard : partOn live = true ∧ nDies live = 7 ∧
    (∀ n ∈ [HalNode.die 0, .die 3, .warden 1 2, .port 1 39], nodeExists live n = true ∧ treeOpen live n = true) ∧ route live 0 3 = some [0, 1, 2] ∧ (List.replicate 16 (0 : Byte)).length = 16 ∧
    [0, 1, 2].find? (fun h => [1].contains h) = some 1 ∧ 1 < live.hops.length ∧
    route { live with hops := updAt (updAt live.hops 0 (fun h => { h with broken := true })) 7 (fun h => { h with broken := true }) } 0 3 = none ∧
    route { live with hops := updAt live.hops 1 (fun h => { h with broken := true }) } 0 3 = some [7, 6, 5, 4, 3] := by decide +kernel

/-- Windows above the floor, below it for the first time and for the tenth. -/
theorem witness_pace_window : (∀ d ∈ [0, 1], dieOn live d = true ∧ 2 ≤ live.pwr.st ∧ pensLive live = true ∧ agedFloor (addWindow live d [15000, 15000, 15000, 15000]) d ≤ paceMeas (addWindow live d [15000, 15000, 15000, 15000]) d) ∧
    (let low := fun n => modDie live 1 (fun x => { x with lowRun := n, paceWins := List.replicate 10 ⟨[(0, 1), (1, 1), (2, 1), (3, 1)]⟩ })
     ∀ n ∈ [0, 9], paceMeas (addWindow (low n) 1 [1, 1, 1, 1]) 1 < agedFloor (addWindow (low n) 1 [1, 1, 1, 1]) 1 ∧ ((dieOf (low n) 1).lowRun + 1 = 10 ↔ n = 9)) := by
  decide +kernel

theorem witness_audit : (∀ d ∈ [0, 7], dieOn live d = true ∧ ((dieOf live d).audits + 1) * 1000000 ≤ live.raw + 10000) ∧ invB live = true := by decide +kernel

theorem test_audit_fences_a_stage_unit_that_differs : ∃ t, exec (.audit 1 [⟨4096 + 7 * 128, 2⟩]) live = .next t ∧ (unitOf t 1 0x07 0).mgmt = .fenced ∧
    t.log.recs.map (·.code) = [0x0120] := ⟨_, rfl, by decide +kernel⟩

/-! ## Witnesses: self-test and fences -/

def testing (t : SelfTest) : State := modDie live 1 (fun x => { x with selftest := t })

/-- A die whose role may start a slice, one that a window blocks, one whose pen still drains, and one that tests a cleared pen. -/
def draining : State := modStall live (stallIdx 1 0) (fun t => { t with drain := 64 })
def clearing (kind : Nat) (t : SelfTest) : State :=
  let c := cmd 0x0060 0 0 [1, kind, 2]
  let s := modDie (holding live c []) 1 (fun x => { x with pens := updAt x.pens 2 (fun _ => ⟨.faulted, .fenced, 0, false⟩), fences := if kind = 0 then [] else [.bank], selftest := t })
  { s with pwr := { s.pwr with clear := some (0, 1, kind, 2, 5) } }
theorem witness_slice_starts : selfTestRuns live 1 = true ∧ penReady live 1 = true ∧ (dieOf live 1).selftest.running = none ∧
    (dieOf live 1).selftest.clearRun = none ∧ sliceBlocked live 1 live.raw = false ∧
    (let u := { live with zck := { live.zck with boundary := live.raw + 1 } }
     selfTestRuns u 1 = true ∧ penReady u 1 = true ∧ sliceBlocked u 1 u.raw = boundaryMeets u u.raw) ∧
    selfTestRuns draining 1 = true ∧ penReady draining 1 = false ∧ clearTests draining 1 = false ∧
    (let u := clearing 0 SelfTest.reset
     clearTests u 1 = true ∧ (dieOf u 1).selftest.running = none ∧ (dieOf u 1).selftest.clearRun = none ∧ sliceBlocked u 1 u.raw = false) := by
  decide +kernel

theorem witness_slice_ends : (∀ x ∈ [(0, false), (9, false), (0, true)], let u := testing { SelfTest.reset with running := some 0, slices := x.1, discard := x.2 }
      invB u = true ∧ isDie u 1 = true ∧ (dieOf u 1).selftest.running = some 0 ∧ 0 + 400000 ≤ u.raw ∧ nextPen u 1 0 = some 1 ∧ ((dieOf u 1).pens[0]?).isSome = true) ∧
    (let u := clearing 0 { SelfTest.reset with clearRun := some 0 }
     (dieOf u 1).selftest.running = none ∧ (dieOf u 1).selftest.clearRun = some 0 ∧ 0 + 400000 ≤ u.raw) := by decide +kernel

/-- Ages past the interval, at its double and at its fourfold. -/
theorem witness_rotation_age : ∀ x ∈ [(1, 1), (2, 0), (4, 0)], let lim := cfgFld live rDcuStCfg 0 31 20 * 1000000
    let u := testing { SelfTest.reset with rotStart := live.raw - x.1 * lim - x.2 }
    invB u = true ∧ isDie u 1 = true ∧ partOn u = true ∧ 3 ≤ u.pwr.st ∧ 0 < pensUp u 1 ∧ u.raw - (dieOf u 1).selftest.rotStart = x.1 * lim + x.2 ∧
      lim < u.raw - (dieOf u 1).selftest.rotStart ∧ (dieOf u 1).selftest.overdueRaised = false := by decide +kernel

/-- A line within a pass, the last of a quick pass and the last of a slow one. -/
def passing (line began : Nat) : State := modDie live 1 (fun x => { x with linePass := [(64 + 3, (line, began))] })
theorem witness_line_test : (∀ x ∈ [(5, 0), (2047, live.raw - 1), (2047, 0)], let u := passing x.1 x.2
      invB u = true ∧ dieOn u 1 = true ∧ 3 ≤ u.pwr.st ∧ isDie u 1 = true ∧ bankIdle u 1 1 3 = true ∧ passAt u 1 1 3 = x) ∧
    ¬ 60000000000 < live.raw - (live.raw - 1) ∧ 60000000000 < live.raw - 0 := by decide +kernel

theorem test_slow_pass_counts : ∃ t, exec (.paddockLineTest 1 1 3 2047 true true) (passing 2047 0) = .next t ∧ cntGet t rDcuStCnt 13 = 1 ∧ cntGet t rDcuStCnt 14 = 1 :=
  ⟨_, rfl, by decide +kernel⟩

/-- A die whose pen 2 is faulted, and one that is fenced as a whole. -/
def penDown : State := modDie live 1 (fun x => { x with pens := updAt x.pens 2 (fun _ => ⟨.faulted, .fenced, 0, false⟩) })
def dieDown : State := modDie live 1 (fun x => { x with fences := [.bank] })

theorem witness_fence_clear : let c := fun (d k p : Nat) => cmd 0x0060 0 0 [d, k, p]
    mayStartB (holding penDown (c 1 0 2) []) 0 0x0060 (c 1 0 2) = true ∧ fenceClearCheck (holding penDown (c 1 0 2) []) 1 0 2 false = 0 ∧
      fenceClearCheck (holding dieDown (c 1 1 0) []) 1 1 0 false = 0 ∧ fenceClearCheck penDown 8 0 2 false ≠ 0 ∧ fenceClearCheck penDown 1 0 1 false ≠ 0 ∧ fenceClearCheck penDown 1 0 4 false ≠ 0 ∧
      fenceClearCheck penDown 1 1 1 false ≠ 0 ∧ fenceClearCheck penDown 1 0 2 true ≠ 0 := by decide +kernel

/-- Tests that are not over, that passed, that failed a slice and that a new fault met; of a pen and of a die. -/
theorem witness_fence_test : ∀ x ∈ [(0, { SelfTest.reset with clearSlices := 9 }), (0, { SelfTest.reset with clearSlices := 10 }), (0, { SelfTest.reset with clearFailed := true }),
      (0, { SelfTest.reset with clearFault := true }), (1, SelfTest.reset), (1, { SelfTest.reset with clearFault := true })],
    let s := clearing x.1 x.2
    let c := cmd 0x0060 0 0 [1, x.1, 2]
    invB s = true ∧ s.pwr.clear = some (0, 1, x.1, 2, 5) ∧ cmdOf s 0 = some c ∧ isDie s 1 = true ∧ (dieOf s 1).fences.any forGood = false ∧
      (x.1 = 0 → dieFenced s 1 = false) ∧ dieOff s 1 = false ∧ ((dieOf s 1).pens[1]?).map unitUp = some true := by decide +kernel

theorem test_pen_cleared : ∃ t, exec (.fenceTestComplete ⟨true, 0⟩) (clearing 0 { SelfTest.reset with clearSlices := 10 }) = .next t ∧ penUp t 1 2 = true ∧
      t.pwr.clear = none := ⟨_, rfl, by decide +kernel⟩

theorem test_die_cleared_but_for_a_failing_pen : ∃ t, exec (.fenceTestComplete ⟨true, 13⟩) (clearing 1 SelfTest.reset) = .next t ∧ penUp t 1 0 = true ∧
      penUp t 1 1 = false ∧ (dieOf t 1).fences = [] := ⟨_, rfl, by decide +kernel⟩

/-! ## Witnesses: memory -/

theorem witness_sram : invB live = true ∧ (∀ d ∈ [0, 1], dieOn live d = true) ∧ sramTarget true 1 = true ∧
    (∀ t ∈ [0, 4, 5, 6, 8, 10], sramTarget false t = true) ∧ (dieOf live 1).stalls.length = 40 ∧
    (∀ x ∈ [(0, 1), (1, 4)], scrubbedAt live x.1 x.2 0 + 1000000000 ≤ live.raw) := by decide +kernel

theorem witness_bursts : (∀ x ∈ [(0, 1), (1, 3)], chanOfDie live x.1 x.2 = true ∧ channelRuns live x.1 x.2 = true ∧ burstExists live x.1 x.2 (2 ^ 32 - 32) = true ∧
    burstExists live x.1 x.2 (2 ^ 32) = false) ∧ chanOfDie live 0 2 = false ∧ cfgFld live rMmcCfg 0 15 0 ≠ 0 ∧ (mmcOf live 1 3).wq = [] ∧ invB live = true ∧
    chanOfDie live 8 0 = false := by decide +kernel

/-- Queues that are empty, and full with one write held. -/
theorem witness_queues : QueueOk (mmcOf live 1 3) ∧ (let s := modMmc live 1 3 (fun m => { m with wq := List.replicate 64 (0, List.replicate 32 1), held := [(32, List.replicate 32 2)] })
    QueueOk (mmcOf s 1 3) ∧ channelRuns s 1 3 = true) := by
  exact ⟨⟨by decide +kernel, by decide +kernel, by decide +kernel⟩, ⟨by decide +kernel, by decide +kernel, by decide +kernel⟩, by decide +kernel⟩

/-- Die 1's scheduler of a channel with its grant at a requester that has had a number of accesses. -/
def grantedMem (ch req used : Nat) : State := setArb live (.mem 1 ch) ⟨List.range 14, [], 1, some req, used⟩
theorem witness_mem_grants : (∀ used ∈ [0, 63, 64], let s := grantedMem 3 3 used
      invB s = true ∧ channelRuns s 1 3 = true ∧ burstExists s 1 3 (memBurst 64) = true ∧ granted s 1 3 3 = true ∧
        (arbOf (drainQueue (writesAhead s 1 3) s 1 3) (.mem 1 3)).owner = some 3 ∧ (arbOf s (.mem 1 3)).used = used) ∧ granted live 1 3 3 = false := by decide +kernel

theorem test_access_past_the_burst_limit_fences : ∃ t, exec (.mmcRead 1 0 32 [] ⟨3, .other⟩) (grantedMem 0 3 64) = .next t ∧ (dieOf t 1).fences = [.burst] ∧
    (t.log.recs.map (·.code)).contains 0x0B80 = true := ⟨_, rfl, by decide +kernel⟩

/-- A burst with one symbol in error decodes to what it was, and one with three symbols in error does not. -/
theorem test_read_corrects_a_symbol : ∃ t, exec (.mmcRead 1 0 32 [0, 255] ⟨3, .other⟩) (grantedMem 0 3 0) = .next t ∧ cntGet t rMmcChCnt (4 * 8) = 1 ∧
    cntGet t rMmcChCnt (4 * 8 + 2) = 0 := ⟨_, rfl, by decide +kernel⟩

theorem test_queued_write_is_seen : ∃ t, exec (.mmcWrite 1 0 64 [7] ⟨3, .other, 0⟩) (grantedMem 0 3 0) = .next t ∧ burstData t 1 0 64 = 7 :: List.replicate 31 0 ∧ storedBurst t 1 0 64 = List.replicate 32 0 :=
  ⟨_, rfl, by decide +kernel⟩

/-- Accesses of domain 0, which descriptor 0 covers, of domain 2, which none covers, and beyond the target. -/
theorem witness_firewall : invB live = true ∧ targetExists live 1 9 = true ∧ targetExists live 1 4 = true ∧ targetExists live 8 9 = false ∧ dieOn live 1 = true ∧
    (∀ t ∈ [4, 9], ∀ w ∈ [false, true], 64 ≤ lineCount live 1 t * 64 ∧ fwPermits live 1 t 0 0 64 w = true ∧ fwPermits live 1 t 2 0 64 w = false) ∧
    lineCount live 1 9 * 64 = 2 ^ 34 ∧ (∀ k ∈ [0, 2], k ∈ domainsOf live .other) ∧ keysFrom 0 (dieOf live 1).loft = true := by decide +kernel

/-- A frame's access to a die that its context does not use. -/
theorem witness_firewall_frame : let s := withFrame noOps ctxA (frameIn ctxA .accepted)
    3 ∈ domainsOf s (.frame 3 8) ∧ dieOn s 2 = true ∧ fwPermits s 2 9 3 0 64 true = false := by decide +kernel

/-! ## Witnesses: leave, power, pace, gating -/

/-- A frame whose activation on die 1 requires 500 mW of leave; its context has a share of 32. -/
def leaveFrame : Frame := actFrame [2] [tileA]
def leaving (c : Ctx) : State := { live with pkgs := [actPkg true], ctxs := [onTrain c], frames := [leaveFrame] }

theorem witness_leave_request : ∀ g ∈ [true, false], let s := leaving { ctxA with guaranteed := g }
    invB s = true ∧ isDie s 1 = true ∧ frameOf s 3 8 = some leaveFrame ∧ servesRun s leaveFrame 1 2 = true ∧ (opFor s leaveFrame 2).cost.leaveReq = true ∧
      (dieOf s 1).grants ++ (dieOf s 1).requests = [] ∧ (opFor s leaveFrame 2).cost.leaveMw = 500 := by decide +kernel

/-- A die with one request: within its reservation, beyond it, unreserved and fitting, and under an alarm. -/
def asking (g : LeaveItem) (alarm : Bool) : State :=
  let therm := { (dieOf live 1).therm with alarmed := alarm }
  modDie (leaving { ctxA with share := 320 }) 1 (fun x => { x with requests := [g], therm := therm })
def askA (fig : Nat) (res : Bool) : LeaveItem := ⟨2, 3, 8, 3, fig, res, 9999999999000⟩

theorem witness_leave_grant : (∀ x ∈ [(0, true), (1000000, true), (0, false), (1000000, false)], let s := asking (askA x.1 x.2) false
      invB s = true ∧ isDie s 1 = true ∧ (dieOf s 1).therm.alarmed = false ∧ (dieOf s 1).requests.find? (·.reserved) = (if x.2 then some (askA x.1 x.2) else none) ∧
        (dieOf s 1).requests.find? (fun g => !g.reserved) = (if x.2 then none else some (askA x.1 x.2)) ∧
        withinReserve s 1 3 x.1 = decide (x.1 = 0) ∧ unresFits s 1 (askA x.1 x.2) = decide (x.1 = 0)) ∧ (dieOf (asking (askA 0 true) true) 1).therm.alarmed = true := by
  decide +kernel

theorem witness_thermal : dieOn live 1 = true ∧ dieOn live 0 = true ∧ 2 ≤ live.pwr.st ∧ live.pins.supplied = true ∧ bitsOf (thermCfg live 1) 31 24 ≤ thermNow 120 := by
  decide +kernel

theorem test_thermal_alarm_at_120 : ∃ t, exec (.thermalSensorUpdate 1 120) live = .next t ∧ (dieOf t 1).therm.alarmed = true ∧ t.log.recs.map (·.code) = [0x0151] :=
  ⟨_, rfl, by decide +kernel⟩

/-- PWR_STATE_SET to each state, to a bad one, below READY with a train, and while a gating executes. -/
theorem witness_power_set : let c := fun n => cmd 0x0050 0 0 [n]
    (∀ n ∈ [0, 1, 2, 3, 4, 5], mayStartB (holding live (c n) []) 0 0x0050 (c n) = true ∧ powerBusy (holding live (c n) []) = false ∧ anyTrain live = false) ∧ live.pwr.st = 3 ∧
      anyTrain { live with ctxs := [onTrain ctxA] } = true ∧ powerBusy { live with pwr := { live.pwr with gate := some (0, 1, 0, 0, 0) } } = true := by decide +kernel

/-- A transition at each state towards a target. -/
def moving (st target : Nat) : State :=
  holding { live with pwr := { live.pwr with changing := true, st := st, target := target, slot := some 0 } } (cmd 0x0050 0 0 [target]) []

theorem witness_power_step : ∀ x ∈ [(4, 3), (3, 2), (2, 1), (1, 0), (1, 2), (2, 3), (3, 4), (4, 0)], let s := moving x.1 x.2
    invB s = true ∧ s.pwr.changing = true ∧ partOn s = true ∧ 1 ≤ s.pwr.st ∧ s.pwr.target ≠ s.pwr.st ∧ framesOut s = false ∧ s.pwr.before = [] ∧
      s.pwr.stepAt + 100000 ≤ s.raw ∧ s.sec.debug ≠ 2 ∧ (cmdOf s 0).isSome = true ∧ s.pwr.slot = some 0 := by decide +kernel

theorem witness_power_step_measured : paceMeasured (moving 2 3) = false ∧
    (let w := fun (d : Die) => { d with paceWins := List.replicate 10 ⟨[]⟩ }
     paceMeasured { moving 2 3 with dies := (moving 2 3).dies.map w } = true ∧ invB { moving 2 3 with dies := (moving 2 3).dies.map w } = true) := by
  decide +kernel

theorem witness_power_step_waits : framesOut { moving 4 3 with frames := [frameIn ctxA .accepted] } = true ∧
    ((moving 1 0).pwr.st = 1 ∧ (cmdOf (moving 1 0) 0).isSome = true) ∧
    (let s := { moving 2 3 with pwr := { (moving 2 3).pwr with stepAt := live.raw } }
     s.raw < s.pwr.stepAt + 100000) ∧ ({ moving 2 1 with sec := { live.sec with debug := 2 } } : State).sec.debug = 2 := by decide +kernel

/-- PACE_SET to a higher and a lower level without a frame to wait for, to the lower with one, to the same level and a bad one. -/
theorem witness_pace_set : let c := fun n => cmd 0x0051 0 0 [n]
    let s := fun (l : List Frame) n => holding { live with frames := l } (c n) []
    (∀ n ∈ [0, 1, 2, 3], mayStartB (s [] n) 0 0x0051 (c n) = true ∧ powerBusy (s [] n) = false ∧ paceNoFit (s [] n) n = false) ∧ live.pwr.level = 1 ∧
      (∀ n ∈ [0, 2], (computeDies live).any (fun d => !leaveFits live d n (baseLeave live d n)) = false) ∧
      mayStartB (s [frameIn ctxA .accepted] 0) 0 0x0051 (c 0) = true ∧ acceptedFrames (s [frameIn ctxA .accepted] 0) = [(3, 8)] := by decide +kernel

theorem witness_pace_step : ∀ d ∈ [none, some 5], let s := holding { live with pwr := { live.pwr with paceTo := some 2, paceDriven := d, paceSlot := 0 } } (cmd 0x0051 0 0 [2]) []
    invB s = true ∧ s.pwr.paceTo = some 2 ∧ s.pwr.paceDriven = d ∧ s.pwr.paceWait = [] ∧ 5 + 600000 ≤ s.raw ∧ s.pwr.paceSlot < 16384 ∧ cmdOf s 0 = some (cmd 0x0051 0 0 [2]) := by
  decide +kernel

/-- GATE_SET: pens off and on, a die off and on, what is already so, and a die that does not exist. -/
theorem witness_gate_set : let c := fun (d m a : Nat) => cmd 0x0052 0 0 [d, m, a]
    (∀ x ∈ [(1, 4, 0), (1, 4, 1), (1, 0, 2), (1, 0, 3), (8, 0, 2)], mayStartB (holding live (c x.1 x.2.1 x.2.2) []) 0 0x0052 (c x.1 x.2.1 x.2.2) = true) ∧
      (∀ x ∈ [(4, 0), (4, 1), (0, 2), (0, 3)], gateCheck live 1 x.1 x.2 false = 0) ∧ gateCheck live 8 0 2 false ≠ 0 ∧ gateCheck live 1 4 0 true ≠ 0 ∧ dieOff live 1 = false ∧
      (let off := { live with pwr := { live.pwr with diesOff := [1] } }
       dieOff off 1 = true ∧ gateCheck off 1 0 2 false = 0 ∧ gateCheck off 1 0 3 false = 0) := by decide +kernel

theorem test_pens_off_take_their_stalls : ∃ t, exec (.gateSet 0) (holding live (cmd 0x0052 0 0 [1, 4, 0]) []) = .next t ∧ penUp t 1 2 = false ∧ stallsAvail t 1 = 20 :=
  ⟨_, rfl, by decide +kernel⟩

theorem witness_gate_completions : ∀ act ∈ [0, 1, 3], let c := cmd 0x0052 0 0 [1, 4, act]
    let s := holding { live with pwr := { live.pwr with gate := some (0, 1, 4, act, 5), diesOff := if act = 3 then [1] else [] } } c []
    invB s = true ∧ cmdOf s 0 = some c ∧ isDie s 1 = true ∧ s.pwr.gate = some (0, 1, 4, act, 5) ∧ 5 + 400000 ≤ s.raw ∧ ((dieOf s 1).pens[2]?).isSome = true := by
  decide +kernel

/-! ## Witnesses: logs, security, start-up -/

/-- EVENT_LOG_READ and LIFELOG_READ of a record, from beyond the newest, of no page and of a page of another channel's window. -/
def logged1 : State :=
  { live with log := ⟨[⟨0x0151, 8192, 1, 7, leBytes 16 0⟩], 2, []⟩, life := { live.life with recs := [⟨9, 1, false, 1, 0, [1, 110], false⟩], next := 2 } }

theorem witness_log_reads : ∀ code ∈ [0x0061, 0x0053], ∀ x ∈ [(1, 1), (2, 1), (1, 0)], let c := cmd code 0 0 [x.1, 0, 0, 0, 1, 0, x.2]
    let s := holding logged1 c []
    mayStartB s 0 code c = true ∧ pagesOk s 0 1 1 = true ∧ s.log.next = 2 ∧ s.life.next = 2 ∧ byteAt c.bytes 22 = x.2 ∧ u32 c.bytes 16 = x.1 := by decide +kernel

theorem test_event_record_bytes : (logBytes ⟨0x0151, 8192, 1, 7, leBytes 16 0⟩).take 16 = [0x51, 0x01, 0, 0x20, 1, 0, 0, 0, 7, 0, 0, 0, 0, 0, 0, 0] := by decide

/-- FW_UPDATE: a first part, a part on an open update, an abort with and without one, and a last part that is no envelope. -/
theorem witness_fw_update : let c := fun (flags off : Nat) => cmd 0x0070 0 0 [1, 0, flags, 0, 16, 0, 0, 0, off]
    let s := fun (u : Option (List Byte)) (y : Cmd) => holding { live with sec := { live.sec with upd := u } } y []
    (∀ x ∈ [(none, c 1 0), (some (leBytes 8 5), c 0 8), (some (leBytes 8 5), c 4 0), (none, c 4 0), (none, c 3 0)], mayStartB (s x.1 x.2) 0 0x0070 x.2 = true ∧
      pagesOk (s x.1 x.2) 0 1 1 = true) ∧ partWrong (s none (c 1 0)) true 0 = false ∧ partWrong (s (some (leBytes 8 5)) (c 0 8)) false 8 = false ∧
      (∀ k ∈ [c 3 0], envCheck (s none k) (fwRule (staged (s none k) 0 1 16)) (staged (s none k) 0 1 16) ≠ 0) := by decide +kernel

/-- An image waits to be programmed. -/
theorem witness_flash_program : let c := cmd 0x0070 0 0 [1, 0, 3, 0, 16]
    let s := holding { live with sec := { live.sec with updSlot := some 0, updImage := some ⟨true, 3, 1, leBytes 64 9⟩ } } c []
    invB s = true ∧ s.sec.updSlot = some 0 ∧ s.sec.updImage = some ⟨true, 3, 1, leBytes 64 9⟩ ∧ cmdOf s 0 = some c := by decide +kernel

theorem test_programmed_image_is_the_candidate : let c := cmd 0x0070 0 0 [1, 0, 3, 0, 16]
    ∃ t, exec (.flashProgramComplete true) (holding { live with sec := { live.sec with updSlot := some 0, updImage := some ⟨true, 3, 1, leBytes 64 9⟩ } } c []) = .next t ∧
      (bootRec t.nv).cand = 1 ∧ (bootRec t.nv).active = 0 ∧ (t.nv.images.map (·.svn)) = [0, 3] := ⟨_, rfl, by decide +kernel⟩

/-- BUNDLE_APPLY in a part that is not deployed. -/
theorem witness_bundle_refused : let c := cmd 0x0032 0 0 [1, 0, 0, 0, 64]
    mayStartB (holding live c []) 0 0x0032 c = true ∧ deployed (holding live c []) = false := by decide +kernel

/-- ATTEST with the device key, without it, with a failed source, and into page 0. -/
theorem witness_attest : let c := fun p => cmd 0x0071 0 0 [p]
    let s := fun (k : Bool) (n p : Nat) => holding { live with nv := { live.nv with seed := some 77 }, sec := { live.sec with keyReady := k, trng := n } } (c p) []
    (∀ x ∈ [(true, 1, 1), (false, 1, 1), (true, 3, 1), (true, 1, 0)], mayStartB (s x.1 x.2.1 x.2.2) 0 0x0071 (c x.2.2) = true ∧
      pagesOk (s x.1 x.2.1 x.2.2) 0 x.2.2 2 = decide (x.2.2 = 1)) ∧ (s true 1 1).nv.seed = some 77 := by decide +kernel

/-- DEBUG_CHALLENGE of each level and of a bad one, at each debug level, and with a failed source. -/
theorem witness_challenge : let c := fun l => cmd 0x0072 0 0 [l]
    ∀ l ∈ [0, 1, 2, 3], ∀ x ∈ [(0, 1), (1, 1), (2, 1), (0, 3)], let s := holding { live with sec := { live.sec with debug := x.1, trng := x.2 } } (c l) []
      mayStartB s 0 0x0072 (c l) = true ∧ s.sec.debug = x.1 ∧ s.sec.trng = x.2 := by decide +kernel

/-- DEBUG_UNLOCK of a new part without a page: no challenge, and one of each level, alone and with a context. -/
theorem witness_unlock : let c := cmd 0x0073 0 0 []
    let s := fun (k : Option (Nat × List Byte × Nat)) (l : List Ctx) => holding { live with ctxs := l, sec := { live.sec with chal := k } } c []
    (∀ k ∈ [none, some (1, leBytes 16 3, 5), some (2, leBytes 16 3, 5)], ∀ l ∈ [[], [ctxA]], mayStartB (s k l) 0 0x0073 c = true ∧ (s k l).sec.chal = k ∧
      pagesOk (s k l) 0 0 (pageCount (u32 c.bytes 20)) = true ∧ u32 c.bytes 20 = 0 ∧ lifecycle (s k l).nv = 0) := by decide +kernel

theorem test_unlock_of_a_new_part : ∃ t, exec (.debugUnlock 0 ⟨true, true, true⟩) (holding { live with sec := { live.sec with chal := some (2, leBytes 16 3, 5) } } (cmd 0x0073 0 0 []) []) = .next t ∧
    t.sec.debug = 2 ∧ t.sec.chal = none ∧ t.log.recs.map (fun r => (r.code, r.whr)) = [(0x1582, 2)] := ⟨_, rfl, by decide +kernel⟩

theorem witness_lifecycle_set : let c := cmd 0x0074 0 0 [1, 0, 1, 0, 64]
    mayStartB (holding live c []) 0 0x0074 c = true ∧ lifecycle live.nv = 0 ∧ lifeListed live 1 = true ∧ lifeListed live 2 = false ∧
      pagesOk (holding live c []) 0 (u16 c.bytes 18) (pageCount (u32 c.bytes 20)) = true ∧ envCheck (holding live c []) (lifeRule (holding live c []) 1 []) [] ≠ 0 := by decide +kernel

theorem witness_expiries : (∀ d ∈ [1, 2], let s := { live with sec := { live.sec with debug := d, until_ := some 5, resetAt := some 6, chal := some (1, leBytes 16 3, 5) } }
    invB s = true ∧ 5 + 60000000000 ≤ s.raw ∧ s.sec.debug = d ∧ s.sec.until_ = some 5 ∧ s.sec.resetAt = some 6) := by decide +kernel

/-- Resets reach a part that runs; the pin's only one whose pin is high. -/
theorem witness_resets : live.boot.phase ≠ .off ∧ live.pins.resetN = true ∧ partOn live = true ∧ (∃ s : State, s.boot.phase = .off) :=
  ⟨by decide, rfl, by decide, { live with boot := { live.boot with phase := .off } }, rfl⟩

/-- What start-up finds: all well, and the failures of steps 1, 3, 5, 6 and 7. -/
def wellDie : DieReport := ⟨true, 15, [2, 2, 2, 2], 15, [], true⟩
def wellBoot : BootReport :=
  { ns := 1000000000, flashOk := true, otpOk := true, hubTrained := true, hubCaps := [2, 2], hubOk := true, trngFails := 0, owner0Ok := true, owner1Ok := true, supplied := true, tripClear := true,
    dies := List.replicate 7 wellDie, pace := [40000, 15000, 15000, 15000, 15000, 15000, 15000, 15000] }

theorem witness_start_up : invB State.reset = true ∧ State.reset.boot.phase = .held ∧ chooseImage (countAttempt State.reset.nv) = some (0, false) ∧
    populationOk State.reset wellBoot = true ∧ populationOk State.reset { wellBoot with hubCaps := [2, 3] } = false ∧
    chooseImage { State.reset.nv with images := [] } = none := by decide +kernel

/-- The last instant of a start-up that takes 1 s from its release. -/
def lastInstant (rep : BootReport) : State := { bootBegin State.reset rep with raw := 999999999 }

theorem witness_start_up_ends : ∀ rep ∈ [wellBoot, { wellBoot with otpOk := false }, { wellBoot with flashOk := false }, { wellBoot with hubTrained := false },
      { wellBoot with hubCaps := [2, 3] }, { wellBoot with hubOk := false }], let s := lastInstant rep
    invB s = true ∧ s.pending = [] ∧ s.boot.phase ≠ .off ∧ s.pins.supplied = true ∧ s.boot.plan = some rep ∧ s.boot.phase = .starting ∧ s.boot.doneAt ≤ s.raw + 1 := by
  decide +kernel

theorem test_start_up_to_ready : ∃ t, step (lastInstant wellBoot) = .next t ∧ t.boot.phase = .running ∧ t.boot.diesUp = 254 ∧ t.boot.cause = 1 ∧
    t.pwr.st = 3 ∧ t.log.recs.map (·.code) = [0x1481, 0x1683] := ⟨_, rfl, by decide +kernel⟩

theorem witness_entropy : (∀ n ∈ [1, 2], let s := { live with sec := { live.sec with trng := n, trngAt := 5 } }
    invB s = true ∧ partOn s = true ∧ 2 ≤ s.pwr.st ∧ s.sec.trng = n ∧ s.sec.trngAt + 1000000 ≤ s.raw) ∧ ({ live with pins := { live.pins with supplied := false } } : State).pins.supplied = false := by
  decide +kernel

/-! ## Witnesses: the life log -/

/-- A part whose checkpoint, daily indices and year are due. -/
def aged : State := { live with life := { live.life with opNs := 10 * 8760 * 3600000000000, readyNs := 5 * 86400000000000, yearDays := [(1, [9000, 8000, 9500])] } }

theorem witness_life_log : invB aged = true ∧ partOn aged = true ∧ aged.life.lastCkpt + cfgFld aged rLflCfg 0 15 0 * 60000000000 ≤ aged.life.opNs ∧
    3 ≤ aged.pwr.st ∧ ((totOf aged 1).days + 1) * 86400000000000 ≤ aged.life.readyNs ∧ 1 < aged.life.tot.length ∧
    (aged.life.years + 1) * (8760 * 3600000000000) ≤ aged.life.opNs ∧ aged.life.next + (checkpointBody aged).length ≤ 65536 ∧ aged.life.next + nDies aged ≤ 65536 ∧
    mapGet [] aged.life.yearDays 1 ≠ [] := by decide +kernel

theorem test_year_record_of_a_die : ∃ t, exec (.agingYear true) aged = .next t ∧ (dieOf t 1).aging.years = [⟨1, 8000, 9000, 3⟩] ∧ t.life.years = 1 := ⟨_, rfl, by decide +kernel⟩

/-! ## Witnesses: signed envelopes

The tests' owner has the key whose polynomial is the number 111: c = 111 × (c / 111) + c % 111 then gives a short signature of
every message. Envelopes that Felsol signs verify under opaque keys, and tokens and unlock responses name a device
whose identifier is opaque: no concrete one can be shown. -/

/-- The first bytes of SHAKE256 of nothing, as FIPS 202 is published with. -/
theorem test_shake256_of_nothing : shake256 [] 4 = [0x46, 0xB9, 0xDD, 0x2B] := by decide +kernel


def ownerPub : List Byte := [0x0A, 0x01, 0xBC] ++ List.replicate 1790 0

/-- The owner's signature, with a nonce of zeros: 1,024 coefficients of 9 bits each. -/
def ownerSign (msg : List Byte) : List Byte :=
  0x3A :: List.replicate 40 0 ++ beBytes 1152 ((hashToPoint (List.replicate 40 0) msg).foldl (fun a c => 512 * a + (2 * (c / 111) + 1)) 0)

/-- Bytes 0 to 103 of an envelope of the owner, bound to no device, and the envelope. -/
def ownerHead (kind : Nat) (body : List Byte) : List Byte :=
  leBytes 4 0x4C534E56 ++ leBytes 1 kind ++ leBytes 1 1 ++ leBytes 2 0 ++ leBytes 4 body.length ++ leBytes 28 0 ++ shake256 body 64
def ownerEnv (kind : Nat) (body : List Byte) : List Byte :=
  let head := ownerHead kind body
  head ++ leBytes 2 1193 ++ leBytes 6 0 ++ padTo 1536 (ownerSign head) ++ body

/-- A deployed part in READY. -/
def owned : State := { live with nv := { live.nv with seed := some 77, provisioned := true, owner0 := some ⟨0, ownerPub, 77, 0, ownerPub⟩ } }

set_option maxRecDepth 20000

/-- An envelope of kind 2 or 3 that names no device is judged by its bytes and the owner's key alone. -/
theorem envCheck_owner (s : State) (kind : Nat) (b : List Byte) (hk : kind = 2 ∨ kind = 3) (hz : allZero (slice b 24 16) = true) :
    envCheck s ⟨kind, 1, true, ownerPub⟩ b = envCheck owned ⟨kind, 1, true, ownerPub⟩ b := by
  rcases hk with rfl | rfl <;> simp [envCheck, envBound, envForm, envSigner, hz]

theorem inv_holding (s : State) (c : Cmd) (m : Memory) (h : Inv (holding s c [])) (w : m.wf = true) : Inv (holding s c m) := by
  obtain ⟨h1, h2, h3⟩ := h
  refine ⟨h1, fun k hk => ?_, h3⟩
  rcases List.mem_cons.1 hk with rfl | hk
  · obtain ⟨-, h5⟩ := h2 _ (List.mem_cons_self ..)
    exact ⟨w, h5⟩
  · exact h2 k (List.mem_cons_of_mem _ hk)

theorem staged_holding (s : State) (c : Cmd) (m : Memory) (n : Nat) : staged (markStarted (holding s c m) 0) 0 1 n = memRead m 0x401000 n := rfl
theorem may_start_holding (s : State) (c : Cmd) (m : Memory) (code : Nat) (h : mayStartB (holding s c []) 0 code c = true) (w : m.wf = true) :
    MayStart (holding s c m) 0 code c := by
  have h := mayStart_of _ _ _ _ h
  exact ⟨inv_holding _ _ _ h.1 w, h.2.1, h.2.2⟩

/-- A minimal package: deskew, voxelise, curve order, a scatter, a selection and zone occupancy. -/
def opLen (n code : Nat) (b : List Byte) : OpDecl := ⟨padTo n (leBytes 2 code ++ b), ⟨0, 1, false, 0⟩, 0⟩
def pkgA : PkgDecl :=
  (pkgWith [opLen 16 0x10 (leBytes 2 0 ++ leBytes 4 1000), ⟨vhuOp.desc.take 48, vhuOp.cost, 0⟩, opLen 16 0x12 [],
    opLen 32 0x40 (leBytes 14 0 ++ [1, 1]), opLen 48 0x50 (leBytes 4 0 ++ List.replicate 10 0xFF ++ leBytes 4 4 ++ leBytes 4 0 ++ [4, 0, 1, 0] ++ leBytes 4 0),
    opLen 16 0x53 [1]] [padTo 16 (leBytes 2 4 ++ leBytes 2 32 ++ leBytes 2 2 ++ leBytes 2 2)] [padTo 16 ([0, 4] ++ leBytes 2 32)]).decl

def pkgEnv : List Byte := ownerEnv 2 (leBytes 8 5)
def loadCmd : Cmd := cmd 0x0030 0 0 [1, 0, 0, 0, 0x78, 0x06]

theorem pkgEnv_length : pkgEnv.length = 1656 := by decide +kernel
theorem pkgEnv_verifies : envCheck owned ⟨2, 1, true, ownerPub⟩ pkgEnv = 0 ∧ allZero (slice pkgEnv 24 16) = true := by decide +kernel
theorem pkgA_passes : pkgStatus pkgA = 0 := by decide +kernel

/-- A package whose envelope the owner signed loads: every hypothesis of PKG_LOAD's statement is met together. -/
theorem witness_pkg_load : let s := holding owned loadCmd (memWrite [] 0x401000 pkgEnv)
    let u := markStarted s 0
    let b := staged u 0 (u16 loadCmd.bytes 16) (u32 loadCmd.bytes 20)
    MayStart s 0 0x0030 loadCmd ∧ pagesOk u 0 (u16 loadCmd.bytes 16) (pageCount (u32 loadCmd.bytes 20)) = true ∧ deployed u = true ∧
      envCheck u ⟨2, 1, true, ownerKey s.nv⟩ b = 0 ∧ pkgStatus pkgA = 0 ∧ pkgFits u (envBody b).length = true := by
  have hp : u16 loadCmd.bytes 16 = 1 := by decide +kernel
  have e : u32 loadCmd.bytes 20 = pkgEnv.length := (by decide +kernel : u32 loadCmd.bytes 20 = 1656).trans pkgEnv_length.symm
  have hb := (staged_holding owned loadCmd _ _).trans ((congrArg _ e).trans (memRead_memWrite (m := []) 0x401000 pkgEnv rfl))
  refine ⟨may_start_holding _ _ _ _ (by decide +kernel) (memWrite_wf _ _ rfl), rfl, rfl, ?_, pkgA_passes, ?_⟩
  · rw [hp, hb]
    exact (envCheck_owner _ 2 _ (.inl rfl) pkgEnv_verifies.2).trans pkgEnv_verifies.1
  · rw [hp, hb, show (envBody pkgEnv).length = 8 by simp [envBody, pkgEnv_length]]
    decide +kernel

/-- A bundle that writes MMC_CFG, for a part in READY, where it applies at once, and in SERVING, where it waits. -/
def bundleBody : List Byte := leBytes 4 1 ++ leBytes 4 0 ++ (leBytes 2 0x1200 ++ leBytes 2 0 ++ leBytes 4 0 ++ leBytes 8 100 ++ leBytes 8 0xFFFF)
def bundleEnv : List Byte := ownerEnv 3 bundleBody
def bundleCmd : Cmd := cmd 0x0032 0 0 [1, 0, 0, 0, 0x90, 0x06]
def ownedIn (st : Nat) : State := { owned with pwr := { owned.pwr with st := st, target := st } }

theorem bundleEnv_length : bundleEnv.length = 1680 := by decide +kernel
theorem bundleEnv_verifies : envCheck owned ⟨3, 1, true, ownerPub⟩ bundleEnv = 0 ∧ allZero (slice bundleEnv 24 16) = true := by decide +kernel
theorem bundleEnv_body : envBody bundleEnv = bundleBody := by decide +kernel

/-- What BUNDLE_APPLY's checks find, whatever the aperture holds. -/
theorem bundle_state (st : Nat) (h : st = 3 ∨ st = 4) (m : Memory) : let u := markStarted (holding (ownedIn st) bundleCmd m) 0
    let r := bundleRecs u bundleBody (u32 bundleBody 0) 0 []
    r.2.1 = 0 ∧ commitCheck u (spread u r.1) = 0 ∧ ((startCommit u 0 true (spread u r.1)).2.todo = [] ↔ st = 3) := by
  have k : ∀ st ∈ [3, 4], let u := markStarted (holding (ownedIn st) bundleCmd []) 0
      let r := bundleRecs u bundleBody (u32 bundleBody 0) 0 []
      r.2.1 = 0 ∧ commitCheck u (spread u r.1) = 0 ∧ ((startCommit u 0 true (spread u r.1)).2.todo = [] ↔ st = 3) := by decide +kernel
  exact k st (by simpa using h)

theorem witness_bundle (st : Nat) (h : st = 3 ∨ st = 4) : let s := holding (ownedIn st) bundleCmd (memWrite [] 0x401000 bundleEnv)
    let u := markStarted s 0
    let b := staged u 0 (u16 bundleCmd.bytes 16) (u32 bundleCmd.bytes 20)
    let d := envBody b
    let r := bundleRecs u d (u32 d 0) 0 []
    MayStart s 0 0x0032 bundleCmd ∧ pagesOk u 0 (u16 bundleCmd.bytes 16) (pageCount (u32 bundleCmd.bytes 20)) = true ∧ deployed u = true ∧
      envCheck u ⟨3, 1, true, ownerKey u.nv⟩ b = 0 ∧ u.txn.st = 0 ∧ bundleForm d = true ∧ r.2.1 = 0 ∧ commitCheck u (spread u r.1) = 0 ∧
      ((startCommit u 0 true (spread u r.1)).2.todo = [] ↔ st = 3) := by
  have hp : u16 bundleCmd.bytes 16 = 1 := by decide +kernel
  have e : u32 bundleCmd.bytes 20 = bundleEnv.length := (by decide +kernel : u32 bundleCmd.bytes 20 = 1680).trans bundleEnv_length.symm
  have hb := (staged_holding (ownedIn st) bundleCmd _ _).trans ((congrArg _ e).trans (memRead_memWrite (m := []) 0x401000 bundleEnv rfl))
  have hm : mayStartB (holding (ownedIn st) bundleCmd []) 0 0x0032 bundleCmd = true := by rcases h with rfl | rfl <;> decide +kernel
  have hv := (envCheck_owner (markStarted (holding (ownedIn st) bundleCmd (memWrite [] 0x401000 bundleEnv)) 0) 3 _ (.inr rfl) bundleEnv_verifies.2).trans
    bundleEnv_verifies.1
  have hd := bundle_state st h (memWrite [] 0x401000 bundleEnv)
  intro s u b d r
  have hbe : b = bundleEnv := by simp only [b, hp]; exact hb
  have hde : d = bundleBody := by simp only [d, hbe]; exact bundleEnv_body
  refine ⟨may_start_holding _ _ _ _ hm (memWrite_wf _ _ rfl), rfl, rfl, ?_, rfl, ?_, ?_⟩
  · rw [hbe]; exact hv
  · rw [hde]; decide +kernel
  · simp only [r, hde]; exact hd

/-! ## Further witnesses: the port, the mailbox, configuration -/

/-- Units of the identity page, with row 0 open in banks 0 and 1, and metadata of the host's for one of them. -/
theorem witness_identity_units : [(0, 0, 0), (0, 0, 1), (0, 1, 0), (0, 4, 0), (0, 4, 1), (1, 0, 0)].map (fun x => burstOff 0 x.1 x.2.1 x.2.2) = [0, 0x20, 0x40, 0x100, 0x120, 0x1000] ∧
    (∀ x ∈ [(0, 0, 0), (0, 0, 1), (0, 1, 0), (0, 4, 0), (0, 4, 1), (1, 0, 0)], burstOk x.2.2 x.1 x.2.1 = true ∧ regionOf (burstOff 0 x.1 x.2.1 x.2.2) = .identity ∧
      (let s := { live with chans := [{ Chan.reset with rows := [(rowKey x.2.2 x.1, 0)], hostMeta := [(0, 5)] }, Chan.reset] }
       invB s = true ∧ portReady s 0 x.2.2 = true ∧ mapFind (chanOf s 0).rows (rowKey x.2.2 x.1) = some 0 ∧ (chanOf s 0).lowLat = [] ∧
         mapFind (chanOf s 0).hostMeta 0 = some 5 ∧ mapFind (chanOf s 0).hostMeta (burstOff 0 0 4 1 / 32) = none)) ∧ (List.replicate 32 (0 : Byte)).length = 32 := by decide +kernel

theorem test_identity_page_begins_with_the_magic : ∃ t, exec (.hostRead 0 0 0 0 false []) (rowAt 0) = .next t ∧
    (chanOf t 0).rdData.take 9 = [0x80, 0x08, 0x4E, 0x4C, 1, 0, 8, 0x10, 7] := ⟨_, rfl, by decide +kernel⟩

set_option maxRecDepth 20000 in
/-- A PACE_SET acts at its acceptance. -/
theorem test_accepted_pace_set_begins : ∃ t, exec (.sealWrite 0 ((slotImage 0x0051 1 ([8, 0] ++ List.replicate 12 0 ++ [2])).drop 224) (BitVec.allOnes 32) 0)
    (slotFilled (slotImage 0x0051 1 ([8, 0] ++ List.replicate 12 0 ++ [2]))) = .next t ∧ t.pwr.paceTo = some 2 ∧ (cmdOf t 0).map (·.note) = some (some 2) := ⟨_, rfl, by decide +kernel⟩

def adminBusy : State := { live with ctxs := [ctxA] }

/-- Refused writes: a read-only bit, a LOCKED field in use, no transaction and another one, and a bad buffered write. -/
theorem witness_cfg_refusals : let ro := cmd 0x0011 0 0 (writeOps 0x010A 1 0 1)
    let lk := cmd 0x0011 0 0 (writeOps rAdmCfg 0 0 1)
    let tx := cmd 0x0011 1 5 (writeOps 0x0201 0 0 1)
    let tb := cmd 0x0011 1 5 (writeOps 0x010A 1 0 1)
    let u := fun s c => markStarted (holding s c []) 0
    mayStartB (holding live ro []) 0 0x0011 ro = true ∧ cfgTests (u live ro) 0 0x010A 1 0 1 (stagedGet (u live ro) 0x010A (copyIdx 0x010A 1)) ≠ 0 ∧
      mayStartB (holding adminBusy lk []) 0 0x0011 lk = true ∧ cfgTests (u adminBusy lk) 0 rAdmCfg 0 0 1 (stagedGet (u adminBusy lk) rAdmCfg (copyIdx rAdmCfg 0)) = 0 ∧
      1 &&& (regSpec rAdmCfg).locked ≠ 0 ∧ lockedBusy (u adminBusy lk) rAdmCfg 0 = true ∧
      (∀ s ∈ [live, { inTxn [] with txn := { (inTxn []).txn with id := 6 } }], mayStartB (holding s tx []) 0 0x0011 tx = true ∧ (s.txn.id = 0 ∨ s.txn.id ≠ 5)) ∧
      mayStartB (holding (inTxn []) tb []) 0 0x0011 tb = true ∧ cfgTests (u (inTxn []) tb) 1 0x010A 1 0 1 (overlayGet (u (inTxn []) tb) [] 0x010A (copyIdx 0x010A 1)) ≠ 0 := by
  decide +kernel

/-- A write that covers a LIVE and a STAGED field, where its block is at a boundary and where it runs. -/
theorem witness_cfg_mixed : ∀ x ∈ [(live, true), (inServing, false)], let c := cmd 0x0011 0 0 (writeOps rVrdCfg 0 0x408000 0xFFF8000)
    let u := markStarted (holding x.1 c []) 0
    let u0 := writeLive u rVrdCfg 0 0x408000 0xFFF8000
    mayStartB (holding x.1 c []) 0 0x0011 c = true ∧ cfgTests u 0 rVrdCfg 0 0x408000 0xFFF8000 (stagedGet u rVrdCfg (copyIdx rVrdCfg 0)) = 0 ∧
      0xFFF8000 &&& (regSpec rVrdCfg).locked = 0 ∧ 0xFFF8000 &&& stgMask rVrdCfg ≠ 0 ∧ 0xFFF8000 &&& (regSpec rVrdCfg).live ≠ 0 ∧
      copies u0 rVrdCfg 0 = [0] ∧ appliesNow u0 0x11 (blockDie rVrdCfg 0) = x.2 := by decide +kernel

theorem test_mixed_write : let c := cmd 0x0011 0 0 (writeOps rVrdCfg 0 0x408000 0xFFF8000)
    ∃ t, exec (.cfgWrite 0) (holding inServing c []) = .next t ∧ bitsOf (cfgGet t rVrdCfg 0) 15 15 = 1 ∧
      bitsOf (cfgGet t rVrdCfg 0) 27 16 = bitsOf (cfgGet live rVrdCfg 0) 27 16 ∧ bitsOf (stagedGet t rVrdCfg 0) 27 16 = 0x40 := ⟨_, rfl, by decide +kernel⟩

/-- Writes that wait: a single one whose staged set passes and one whose set fails, one of several blocks, a block with part of a
commit, and a block without. -/
def waitingOn (good : Bool) (l : List StagedWait) : State :=
  let c := cmd 0x0011 0 0 (writeOps rMbxCfg 0 1 1)
  let v := if good then 0x10000000 else 0x20000001
  { holding inServing c [] with cfg := ⟨[], [(cfgKey rMbxCfg 0, v)], l⟩ }
theorem witness_staged_waits : (∀ g ∈ [true, false], ∀ h ∈ [true, false], let w : StagedWait := ⟨0x03, 0, 0, rMbxCfg, 0, true, h⟩
      let s := waitingOn g [w]
      invB s = true ∧ thermBlock 0x03 = false ∧ s.cfg.waits.filter (fun w => w.blk == 0x03 && w.die == 0) = [w] ∧
        s.cfg.waits.filter (fun w => !(w.blk == 0x03 && w.die == 0)) = [] ∧ (cmdOf s 0).isSome = true ∧ pairsOk s [] 0x03 0 = g ∧ s.txn.commits = []) ∧
    (let s := waitingOn true [(⟨0x03, 0, 0, rMbxCfg, 0, true, false⟩ : StagedWait), ⟨0x07, 2, 0, rMbxCfg, 0, true, false⟩]
     invB s = true ∧ ∃ x ∈ s.cfg.waits.filter (fun w => !(w.blk == 0x03 && w.die == 0)), x.slot = 0) ∧
    (∃ k ∈ committing.txn.commits, (0x0D, 0) ∈ k.todo) := by decide +kernel

/-- The set that a block applies: as it stands, and as it was checked where a later write breaks a pair; one block left and more;
and a write that waits for the block. -/
theorem witness_boundary_sets : let own : List BufEntry := [⟨cfgKey rMbxCfg 0, 5, 0xFFFF⟩]
    let k := fun todo => (⟨4, own, own, todo, false⟩ : Commit)
    let s := fun g todo (l : List StagedWait) => let u := waitingOn g l; { u with txn := { u.txn with st := 2, id := 5, commits := [k todo] } }
    (∀ todo ∈ [[(0x03, 0)], [(0x03, 0), (0x07, 2)]], ∀ g ∈ [true, false], invB (s g todo []) = true ∧ thermBlock 0x03 = false ∧
      (s g todo []).txn.commits.find? (fun k => k.todo.contains (0x03, 0)) = some (k todo) ∧ pairsOk (s g todo []) own 0x03 0 = g) ∧
    (let w : StagedWait := ⟨0x03, 0, 0, rMbxCfg, 0, true, false⟩
     let u := s true [(0x03, 0), (0x07, 2)] [w]
     let r := commitInst (boundarySet u (k [(0x03, 0), (0x07, 2)]) 0x03 0) (u, []) (0x03, 0)
     invB u = true ∧ (cmdOf u 0).isSome = true ∧ r.2 = [] ∧ mapFind r.1.cfg.staged (cfgKey rMbxCfg 0) = none ∧ ∀ x ∈ u.cfg.waits, x ≠ w → x.slot ≠ 0) := by
  decide +kernel

/-! ## Further witnesses: contexts -/

/-- Acceptances of CTX_DESTROY of a context with an open and a pending frame, and of one that is being destroyed. -/
theorem witness_destroy_accepted : ∀ k ∈ [onTrain ctxA, { onTrain ctxA with destroy := some 9 }], let c := cmd 0x0021 0 0 [3, 0]
    let s := holding { live with pkgs := [noOps], ctxs := [k], frames := [frameIn ctxA .opened, { frameIn ctxA .pending with num := 7 }] } c []
    invB s = true ∧ cmdOf s 0 = some c ∧ c.code = 0x0021 ∧ ctxOf s (u16 c.bytes 16) = some k ∧ openFrame s 3 = some (frameIn ctxA .opened) ∧
      (∀ g ∈ s.frames, g.ctx = 3 → g.phase = .pending → g.num ≠ 8) ∧ mayStartB s 0 0x0021 c = true := by decide +kernel

theorem test_destroy_closes_at_acceptance : let c := cmd 0x0021 0 0 [3, 0]
    let s := holding (withFrame noOps ctxA (frameIn ctxA .opened)) c []
    ((acceptEffect s 0).frames.map (fun f => (f.phase, f.refusal))) = [(.refused, 0x0426)] ∧ ((ctxOf (acceptEffect s 0) 3).map (·.train)) = some none := by decide +kernel

/-- Acceptances of FRAME_OPEN: host paced with checks passed, with one failed, and of a periodic context; and one begun at its
acceptance that starts. -/
theorem witness_open_accepted : let c := cmd 0x0023 0 0 [3, 0, 0, 0, 8, 0, 0, 0]
    let s := fun (k : Ctx) c => holding { live with pkgs := [noOps], ctxs := [k] } c []
    (∀ k ∈ [ctxA, onTrain ctxA, { ctxA with hostPaced := false }], invB (s k c) = true ∧ cmdOf (s k c) 0 = some c ∧ c.code = 0x0023 ∧ ctxOf (s k c) (u16 c.bytes 16) = some k) ∧
      ctxA.hostPaced = true ∧ frameOpenCheck (s ctxA c) ctxA (u64 c.bytes 24) = 0 ∧ frameOpenCheck (s (onTrain ctxA) c) (onTrain ctxA) (u64 c.bytes 24) ≠ 0 ∧
      mayStartB (s ctxA { c with note := some 0 }) 0 0x0023 { c with note := some 0 } = true := by decide +kernel

theorem test_frame_open_at_acceptance : let c := cmd 0x0023 0 0 [3, 0, 0, 0, 8, 0, 0, 0]
    let s := holding { live with pkgs := [noOps], ctxs := [ctxA] } c []
    (acceptEffect s 0).frames.map (fun f => (f.num, f.phase)) = [(8, .opened)] ∧ (cmdOf (acceptEffect s 0) 0).map (·.note) = some (some 0) := by decide +kernel

/-! ## Further witnesses: ingest and time -/

/-- A frame of a wrong checksum, one of PTP's port, one that no entry matches, and a full receive buffer. -/
theorem witness_frame_kinds : let bad := udpFrame.take 24 ++ [0xFF] ++ udpFrame.drop 25
    let full := laned { lockedLane with rx := [⟨0, List.replicate 65500 0, 5⟩] }
    (parseFrame bad = .bad ∧ (laneOf (laned { lockedLane with rx := [⟨0, bad, 5⟩] }) 0).rx = [⟨0, bad, 5⟩]) ∧
      (laned lockedLane).steer.find? (fun e => steerMatches e.2 0 (vlanOf udpFrame) ⟨4, beBytes 4 0x0A000002, beBytes 4 0x0A000001, 5000, 2368, leBytes 6 0x000300020001⟩) = none ∧
      macAccepts full 0 udpFrame = true ∧ 65536 < rxBytes full 0 + udpFrame.length ∧
      (let s := cfgPut (laned lockedLane) rTmuCfg 0 0x80000000
       ptpAddressed s = true ∧ cfgFld s rTmuCfg 0 31 31 = 1) ∧ (∃ b : Nat, ptpAddressed (cfgPut live rTmuCfg 0 (0x80000000 + b * 2 ^ 18)) = false) := by
  refine ⟨by decide +kernel, by decide +kernel, by decide +kernel, by decide +kernel, by decide +kernel, ⟨0, by decide +kernel⟩⟩

/-! ## Further witnesses: debug, frame stages, stalls -/

/-- Hub memory has a first byte, and ends (how many lines it has is the part's, log entry 54). -/
theorem witness_hub_memory (s : State) : 0 < hubMemBytes s ∧ hubMemBytes s ≤ 2 ^ 24 := by
  simp only [hubMemBytes, lineCount, hubLines, hubCut]
  constructor <;> simp <;> omega

theorem witness_rulebook_reach : let f := onDie (orderedFrame 3)
    let s := withFrame (stagePkg [rbbOp]) ctxA f
    (dieOf s 1).xfers = [] ∧ isQuery (runOp s f).desc = false ∧ rowsReach s (onTrain ctxA) (declOf s 1) f 1 [] = true := by decide +kernel

theorem witness_dispatch_reach : ∀ o ∈ [actOp false, rbbOp], let f := orderedFrame 3
    let s := withFrame (stagePkg [o]) ctxA f
    frameMoved s 1 f = true ∧ rowsReach s (onTrain ctxA) (declOf s 1) f 1 (haloRows s (onTrain ctxA) (declOf s 1) f (runOp s f) (posIn (maskDies ctxA.dieMask) 1)) = true := by decide +kernel

theorem witness_tile_ready : let f := actFrame [2] [tileA]
    let s := withFrame (actPkg false) ctxA f
    tileReady s (onTrain ctxA) (declOf s ctxA.pkg) f (runOp s f) tileA = true := by decide +kernel

/-- A row on a die that the data network does not reach is not at hand. -/
theorem test_rows_of_an_isolated_die_do_not_reach : let f := { orderedFrame 3 with shares := [(1, 16, 15), (2, 16, 15)], cuts := [0, 0, 1] }
    let c := { onTrain ctxA with dieMask := 6 }
    let s := withFrame (stagePkg [actOp false]) c f
    rowsReach s c (declOf s 1) f 1 [0] = true ∧ rowsReach (modDie s 2 (fun d => { d with fences := [.isolated] })) c (declOf s 1) f 1 [0] = false := by decide +kernel

/-! ## Further witnesses: gathers, paddocks -/

/-- Gathers past their target's end: of a free thread, of a held one, and of a target outside the package. -/
theorem witness_gather_past_end : let src : GatherSrc := .paddock 4 (2 ^ 23 - 63)
    gatherExists live 0 src 64 = false ∧ threadHolds live 0 5 = false ∧ gatherTarget live 0 src = some (1, 4) ∧
      threadHolds (gathering [gatherA 5 4 (.paddock 0 64) []]) 0 5 = true ∧ gatherTarget live 0 (.remote 1 0 0) = none := by decide +kernel

theorem witness_gather_back : ∀ src ∈ [GatherSrc.paddock 0 64, .memory 1 64, .remote 2 0 0], gatherBack live 0 src = true := by decide +kernel

/-- A stall's operation that is done frees its entry and its thread, or its thread is still held. -/
theorem witness_engine_frees : threadHolds (modEngine (engineDie [copyA 1]) 1 0 (fun e => engineFree e 0)) (stallIdx 1 0) 5 = false ∧
    (let s := modStall (engineDie [copyA 1]) (stallIdx 1 0) (fun t => { t with gathers := [gatherA 5 4 (.paddock 0 64) []] })
     threadHolds (modEngine s 1 0 (fun e => engineFree e 0)) (stallIdx 1 0) 5 = true ∧ invB s = true) := by decide +kernel

/-- Accesses past the paddock, over two lines, and of a unit that moves the first line it waits for. -/
theorem witness_paddock_moves : let s := arbed ⟨List.range 13, [⟨9, 0⟩], 7, some 2, 0⟩
    (∀ a ∈ [PaddockAcc.read (2 ^ 23 - 1) 2, .write 60 (List.replicate 8 1)], accThrough s 1 0 2 a = true ∧ 1 ≤ accLen a ∧ accLen a ≤ 64) ∧
      2 ^ 23 < accAddr (.read (2 ^ 23 - 1) 2) + 2 ∧ 64 < 60 % 64 + 8 ∧ fwPermits s 1 0 (domainOf s .other) 60 4 true = true ∧ fwPermits s 1 0 (domainOf s .other) 64 4 true = true ∧
      (let x : Xfer := ⟨10, 0, 64, List.replicate 64 7, none, .other⟩
       let u := modDie (arbed ⟨List.range 13, [], 7, some 10, 0⟩) 1 (fun d => { d with xfers := [x] })
       invB u = true ∧ (arbOf u (.bank 1 0 0)).owner = some 10 ∧ accThrough u 1 0 10 (.move 64) = true ∧ portOpen u (.bank 1 0 0) 10 = true ∧
         (dieOf u 1).xfers.find? (fun x => x.req == 10 && x.cluster == 0 && x.addr / 2 ^ 17 == 64 / 2 ^ 17) = some x) := by decide +kernel

/-! ## Further witnesses: links, audits, verdicts, memory -/

/-- The hub's end of die 1's link with its sender sending again, at 7 and 8 replays in vain: the copy sent, another flit, a damaged one. -/
def again1 (n : Nat) : State :=
  modLink (modLink live 1 0 (fun k => { k with held := [flitSeal 0 (flitBody 3 1 (0, 1) (1, 0) [])], again := 1, next := 1 })) 0 0 (fun k => { k with replays := n })
theorem witness_flits_again : ∀ n ∈ [6, 7], let s := again1 n
    let sent := flitSeal 0 (flitBody 3 1 (0, 1) (1, 0) [])
    invB s = true ∧ flitTaken s 0 0 = true ∧ (linkSends (linkOf s 1 0) []).map (fun r => (r.1, r.2.1, r.2.2.again)) = some (sent, true, 0) ∧
      crc16 (sent.take 70) = u16 sent 70 ∧ byteAt sent 0 = (linkOf s 0 0).expect ∧ flitType sent = 1 ∧ (flitDst sent).1 = 0 ∧
      (dataRoute s 0 (flitSrc sent).1).head? = some (0, 0) ∧ linkExists s 0 0 = true ∧ flitOf 0 2 0 1 ≠ sent ∧
      crc16 ((List.replicate 72 (9 : Byte)).take 70) ≠ u16 (List.replicate 72 9) 70 ∧ ((linkOf s 0 0).replays + 1 < 8 ↔ n = 6) := by decide +kernel

theorem test_eighth_replay_in_vain_downs_the_link : ∃ t, exec (.flitReceived 0 0 (List.replicate 72 9)) (again1 7) = .next t ∧ linkDown t 0 0 = true ∧
    (dieOf t 1).fences = [.isolated] ∧ t.log.recs.map (·.code) = [0x0110, 0x0112] := ⟨_, rfl, by decide +kernel⟩

/-- Units at the first and at the third mismatch, and unacknowledged: a stall, a pen's warden and a die-level unit. -/
def skewed (m : Nat) (u : Bool) : UnitSt := ⟨.ready, .fenced, m, u⟩
theorem witness_audit_units : (∀ m ∈ [0, 2], ∀ u ∈ [true, false],
    (let s := modDie live 1 (fun x => { x with stalls := updAt x.stalls 5 (fun t => { t with view := skewed m u }) })
     invB s = true ∧ dieOn s 1 = true ∧ viewsAgree (skewed m u) = false ∧ ((dieOf s 1).stalls[5]?).map (fun t => t.view) = some (skewed m u) ∧
       ((dieOf s 1).pens[penOf 5]?).map (fun p => (p.unack, penPowered (dieOf s 1) (penOf 5) p)) = some (false, true)) ∧
    (let s := modDie live 1 (fun x => { x with pens := updAt x.pens 2 (fun _ => skewed m u) })
     invB s = true ∧ (∀ a ∈ (dieOf s 1).stalls, viewsAgree a.view = true) ∧ ∀ (q : Fin 4), q.val ≠ 2 → ((dieOf s 1).pens[q.val]?).map viewsAgree = some true) ∧
    (let s := modDie live 1 (fun x => { x with units := [(0x380, skewed m u)] })
     invB s = true ∧ mapFind (dieOf s 1).units 0x380 = some (skewed m u))) ∧
    (let s := modDie live 1 (fun x => { x with cutPens := [0] })
     ((dieOf s 1).pens[0]?).map (penPowered (dieOf s 1) 0) = some false ∧ ((dieOf s 1).stalls[5]?).map (fun t => t.view.unack) = some false) := by decide +kernel

theorem test_third_mismatch_of_a_stall_fences_its_pen : ∃ t, exec (.audit 1 []) (modDie live 1 (fun x => { x with stalls := updAt x.stalls 5 (fun t => { t with view := skewed 2 false }) })) = .next t ∧
    ((dieOf t 1).pens[penOf 5]?).map (·.mgmt) = some .faulted := ⟨_, rfl, by decide +kernel⟩

/-- Stores of a compute die with no frame's cell, where a permitted write goes to the memory beneath. -/
theorem witness_no_cell_met : ∀ t ∈ [6, 7], slotsMet live 1 t 0 64 = [] ∧ targetExists live 1 t = true := by decide +kernel

/-! ## Further witnesses: power, security, start-up -/

/-- Acceptances of the power commands: in a part that executes none of R464 and in one that does, with no frame and with one. -/
theorem witness_power_accepted : (∀ code ∈ [0x0050, 0x0051, 0x0052, 0x0060], let c := cmd code 0 0 [2]
      let busy := holding { live with pwr := { live.pwr with gate := some (3, 1, 0, 0, 0) } } c []
      cmdOf busy 0 = some c ∧ powerBusy busy = true) ∧
    (let c := fun code n => cmd code 0 0 [n]
     pwrCheck (holding live (c 0x0050 4) []) 4 false = 0 ∧ powerBusy (holding live (c 0x0050 4) []) = false ∧ live.pwr.st ≠ 4 ∧
      (∀ n ∈ [0, 2], paceCheck (holding live (c 0x0051 n) []) n false = 0 ∧ n ≠ live.pwr.level) ∧ acceptedFrames live = [] ∧
      acceptedFrames (holding { live with frames := [frameIn ctxA .accepted] } (c 0x0051 0) []) = [(3, 8)]) := by decide +kernel

theorem test_power_set_begins_at_acceptance : let c := cmd 0x0050 0 0 [4]
    (acceptEffect (holding live c []) 0).pwr.changing = true ∧ (cmdOf (acceptEffect (holding live c []) 0) 0).map (·.note) = some (some 2) := by decide +kernel

/-- Power commands that another one met at their acceptance, and that began their change then. -/
theorem witness_power_notes : ∀ code ∈ [0x0050, 0x0051, 0x0052, 0x0060], ∀ n ∈ [1, 2], let c := { cmd code 0 0 [2] with note := some n }
    mayStartB (holding live c []) 0 code c = true := by decide +kernel

/-- Transitions whose command has started, and one whose command waits. -/
def moved (st target : Nat) (b : Bool) : State :=
  let c := { cmd 0x0050 0 0 [target] with started := b }
  holding { live with pwr := { live.pwr with changing := true, st := st, target := target, slot := some 0 } } c []
theorem witness_power_steps_begun : (∀ x ∈ [(4, 3), (3, 2), (2, 1), (1, 0), (1, 2), (2, 3), (3, 4), (4, 0)], let s := moved x.1 x.2 true
      invB s = true ∧ s.pwr.changing = true ∧ partOn s = true ∧ 1 ≤ s.pwr.st ∧ s.pwr.target ≠ s.pwr.st ∧ s.pwr.slot.all (begun s) = true ∧ framesOut s = false ∧
        s.pwr.before = [] ∧ s.pwr.stepAt + 100000 ≤ s.raw ∧ s.sec.debug ≠ 2 ∧ (cmdOf s 0).isSome = true) ∧
    (moved 4 3 false).pwr.slot.all (begun (moved 4 3 false)) = false ∧
    (let w := fun (d : Die) => { d with paceWins := List.replicate 10 ⟨[]⟩ }
     let s := moved 2 3 true
     paceMeasured { s with dies := s.dies.map w } = true) := by decide +kernel

theorem witness_pace_step_begun : let c := { cmd 0x0051 0 0 [2] with started := true }
    let s := holding { live with pwr := { live.pwr with paceTo := some 2, paceDriven := some 5, paceSlot := 0 } } c []
    invB s = true ∧ s.pwr.paceTo = some 2 ∧ s.pwr.paceDriven = some 5 ∧ 5 + 600000 ≤ s.raw ∧ cmdOf s 0 = some c ∧ c.started = true := by decide +kernel

/-- A pen that a gating switched off: its stalls have finished, or still drain. -/
theorem witness_pens_off : let c := cmd 0x0052 0 0 [1, 1, 0]
    let s := holding { live with pwr := { live.pwr with gate := some (0, 1, 1, 0, 5) } } c []
    let u := modStall s (stallIdx 1 0) (fun t => { t with drain := 64 })
    tilesFinished s 1 1 = true ∧ tilesFinished u 1 1 = false ∧ invB u = true ∧ cmdOf u 0 = some c := by decide +kernel

/-- Trips of a part that runs, and of one that is OFF. -/
theorem witness_trips : (∀ p ∈ [BootPhase.off, .running], let s := { live with boot := { live.boot with phase := p } }
    s.pins.supplied = true ∧ 7 ≤ nDies s ∧ s.boot.phase = p) := by decide +kernel

/-- A programmed image beside two boot records, and a part whose source is tested. -/
theorem witness_boot_records : live.nv.recs.length = 2 ∧ (bootRec live.nv).seq + 1 < 2 ^ 32 := by decide +kernel
theorem witness_source_states : (∀ n ∈ [1, 2], let c := cmd 0x0071 0 0 [1]
      let s := holding { live with nv := { live.nv with seed := some 77 }, sec := { live.sec with keyReady := true, trng := n } } c []
      mayStartB s 0 0x0071 c = true ∧ pagesOk s 0 1 2 = true ∧ s.sec.trng = n) ∧
    (∀ x ∈ [(1, 1), (3, 1), (3, 2)], let c := cmd 0x0072 0 0 [1]
      let s := holding { live with pwr := { live.pwr with st := x.1, target := x.1 }, sec := { live.sec with trng := x.2 } } c []
      mayStartB s 0 0x0072 c = true ∧ s.pwr.st = x.1) ∧
    (let c := cmd 0x0073 0 0 []
     mayStartB (holding live c []) 0 0x0073 c = true ∧ 2 ≤ live.pwr.st) := by decide +kernel

/-- A part in DEPLOYED under each debug unlock, with the flash failing or not. -/
theorem witness_deployed : lifecycle owned.nv = 2 ∧ (zeroise owned.nv ⟨true, true, true⟩).ownerGen = 1 ∧ lifecycle (zeroise owned.nv ⟨true, false, false⟩) = 1 ∧
    (zeroise owned.nv ⟨false, true, true⟩) = owned.nv ∧ lifeListed owned 1 = true ∧ lifeListed owned 3 = true := by decide +kernel

theorem test_provisioning_stops_after_the_certificate : let r := lifeChange live.nv 1 [1, 2, 3] ⟨true, false, false⟩
    r.1.cert = [1, 2, 3] ∧ lifecycle r.1 = 0 ∧ r.2 = false := by decide +kernel

/-- The hold of a reset: over, with the rails absent, and with the trip's cause present. -/
theorem witness_hold : holdEnds wellBoot State.reset = true ∧ State.reset.boot.phase = .held ∧
    holdEnds { wellBoot with supplied := false } { State.reset with pins := { State.reset.pins with supplied := false } } = false ∧
    holdEnds { wellBoot with tripClear := false } { State.reset with backup := { State.reset.backup with trip := some 3 } } = false := by decide +kernel

/-- Samples that fail the repetition test at 41 equal ones, that pass, and that fail the proportion test. -/
theorem witness_health : healthFail (List.replicate 41 true) = some (true, false) ∧ healthFail (List.replicate 40 true) = none ∧
    healthFail ((List.range 4096).map (fun i => i % 2 == 0)) = none ∧ ((List.range 4096).map (fun i => i % 2 == 0)).length = 4096 ∧
    healthFail ((List.range 1024).map (fun i => i % 8 != 7)) = some (false, true) := by decide +kernel

theorem test_failed_health_test_is_retried : ∃ t, exec (.entropyHealthTestFail (List.replicate 41 true)) live = .next t ∧ t.sec.trng = 2 ∧
    t.log.recs.map (·.code) = [0x1586] := ⟨_, rfl, by decide +kernel⟩
end Sys2Proof.Tests
end

section
/-!
PROOF. What a command keeps, whichever it is: the lemmas of the single commands put together over the dispatch. From it,
the statement that no command changes the waiting commands or the variant of the part (R1).
-/
namespace Sys2Proof.Machine

variable {s0 s t : State}

theorem Good.pending_eq (h : Good s0 s) : s.pending = s0.pending := h.1

theorem Good.variant_eq (h : Good s0 s) : s.variant = s0.variant := h.2.1

/-- What every command keeps. -/
theorem exec_good (i : Instr) (s : State) (hg : Good s0 s) : GoodO s0 (exec i s) :=
  match i with
  | .nop slot => execNop_good slot s hg
  | .cfgRead slot => execCfgRead_good slot s hg
  | .cfgWrite slot => execCfgWrite_good slot s hg
  | .txnBegin slot => execTxnBegin_good slot s hg
  | .txnCommit slot => execTxnCommit_good slot s hg
  | .txnAbort slot => execTxnAbort_good slot s hg
  | .ctxCreate slot => execCtxCreate_good slot s hg
  | .ctxDestroy slot => execCtxDestroy_good slot s hg
  | .ctxQuery slot => execCtxQuery_good slot s hg
  | .frameOpen slot => execFrameOpen_good slot s hg
  | .frameClose slot => execFrameClose_good slot s hg
  | .ctxClearDegraded slot => execCtxClearDegraded_good slot s hg
  | .pkgLoad slot pkg => execPkgLoad_good slot pkg s hg
  | .pkgUnload slot => execPkgUnload_good slot s hg
  | .bundleApply slot => execBundleApply_good slot s hg
  | .maptableReplace slot => execMaptableReplace_good slot s hg
  | .decoderSet slot => execDecoderSet_good slot s hg
  | .steerSet slot => execSteerSet_good slot s hg
  | .poseWrite slot => execPoseWrite_good slot s hg
  | .timeSet slot => execTimeSet_good slot s hg
  | .pwrStateSet slot => execPwrStateSet_good slot s hg
  | .paceSet slot => execPaceSet_good slot s hg
  | .gateSet slot => execGateSet_good slot s hg
  | .lifelogRead slot => execLifelogRead_good slot s hg
  | .fenceClear slot => execFenceClear_good slot s hg
  | .eventLogRead slot => execEventLogRead_good slot s hg
  | .fwUpdate slot => execFwUpdate_good slot s hg
  | .attest slot => execAttest_good slot s hg
  | .debugChallenge slot => execDebugChallenge_good slot s hg
  | .debugUnlock slot flashOk => execDebugUnlock_good slot flashOk s hg
  | .lifecycleSet slot flashOk => execLifecycleSet_good slot flashOk s hg
  | .sealWrite slot data mask md => execSealWrite_good slot data mask md s hg
  | .penConsumerWrite ch value md => execPenConsumerWrite_good ch value md s hg
  | .hostWrite ch sub bank col data mask md => execHostWrite_good ch sub bank col data mask md s hg
  | .hostRead ch sub bank col ue asRead => execHostRead_good ch sub bank col ue asRead s hg
  | .modeRegisterWrite ch mr value latencyLow => execModeRegisterWrite_good ch mr value latencyLow s hg
  | .modeRegisterRead ch mr => execModeRegisterRead_good ch mr s hg
  | .activate ch sub bank row => execActivate_good ch sub bank row s hg
  | .precharge ch sub bank => execPrecharge_good ch sub bank s hg
  | .refresh ch => execRefresh_good ch s hg
  | .powerDownEntry ch => execPowerDownEntry_good ch s hg
  | .powerDownExit ch => execPowerDownExit_good ch s hg
  | .selfRefreshEntry ch => execSelfRefreshEntry_good ch s hg
  | .selfRefreshExit ch => execSelfRefreshExit_good ch s hg
  | .commandBusTraining ch => execCommandBusTraining_good ch s hg
  | .clockToWriteClockLevelling ch => execClockToWriteClockLevelling_good ch s hg
  | .readCalibration ch mr => execReadCalibration_good ch mr s hg
  | .writeDataTraining ch => execWriteDataTraining_good ch s hg
  | .zqCalibrationStart ch => execZqCalibrationStart_good ch s hg
  | .zqCalibrationLatch ch => execZqCalibrationLatch_good ch s hg
  | .unsupportedCommand ch => execUnsupportedCommand_good ch s hg
  | .hostRateChange ch rate low => execHostRateChange_good ch rate low s hg
  | .hintHoldoffExpiry => execHintHoldoffExpiry_good s hg
  | .txnIdleExpiry => execTxnIdleExpiry_good s hg
  | .configStagedApply blk die => execConfigStagedApply_good blk die s hg
  | .txnCommitApply blk die => execTxnCommitApply_good blk die s hg
  | .pdkArbOrderWrite slot => execPdkArbOrderWrite_good slot s hg
  | .leaveBudgetWrite slot => execLeaveBudgetWrite_good slot s hg
  | .bmpForceStart => execBmpForceStart_good s hg
  | .bmpForceEnd => execBmpForceEnd_good s hg
  | .entdaa addr => execEntdaa_good addr s hg
  | .setdasa static addr => execSetdasa_good static addr s hg
  | .ethernetFrameReceived lane frame pcsError => execEthernetFrameReceived_good lane frame pcsError s hg
  | .packetSteer lane => execPacketSteer_good lane s hg
  | .blockDecode lane => execBlockDecode_good lane s hg
  | .arpRequest => execArpRequest_good s hg
  | .neighbourSolicitation => execNeighbourSolicitation_good s hg
  | .sync adjust => execSync_good adjust s hg
  | .followUp adjust => execFollowUp_good adjust s hg
  | .delayResp => execDelayResp_good s hg
  | .announce => execAnnounce_good s hg
  | .delayReq => execDelayReq_good s hg
  | .ptpHoldoverExpiry => execPtpHoldoverExpiry_good s hg
  | .laneLockLost lane => execLaneLockLost_good lane s hg
  | .laneLockTimer lane => execLaneLockTimer_good lane s hg
  | .sensorSilenceExpiry sensor => execSensorSilenceExpiry_good sensor s hg
  | .hostWindowPublish ch win data mask md => execHostWindowPublish_good ch win data mask md s hg
  | .hostWindowAnswer => execHostWindowAnswer_good s hg
  | .periodicFrameClose ctx => execPeriodicFrameClose_good ctx s hg
  | .deskewTile ctx num die => execDeskewTile_good ctx num die s hg
  | .voxeliseTile ctx num => execVoxeliseTile_good ctx num s hg
  | .voxelisationComplete ctx num => execVoxelisationComplete_good ctx num s hg
  | .exactPass ctx num => execExactPass_good ctx num s hg
  | .curveOrderStart ctx num => execCurveOrderStart_good ctx num s hg
  | .curveOrderTile ctx num die => execCurveOrderTile_good ctx num die s hg
  | .rulebookTile ctx num die => execRulebookTile_good ctx num die s hg
  | .operatorDispatch ctx num die stalls => execOperatorDispatch_good ctx num die stalls s hg
  | .leaveRequest ctx num die who => execLeaveRequest_good ctx num die who s hg
  | .leaveGrant die => execLeaveGrant_good die s hg
  | .stallTile stall => execStallTile_good stall s hg
  | .gather stall thread src len => execGather_good stall thread src len s hg
  | .gatherReturn stall thread => execGatherReturn_good stall thread s hg
  | .chunkSteal stall lane victim => execChunkSteal_good stall lane victim s hg
  | .tileSteal stall => execTileSteal_good stall s hg
  | .fillLines die cluster issuer addr n pattern => execFillLines_good die cluster issuer addr n pattern s hg
  | .copyLines die cluster issuer src dst n => execCopyLines_good die cluster issuer src dst n s hg
  | .paddockEngineDone die cluster issuer => execPaddockEngineDone_good die cluster issuer s hg
  | .arbiterDecide arb arrivals => execArbiterDecide_good arb arrivals s hg
  | .paddockAccess die cluster req acc drop => execPaddockAccess_good die cluster req acc drop s hg
  | .retryRound ctx num => execRetryRound_good ctx num s hg
  | .partitionMerge ctx num row part => execPartitionMerge_good ctx num row part s hg
  | .mapLookupWindow ctx num die => execMapLookupWindow_good ctx num die s hg
  | .bevScatterTile ctx num die => execBevScatterTile_good ctx num die s hg
  | .selectionTile ctx num die => execSelectionTile_good ctx num die s hg
  | .selectionMerge ctx num => execSelectionMerge_good ctx num s hg
  | .bestEffortFrameStart die => execBestEffortFrameStart_good die s hg
  | .checkerVerdictReady ctx num => execCheckerVerdictReady_good ctx num s hg
  | .mlResultsIn ctx num => execMlResultsIn_good ctx num s hg
  | .frameSeal ctx num => execFrameSeal_good ctx num s hg
  | .cutoffExpiry ctx num => execCutoffExpiry_good ctx num s hg
  | .ctxDestroyComplete ctx => execCtxDestroyComplete_good ctx s hg
  | .stopBoundary => execStopBoundary_good s hg
  | .stopReadback out level => execStopReadback_good out level s hg
  | .heartbeat fromChecker => execHeartbeat_good fromChecker s hg
  | .heartbeatTimeout atChecker => execHeartbeatTimeout_good atChecker s hg
  | .tableSwitch table => execTableSwitch_good table s hg
  | .flipStart table => execFlipStart_good table s hg
  | .flipCutoff table => execFlipCutoff_good table s hg
  | .flipSwitch table => execFlipSwitch_good table s hg
  | .flitReceived die link flit => execFlitReceived_good die link flit s hg
  | .halyardMessage src dst msg fails => execHalyardMessage_good src dst msg fails s hg
  | .paceWindow die counts => execPaceWindow_good die counts s hg
  | .audit die obs => execAudit_good die obs s hg
  | .selftestSliceStart die => execSelftestSliceStart_good die s hg
  | .selftestSliceEnd die pass => execSelftestSliceEnd_good die pass s hg
  | .rotationAgeExpiry die => execRotationAgeExpiry_good die s hg
  | .paddockLineTest die cluster bank line pass passOver60s => execPaddockLineTest_good die cluster bank line pass passOver60s s hg
  | .fenceTestComplete pass => execFenceTestComplete_good pass s hg
  | .sramScrub die target bank err victim last => execSramScrub_good die target bank err victim last s hg
  | .mmcRead die chan addr err for_ => execMmcRead_good die chan addr err for_ s hg
  | .patrolRead die chan err => execPatrolRead_good die chan err s hg
  | .mmcWrite die chan addr data drain => execMmcWrite_good die chan addr data drain s hg
  | .mmcRefresh die chan bank => execMmcRefresh_good die chan bank s hg
  | .mmcZqCalibration die chan => execMmcZqCalibration_good die chan s hg
  | .memoryAccess die target domain addr len write for_ => execMemoryAccess_good die target domain addr len write for_ s hg
  | .thermalSensorUpdate die temp => execThermalSensorUpdate_good die temp s hg
  | .criticalTrip die => execCriticalTrip_good die s hg
  | .powerStep => execPowerStep_good s hg
  | .paceChangeStep => execPaceChangeStep_good s hg
  | .pensOffComplete => execPensOffComplete_good s hg
  | .pensOnTestComplete passed => execPensOnTestComplete_good passed s hg
  | .dieOnComplete passed trained => execDieOnComplete_good passed trained s hg
  | .flashProgramComplete ok => execFlashProgramComplete_good ok s hg
  | .challengeExpiry => execChallengeExpiry_good s hg
  | .unlockExpiry => execUnlockExpiry_good s hg
  | .trngRetry pass => execTrngRetry_good pass s hg
  | .lifelogCheckpoint flashOk => execLifelogCheckpoint_good flashOk s hg
  | .agingDailyIndex die newPace => execAgingDailyIndex_good die newPace s hg
  | .agingYear flashOk => execAgingYear_good flashOk s hg
  | .powerOn => execPowerOn_good s hg
  | .resetNAssert ns taken => execResetNAssert_good ns taken s hg
  | .supplyBrownout => execSupplyBrownout_good s hg
  | .lockstepMismatch => execLockstepMismatch_good s hg
  | .watchdogExpiry => execWatchdogExpiry_good s hg
  | .resetNRelease rep => execResetNRelease_good rep s hg
  | .bypass => execBypass_good s hg
  | .idcode => execIdcode_good s hg
  | .samplePreload => execSamplePreload_good s hg
  | .extest => execExtest_good s hg
  | .debugHalt => execDebugHalt_good s hg
  | .debugResume => execDebugResume_good s hg
  | .debugStep => execDebugStep_good s hg
  | .abstractRegisterAccess reg write => execAbstractRegisterAccess_good reg write s hg
  | .systemBusAccess addr write => execSystemBusAccess_good addr write s hg
  | .laneLockGained lane => execLaneLockGained_good lane s hg
  | .remoteFaultReceived lane present => execRemoteFaultReceived_good lane present s hg
  | .verdictFrameTransmitted lane => execVerdictFrameTransmitted_good lane s hg
  | .entropyHealthTestFail adaptive => execEntropyHealthTestFail_good adaptive s hg
  | .backupSupplyLoss => execBackupSupplyLoss_good s hg
  | .vddSafeOutOfTolerance below => execVddSafeOutOfTolerance_good below s hg
  | .sramScrubOverdue die target bank => execSramScrubOverdue_good die target bank s hg

/-- From a sound state, a command leads to one that is good over it. -/
theorem Inv.exec_good (h : Inv s) {i : Instr} (ht : exec i s = .next t) : Good s t :=
  Machine.exec_good i s h.good t ht

end Sys2Proof.Machine

open Sys2Proof.Machine

/-- Settles O3: `Good` holds the queue and the variant of the state before the command, and every command keeps it. -/
theorem commandsLeaveQueueAndVariant : Obligations.CommandsLeaveQueueAndVariant := by
  intro c s t hs ht
  have hg : Good s t := hs.exec_good ht
  exact ⟨hg.pending_eq, hg.variant_eq⟩

end

section
/-!
PROOF. The host port (02): what an activate, a precharge and a host write do at a port that responds, from the accessors of
the open rows and of a unit's bytes. R52, R59, R60, R62, R63.
-/
namespace Sys2Proof.Machine

variable {s : State} {ch sub bank col row : Nat}

/-! ## Maps -/

theorem mapFind_mapPut {β : Type} (m : List (Nat × β)) (i j : Nat) (v : β) :
    mapFind (mapPut m i v) j = if j = i then some v else mapFind m j := by
  split
  · next h => rw [h, mapFind_mapPut_same]
  · next h => exact mapFind_mapPut_other m v h

theorem mapFind_mapDel {β : Type} {m : List (Nat × β)} {a : Nat} (i j : Nat) (w : keysFrom a m = true) :
    mapFind (mapDel m i) j = if j = i then none else mapFind m j := by
  split
  · next h => rw [h, mapFind_mapDel_same w]
  · next h => exact mapFind_mapDel_other w h

/-- A key that no entry holds is not found. -/
theorem mapFind_eq_none {β : Type} {m : List (Nat × β)} {i : Nat} (h : ∀ e ∈ m, e.1 ≠ i) : mapFind m i = none := by
  induction m with
  | nil => rfl
  | cons e m ih =>
    have h1 : i ≠ e.1 := fun x => h e List.mem_cons_self x.symm
    simp [mapFind, h1, ih fun x hx => h x (List.mem_cons_of_mem _ hx)]

/-- One byte of a range read from a memory. -/
theorem memRead_getD (m : Memory) {a n i : Nat} (h : i < n) : (memRead m a n).getD i 0 = memGet m (a + i) := by
  simp [memRead, mapGetMany, memGet, List.getD_eq_getElem?_getD, h]

/-! ## A port that responds -/

theorem portReady_iff : portReady s ch sub = true ↔ portLive s ch = true ∧ sub < 2 ∧ lowOf s ch sub = .active := by
  simp [portReady, and_assoc]

/-- Only the two channels of the part respond (R54). -/
theorem portReady_chan (h : portReady s ch sub = true) : ch < 2 := by
  have h1 := (portReady_iff.1 h).1
  simp only [portLive, chanRuns, chanExists, Bool.and_eq_true, Bool.or_eq_true, decide_eq_true_eq] at h1
  omega

theorem burstOk_iff : burstOk sub bank col = true ↔ sub < 2 ∧ bank < 16 ∧ col < 64 := by
  simp [burstOk, and_assoc]

theorem rowKey_div {b : Nat} (h : b < 16) : rowKey sub b / 16 = sub := by
  simp only [rowKey]; omega

/-! ## The open rows (R52, R62) -/

theorem exec_activate (h : portReady s ch sub = true) (hb : burstOk sub bank 0 = true) (hr : row < 32768) :
    exec (.activate ch sub bank row) s =
      .next (modChan s ch fun c => { c with rows := mapPut c.rows (rowKey sub bank) row }) := by
  simp [exec, execActivate, h, hb, hr]

theorem exec_precharge_bank (h : portReady s ch sub = true) (hb : burstOk sub bank 0 = true) :
    exec (.precharge ch sub (some bank)) s =
      .next (modChan s ch fun c => { c with rows := mapDel c.rows (rowKey sub bank) }) := by
  simp [exec, execPrecharge, h, hb]

theorem exec_precharge_all (h : portReady s ch sub = true) :
    exec (.precharge ch sub none) s =
      .next (modChan s ch fun c => { c with rows := c.rows.filter (fun e => e.1 / 16 != sub) }) := by
  have hb : burstOk sub 0 0 = true := burstOk_iff.2 ⟨(portReady_iff.1 h).2.1, by omega, by omega⟩
  simp [exec, execPrecharge, h, hb]

/-- Closing all banks of a sub-channel leaves no row of them open. -/
theorem mapFind_closeBanks (m : List (Nat × Nat)) {b : Nat} (hb : b < 16) :
    mapFind (m.filter fun e => e.1 / 16 != sub) (rowKey sub b) = none := by
  refine mapFind_eq_none fun e he hk => ?_
  have h1 : e.1 / 16 ≠ sub := by simpa using (List.mem_filter.1 he).2
  exact h1 (hk ▸ rowKey_div hb)

/-- What an update of a channel's open rows changes: those alone. -/
theorem modChan_rows (g : List (Nat × Nat) → List (Nat × Nat)) (hc : ch < s.chans.length) :
    (∀ k, k ≠ ch → chanOf (modChan s ch fun c => { c with rows := g c.rows }) k = chanOf s k) ∧
      chanOf (modChan s ch fun c => { c with rows := g c.rows }) ch = { chanOf s ch with rows := g (chanOf s ch).rows } :=
  ⟨fun _ hk => chanOf_modChan_other _ hk, chanOf_modChan _ _ hc⟩

/-! ## Offsets and regions (R57, R62) -/

theorem subOfOff_burstOff (h : burstOk sub bank col = true) : subOfOff (burstOff row bank col sub) = sub := by
  have := burstOk_iff.1 h
  simp only [subOfOff, burstOff]; omega

theorem bankOfOff_burstOff (h : burstOk sub bank col = true) : bankOfOff (burstOff row bank col sub) = bank := by
  have := burstOk_iff.1 h
  simp only [bankOfOff, burstOff]; omega

theorem colOfOff_burstOff (h : burstOk sub bank col = true) : colOfOff (burstOff row bank col sub) = col := by
  have := burstOk_iff.1 h
  simp only [colOfOff, burstOff]; omega

theorem regionOf_slots {off : Nat} : regionOf off = .slots ↔ 0x100000 ≤ off ∧ off < 0x300000 := by
  unfold regionOf
  (repeat' split) <;> simp only [reduceCtorEq, false_iff, true_iff] <;> omega

theorem regionOf_ingest {off : Nat} : regionOf off = .ingest ↔ 0x580000 ≤ off ∧ off < 0x5B8000 := by
  unfold regionOf
  (repeat' split) <;> simp only [reduceCtorEq, false_iff, true_iff] <;> omega

/-! ## Storing a unit (R60, R63) -/

@[simp] theorem maskedUnit_length (old data : List Byte) (mask : BitVec 32) : (maskedUnit old data mask).length = 32 := by
  simp [maskedUnit]

theorem maskedUnit_getD (old data : List Byte) (mask : BitVec 32) {i : Nat} (h : i < 32) :
    (maskedUnit old data mask).getD i 0 = if mask.getLsbD i then data.getD i 0 else old.getD i 0 := by
  simp [maskedUnit, List.getD_eq_getElem?_getD, h]

/-- The bytes after a unit is stored: the data's where the mask names them. -/
theorem memGet_maskedWrite {m : Memory} (w : m.wf = true) (off a : Nat) (data : List Byte) (mask : BitVec 32) :
    memGet (memWrite m off (maskedUnit (memRead m off 32) data mask)) a =
      if off ≤ a ∧ a < off + 32 ∧ mask.getLsbD (a - off) = true then data.getD (a - off) 0 else memGet m a := by
  rw [memGet_memWrite _ _ _ w, maskedUnit_length]
  by_cases h : off ≤ a ∧ a < off + 32
  · have h1 : off + (a - off) = a := by omega
    rw [if_pos h, maskedUnit_getD _ _ _ (by omega), memRead_getD _ (by omega), h1]
    simp [h]
  · rw [if_neg h, if_neg fun x => h ⟨x.1, x.2.1⟩]

theorem chanOf_storeUnit (off : Nat) (data : List Byte) (mask md : BitVec 32) (hc : ch < s.chans.length) :
    chanOf (storeUnit s ch off data mask md) ch =
      { chanOf s ch with
        mem := memWrite (chanOf s ch).mem off (maskedUnit (memRead (chanOf s ch).mem off 32) data mask),
        hostMeta := mapPut (chanOf s ch).hostMeta (off / 32) md } := chanOf_modChan _ _ hc

/-- A stored unit that is neither sealed nor the consumer position nor a published header sets nothing off. -/
theorem afterStore_quiet {off : Nat} {mask : BitVec 32}
    (h : (regionOf off = .windows ∧ (off ≠ 0x400000 ∨ mask.toNat % 16 = 0)) ∨
      (regionOf off = .slots ∧ (off % 256 ≠ 224 ∨ mask.getLsbD 31 = false)) ∨
      (regionOf off = .ingest ∧ (off % 0x8000 ≠ 0 ∨ mask.getLsbD 0 = false))) :
    afterStore s ch off mask = s := by
  have h1 : ¬ (regionOf off = .slots ∧ off % 256 = 224 ∧ mask.getLsbD 31 = true) := by
    rintro ⟨hr, ho, hm⟩
    simp only [hr, ho, hm] at h
    simp at h
  have h2 : ¬ (off = 0x400000 ∧ mask.toNat % 16 ≠ 0) := by
    rintro ⟨rfl, hm⟩
    simp only [show regionOf 0x400000 = .windows from rfl, hm] at h
    simp at h
  have h3 : ¬ (regionOf off = .ingest ∧ off % 0x8000 = 0 ∧ mask.getLsbD 0 = true) := by
    rintro ⟨hr, ho, hm⟩
    simp only [hr, ho, hm] at h
    simp at h
  rw [afterStore, if_neg h1, if_neg h2, if_neg h3]

/-- In a region that the host writes, the unit is stored and sets off what it does. -/
theorem portStore_backed {off : Nat} (data : List Byte) (mask md : BitVec 32)
    (h : regionOf off = .windows ∨ regionOf off = .slots ∨ regionOf off = .ingest) :
    portStore s ch off data mask md = afterStore (storeUnit s ch off data mask md) ch off mask := by
  rcases h with h | h | h <;> simp [portStore, h]

/-- Identity page and ring are read-only to the host: the write is counted (R58, R60). -/
theorem portStore_readOnly {off : Nat} (data : List Byte) (mask md : BitVec 32)
    (h : regionOf off = .identity ∨ regionOf off = .ring) :
    portStore s ch off data mask md = modChan s ch (fun c => { c with roWrites := sat32 (c.roWrites + 1) }) := by
  rcases h with h | h <;> simp only [portStore, h]

theorem portStore_unbacked {off : Nat} (data : List Byte) (mask md : BitVec 32) (h : regionOf off = .unbacked) :
    portStore s ch off data mask md = modChan s ch (fun c => { c with unbacked := sat32 (c.unbacked + 1) }) := by
  simp only [portStore, h]

/-! ## Burst writes (R59, R62) -/

section
variable (data : List Byte) (mask md : BitVec 32) (h : portReady s ch sub = true) (hb : burstOk sub bank col = true)
include h hb

theorem exec_hostWrite_closed (hr : mapFind (chanOf s ch).rows (rowKey sub bank) = none) :
    exec (.hostWrite ch sub bank col data mask md) s = .next (countUnsupported s ch) := by
  simp [exec, execHostWrite, portBurst, accessOff, h, hb, hr]

theorem exec_hostWrite_open (hr : mapFind (chanOf s ch).rows (rowKey sub bank) = some row) :
    exec (.hostWrite ch sub bank col data mask md) s =
      .next (portStore s ch (burstOff row bank col sub) data mask md) := by
  simp [exec, execHostWrite, portBurst, accessOff, h, hb, hr]

end

/-- The burst of an offset's own sub-channel, bank and column is the host write there. -/
theorem offsetBurst_burstOff (data : List Byte) (mask md : BitVec 32) (hb : burstOk sub bank col = true) :
    .next (offsetBurst s ch (burstOff row bank col sub) data mask md) =
      exec (.hostWrite ch sub bank col data mask md) s := by
  simp only [offsetBurst, subOfOff_burstOff hb, bankOfOff_burstOff hb, colOfOff_burstOff hb, exec, execHostWrite]

/-- The seal write of the slot whose last unit lies at an offset. -/
theorem exec_sealWrite_at {off : Nat} (data : List Byte) (mask md : BitVec 32) (hr : regionOf off = .slots)
    (ho : off % 256 = 224) :
    exec (.sealWrite (ch * 8192 + (off - 0x100000) / 256) data mask md) s = .next (offsetBurst s ch off data mask md) := by
  have h1 := regionOf_slots.1 hr
  have h2 : (ch * 8192 + (off - 0x100000) / 256) / 8192 = ch := by omega
  have h3 : slotOff (ch * 8192 + (off - 0x100000) / 256) + 224 = off := by simp only [slotOff]; omega
  simp only [exec, execSealWrite, h2, h3]

/-- The publish of the window whose header lies at an offset. -/
theorem exec_hostWindowPublish_at {off : Nat} (data : List Byte) (mask md : BitVec 32) (hr : regionOf off = .ingest)
    (ho : off % 0x8000 = 0) :
    exec (.hostWindowPublish ch ((off - 0x580000) / 0x8000) data mask md) s =
      .next (offsetBurst s ch off data mask md) := by
  have h1 := regionOf_ingest.1 hr
  have h2 : (off - 0x580000) / 0x8000 < 7 := by omega
  have h3 : winOff ((off - 0x580000) / 0x8000) = off := by simp only [winOff]; omega
  simp only [exec, execHostWindowPublish, h2, h3, decide_true, if_true]

end Sys2Proof.Machine

open Sys2Proof.Machine

/-- Settles O9: each command is one update of the channel's open rows, read back by the laws of the map. -/
theorem rowCommandsComplete : Obligations.RowCommandsComplete := by
  intro ch sub bank row s hs h hb
  have hc := portReady_chan h
  have hl : ch < s.chans.length := hs.chanCount ▸ hc
  obtain ⟨-, -, -, -, -, -, -, -, -, -, -, -, hw, -⟩ := hs.chanOk hc
  refine ⟨fun hr => ⟨_, exec_activate h hb hr, rfl, ?_⟩, ⟨_, exec_precharge_bank h hb, rfl, ?_⟩,
    ⟨_, exec_precharge_all h, rfl, ?_⟩, rfl⟩
  · obtain ⟨ho, hu⟩ := modChan_rows (fun m => mapPut m (rowKey sub bank) row) hl
    exact ⟨ho, by rw [hu], fun j => by rw [hu]; exact mapFind_mapPut _ _ _ _⟩
  · obtain ⟨ho, hu⟩ := modChan_rows (fun m => mapDel m (rowKey sub bank)) hl
    exact ⟨ho, by rw [hu], fun j => by rw [hu]; exact mapFind_mapDel _ _ hw⟩
  · obtain ⟨ho, hu⟩ := modChan_rows (fun m => m.filter fun e => e.1 / 16 != sub) hl
    refine ⟨ho, by rw [hu], fun b hb' => by rw [hu]; exact mapFind_closeBanks _ hb', fun x r hm hx => ?_⟩
    rw [hu]
    exact List.mem_filter.2 ⟨hm, by simpa using hx⟩

/-- Settles O10: the write is a store at the offset of its open row, which the region decides; a unit that sets something off
is the very burst that its own command issues. -/
theorem hostWriteCompletes : Obligations.HostWriteCompletes := by
  refine ⟨fun ch sub bank col data mask md s h hb hr => exec_hostWrite_closed data mask md h hb hr, ?_⟩
  intro ch sub bank col row data mask md s hs hc h hb hr off kept
  have hl : ch < s.chans.length := hs.chanCount ▸ hc
  have hw := (hs.chanOk hc).1
  have he := exec_hostWrite_open data mask md h hb hr
  have hburst := fun d m => offsetBurst_burstOff (s := s) (ch := ch) (row := row) d m md hb
  refine ⟨fun hk => ⟨storeUnit s ch off data mask md, ?_, rfl, fun k hk => chanOf_modChan_other _ hk, ?_, ?_, ?_⟩,
    fun hg ho => ?_, fun hg ho => ?_, fun v ho => ?_, fun hg => ?_, fun hg => ?_⟩
  · have hg : regionOf off = .windows ∨ regionOf off = .slots ∨ regionOf off = .ingest :=
      hk.imp And.left (Or.imp And.left And.left)
    rw [he, portStore_backed _ _ _ hg, afterStore_quiet hk]
  · intro a
    rw [chanOf_storeUnit _ _ _ _ hl]
    exact memGet_maskedWrite hw off a data mask
  · intro u
    rw [chanOf_storeUnit _ _ _ _ hl]
    exact mapFind_mapPut _ _ _ _
  · rw [chanOf_storeUnit _ _ _ _ hl]
  · rw [exec_sealWrite_at data mask md hg ho]
    exact (hburst data mask).symm
  · rw [exec_hostWindowPublish_at data mask md hg ho]
    exact (hburst data mask).symm
  · rw [← hburst]
    exact congrArg (fun o => Host.Outcome.next (offsetBurst s ch o (padTo 32 (leBytes 4 v.toNat)) 0xF md)) ho
  · rw [he, portStore_readOnly _ _ _ hg]
    rfl
  · rw [he, portStore_unbacked _ _ _ hg]
    rfl

end

section
/-!
PROOF. The host port (02): what a host read returns, without and with an uncorrectable error, from the units of the identity
page and the metadata of a unit. R47, R58, R59, R63, R65, R86, R445.
-/
namespace Sys2Proof.Machine

variable {s : State} {ch sub bank col row off : Nat}

/-! ## Latency codes (R47) -/

/-- An update that leaves a channel as it is leaves the state. -/
theorem modChan_self {f : Chan → Chan} (h : f (chanOf s ch) = chanOf s ch) : modChan s ch f = s := by
  have key : ∀ (l : List Chan) (i : Nat), f (l.getD i Chan.reset) = l.getD i Chan.reset → updAt l i f = l := by
    intro l
    induction l with
    | nil => exact fun _ _ => rfl
    | cons c l ih =>
      intro i hi
      cases i with
      | zero => exact congrArg (· :: l) hi
      | succ i => exact congrArg (c :: ·) (ih i hi)
  rw [modChan, key _ _ h]

theorem sat32_of_lt {n : Nat} (h : n < 2 ^ 32) : sat32 n = n := by
  simp only [sat32]; omega

/-- Latency codes reported before are not reported again. -/
theorem reportLatency_reported (hl : (chanOf s ch).latencyErr < 2 ^ 32)
    (h : ∀ k ∈ (chanOf s ch).lowLat, k ∈ (chanOf s ch).lowRep) : reportLatency s ch = s := by
  have hf : (chanOf s ch).lowLat.filter (fun r => !(chanOf s ch).lowRep.contains r) = [] := by
    simpa [List.filter_eq_nil_iff] using h
  simp only [reportLatency, hf, List.map_nil, List.length_nil, Nat.add_zero, List.append_nil]
  exact modChan_self (by simp only [sat32_of_lt hl])

theorem latencyLow_eq_false (h : ∀ k ∈ (chanOf s ch).lowLat, k / 256 ≠ sub) : latencyLow s ch sub = false := by
  simpa [latencyLow] using h

/-! ## The identity page (R58, R86) -/

theorem leBytes_zero (n : Nat) : leBytes n 0 = List.replicate n 0 := by
  induction n with
  | zero => rfl
  | succ n ih => simp [leBytes, ih, List.replicate_succ]

/-- The magic, the variant and the number of dies (R58). -/
theorem idUnit_zero : (idUnit s ch 0).take 9 =
    leBytes 4 0x4C4E0880 ++ leBytes 2 1 ++ leBytes 1 s.variant ++ leBytes 1 0x10 ++ leBytes 1 (nDies s) := by
  simp [idUnit, idHead, padTo, List.take_append, List.take_of_length_le]

/-- The counters of R58. -/
theorem idUnit_counters : idUnit s ch 0x20 =
    leBytes 4 (chanOf s ch).unbacked ++ leBytes 4 (chanOf s ch).roWrites ++ leBytes 4 (chanOf s ch).unsupported ++
      leBytes 4 (chanOf s ch).latencyErr ++ leBytes 4 (chanOf s ch).sramUe ++ leBytes 12 0 := by
  simp [idUnit, idHead, padTo, List.drop_append, List.drop_of_length_le, List.take_of_length_le]

/-- P, C and the commands in flight (R86). -/
theorem idUnit_positions : (idUnit s ch 0x100).take 10 =
    leBytes 4 (chanOf s ch).prod ++ leBytes 4 (chanOf s ch).cons ++ leBytes 2 (chanOf s ch).inflight.length := by
  simp [idUnit, idMailbox, padTo, List.take_append, List.take_of_length_le]

/-- The state of the transaction (R86). -/
theorem idUnit_txn : idUnit s ch 0x120 = leBytes 1 s.txn.st ++ leBytes 31 0 := by
  simp [idUnit, idMailbox, padTo, leBytes_zero, List.take_append, List.take_of_length_le, List.drop_append,
    List.drop_of_length_le]

/-- Where the page holds nothing it reads 0. -/
theorem idUnit_empty (h : 0x40 ≤ off ∧ off < 0x100 ∨ 0x1000 ≤ off) : idUnit s ch off = List.replicate 32 0 := by
  rw [idUnit, if_neg (by omega), if_neg (by omega), if_neg (by omega), if_neg (by omega)]
  simp [padTo]

/-! ## Data and metadata of a unit (R59, R63, R65) -/

theorem unitData_identity (h : regionOf off = .identity) : unitData s ch off = idUnit s ch off := by
  simp only [unitData, h]

theorem unitData_unbacked (h : regionOf off = .unbacked) : unitData s ch off = List.replicate 32 0 := by
  simp only [unitData, h, leBytes_zero]

/-- The regions whose units the aperture's SRAM stores are those it backs. -/
theorem backed_iff : backed (regionOf off) = true ↔
    regionOf off = .windows ∨ regionOf off = .slots ∨ regionOf off = .ring ∨ regionOf off = .ingest := by
  cases regionOf off <;> simp [backed]

theorem unitData_backed (h : backed (regionOf off) = true) : unitData s ch off = memRead (chanOf s ch).mem off 32 := by
  rcases backed_iff.1 h with h | h | h | h <;> simp only [unitData, h]

theorem unitMeta_host {m : BitVec 32} (h : mapFind (chanOf s ch).hostMeta (off / 32) = some m) (ue : Bool)
    (d : List Byte) : unitMeta s ch off ue d = if ue then ~~~ m else m := by
  simp only [unitMeta, h]

theorem unitMeta_device (h : mapFind (chanOf s ch).hostMeta (off / 32) = none) (d : List Byte) :
    unitMeta s ch off false d = if cfgFld s rHptCfg ch 0 0 = 1 then rsMeta d else 0 := by
  simp [unitMeta, h, genMeta]

theorem unitMeta_device_inverted (h : mapFind (chanOf s ch).hostMeta (off / 32) = none) (d : List Byte) :
    unitMeta s ch off true d = if cfgFld s rHptCfg ch 0 0 = 1 then ~~~ (rsMeta d) else 0 := by
  by_cases hm : cfgFld s rHptCfg ch 0 0 = 1 <;> simp [unitMeta, h, genMeta, hm]

/-! ## Burst reads (R59, R62, R65) -/

theorem exec_hostRead_open (ue : Bool) (asRead : List Byte) (h : portReady s ch sub = true)
    (hb : burstOk sub bank col = true) (hr : mapFind (chanOf s ch).rows (rowKey sub bank) = some row) :
    exec (.hostRead ch sub bank col ue asRead) s = .next (portRead s ch (burstOff row bank col sub) ue asRead) := by
  simp [exec, execHostRead, accessOff, h, hb, hr]

/-- The port's outputs after a burst read. -/
def readOut (s : State) (ch : Nat) (d : List Byte) (m : BitVec 32) : State :=
  modChan s ch (fun c => { c with rdData := d, rdMeta := m })

/-- The event and the counters of an uncorrectable error (R65, R445). -/
def readFailed (s : State) (ch off : Nat) : State :=
  raise (cntAdd (modChan s ch (fun c => { c with sramUe := sat32 (c.sramUe + 1) })) rMgpSramCnt 2 1)
    [{ code := 0x0203, die := 0, loc := ch, detail := leBytes 4 off }]

theorem portRead_clean (hp : reportLatency s ch = s) (hl : latencyLow s ch (subOfOff off) = false)
    (asRead : List Byte) :
    portRead s ch off false asRead = readOut s ch (unitData s ch off) (unitMeta s ch off false (unitData s ch off)) := by
  simp [portRead, hp, hl, readOut]

theorem portRead_uncorrectable (hp : reportLatency s ch = s) (hl : latencyLow s ch (subOfOff off) = false)
    {asRead : List Byte} (hb : backed (regionOf off) = true) (hn : asRead.length = 32) :
    portRead s ch off true asRead = readFailed (readOut s ch asRead (unitMeta s ch off true asRead)) ch off := by
  simp [portRead, hp, hl, hb, padTo_exact hn, readOut, readFailed]

theorem chanOf_readOut (d : List Byte) (m : BitVec 32) (hc : ch < s.chans.length) :
    chanOf (readOut s ch d m) ch = { chanOf s ch with rdData := d, rdMeta := m } := chanOf_modChan _ _ hc

theorem readOut_inv (d : List Byte) (m : BitVec 32) (hs : Inv s) : Inv (readOut s ch d m) := by
  have : Good s (readOut s ch d m) := by simp (maxDischargeDepth := 99) [readOut, hs.good]
  exact this.inv

theorem readFailed_rest : restOf (readFailed s ch off) = restOf (cntAdd s rMgpSramCnt 2 1) := by
  rw [readFailed, raise_rest]
  rfl

theorem readFailed_logged : Logged s (readFailed s ch off) 0x0203 ch :=
  raise_logs _ rfl rfl (by simp [Ev.whr])

/-- An uncorrectable error is counted at its channel and leaves the data read as they are. -/
theorem readFailed_port (hs : Inv s) (hc : ch < 2) :
    (chanOf (readFailed s ch off) ch).rdData = (chanOf s ch).rdData ∧
      (chanOf (readFailed s ch off) ch).rdMeta = (chanOf s ch).rdMeta ∧
      (chanOf (readFailed s ch off) ch).sramUe = sat32 ((chanOf s ch).sramUe + 1) := by
  let u := cntAdd (modChan s ch (fun c => { c with sramUe := sat32 (c.sramUe + 1) })) rMgpSramCnt 2 1
  have hg : Good s u := by simp (maxDischargeDepth := 99) [u, hs.good]
  have hu : chanOf u ch = { chanOf s ch with sramUe := sat32 ((chanOf s ch).sramUe + 1) } :=
    chanOf_modChan _ _ (hs.chanCount ▸ hc)
  have hp : portOf (chanOf (readFailed s ch off) ch) = portOf (chanOf u ch) := (raise_pennants _ hg.inv ch).1
  rw [hu] at hp
  exact ⟨(congrArg Chan.rdData hp :), (congrArg Chan.rdMeta hp :), (congrArg Chan.sramUe hp :)⟩

end Sys2Proof.Machine

open Sys2Proof.Machine

/-- Settles O11: with every low latency code reported and none of the sub-channel's own, a read drives the port's outputs from
the unit at its offset; an uncorrectable error adds its counters and its event. -/
theorem hostReadCompletes : Obligations.HostReadCompletes := by
  intro ch sub bank col row asRead s hs hc h hb hr hlow c off stored made
  have hl : ch < s.chans.length := hs.chanCount ▸ hc
  obtain ⟨-, -, -, -, -, -, hle, -⟩ := hs.chanOk hc
  have hp : reportLatency s ch = s := reportLatency_reported hle fun k hk => (hlow k hk).2
  have hq : latencyLow s ch (subOfOff off) = false :=
    latencyLow_eq_false fun k hk => subOfOff_burstOff hb ▸ (hlow k hk).1
  constructor
  · have hu := chanOf_readOut (unitData s ch off) (unitMeta s ch off false (unitData s ch off)) hl
    refine ⟨readOut s ch (unitData s ch off) (unitMeta s ch off false (unitData s ch off)), ?_, rfl,
      fun k hk => chanOf_modChan_other _ hk, by rw [hu], ?_⟩
    · rw [exec_hostRead_open false asRead h hb hr, portRead_clean hp hq]
    rw [hu]
    dsimp only
    refine ⟨unitData_unbacked, fun hd => unitData_backed (backed_iff.2 hd), fun hi => ?_, fun m hm => ?_,
      fun hm => unitMeta_device hm _⟩
    · rw [unitData_identity hi]
      exact ⟨rfl, fun ho => ho ▸ idUnit_zero, fun ho => ho ▸ idUnit_counters, fun ho => ho ▸ idUnit_positions,
        fun ho => ho ▸ idUnit_txn, idUnit_empty⟩
    · exact unitMeta_host hm false _
  · intro hd hn
    let m := unitMeta s ch off true asRead
    have hu := chanOf_readOut asRead m hl
    obtain ⟨h1, h2, h3⟩ := readFailed_port (off := off) (readOut_inv (ch := ch) asRead m hs) hc
    rw [hu] at h1 h2 h3
    refine ⟨readFailed (readOut s ch asRead m) ch off, ?_, readFailed_rest, h1, fun x hx => ?_, fun hx => ?_, h3,
      readFailed_logged⟩
    · rw [exec_hostRead_open true asRead h hb hr, portRead_uncorrectable hp hq (backed_iff.2 hd) hn]
    · exact h2.trans (unitMeta_host hx true _)
    · exact h2.trans (unitMeta_device_inverted hx _)

end

section
/-!
PROOF. The host port (02): training, mode registers, the interface's low-power states, the data rate and HINT_N. R44, R45,
R46, R50, R51, R52, R66.
-/
namespace Sys2Proof.Machine

variable {s : State} {ch sub : Nat}

/-! ## Training (R46, R50) -/

theorem train_ready (f : Trained → Trained) (h : portReady s ch sub = true) :
    train s ch sub f = modChan s ch (fun c => { c with trained := updAt c.trained sub f }) := by
  rw [train, if_pos h]

theorem trainedOf_train (f : Trained → Trained) (h : portReady s ch sub = true) (hc : ch < s.chans.length)
    (ht : sub < (chanOf s ch).trained.length) : trainedOf (train s ch sub f) ch sub = f (trainedOf s ch sub) := by
  rw [train_ready f h, trainedOf, chanOf_modChan _ _ hc]
  exact updAt_getD_same _ _ _ _ ht

theorem train_rest (f : Trained → Trained) : restOf (train s ch sub f) = restOf s := by
  unfold train
  split <;> rfl

@[simp] theorem train_count (f : Trained → Trained) : (train s ch sub f).chans.length = s.chans.length := by
  unfold train
  split <;> simp

theorem exec_readCalibration (mr : Nat) (h : portReady s ch sub = true) :
    exec (.readCalibration ⟨ch, sub⟩ mr) s =
      .next (modChan (train s ch sub fun t => { t with rd := true }) ch
        (fun c => { c with mrOut := modeValue s ch sub mr })) := by
  simp only [exec, execReadCalibration, h, if_true]

/-! ## Mode registers (R51) -/

theorem modeWritable_fixed {mr : Nat} (h : 4 ≤ mr ∧ mr ≤ 8) : modeWritable mr = false := by
  simp [modeWritable, modeClassOf, modeFixed, h]

theorem modeValue_writable {mr : Nat} (h : modeWritable mr = true) :
    modeValue s ch sub mr = modeStored (chanOf s ch) sub mr := by
  have h1 : ¬ (4 ≤ mr ∧ mr ≤ 8) := fun x => by simp [modeWritable_fixed x] at h
  rw [modeValue, if_neg (by omega), if_neg (by omega), if_neg (by omega), if_neg (by omega), if_neg (by omega),
    if_pos h]

/-- A sub-channel's mode register reads as before where what is stored for it does and the variant stays. -/
theorem modeValue_congr {t : State} {mr : Nat} (hv : t.variant = s.variant)
    (h : modeStored (chanOf t ch) sub mr = modeStored (chanOf s ch) sub mr) :
    modeValue t ch sub mr = modeValue s ch sub mr := by
  simp only [modeValue, hv, h]

theorem mrKey_ne {a b m n : Nat} (hab : a ≠ b) (hm : m < 256) (hn : n < 256) : mrKey a m ≠ mrKey b n := by
  simp only [mrKey]; omega

theorem exec_modeRegisterWrite_writable {mr : Nat} (v : Byte) (low : Bool) (h : portReady s ch sub = true)
    (hw : modeWritable mr = true) :
    exec (.modeRegisterWrite ⟨ch, sub⟩ mr v low) s = .next (modeStore s ch sub mr v low) := by
  simp only [exec, execModeRegisterWrite, h, hw, if_true]

theorem exec_modeRegisterWrite_readOnly {mr : Nat} (v : Byte) (low : Bool) (h : portReady s ch sub = true)
    (hw : modeWritable mr = false) :
    exec (.modeRegisterWrite ⟨ch, sub⟩ mr v low) s =
      .next (modChan s ch (fun c => { c with roWrites := sat32 (c.roWrites + 1) })) := by
  simp [exec, execModeRegisterWrite, h, hw]

/-- A write whose latency code is not low is an update of the channel's registers and of the codes it keeps note of. -/
theorem modeStore_ordinary (mr : Nat) (v : Byte) :
    modeStore s ch sub mr v false = modChan s ch (fun c =>
      { c with mr := mapPut c.mr (mrKey sub mr) v, lowLat := c.lowLat.filter (· != mrKey sub mr),
               lowRep := c.lowRep.filter (· != mrKey sub mr) }) := by
  simp [modeStore]

theorem modeStore_rest (mr : Nat) (v : Byte) : restOf (modeStore s ch sub mr v false) = restOf s := by
  rw [modeStore_ordinary, modChan_rest]

theorem modeStore_log (mr : Nat) (v : Byte) : (modeStore s ch sub mr v false).log = s.log := by
  rw [modeStore_ordinary, modChan_log]

theorem modeStored_modeStore_same (mr : Nat) (v : Byte) (hc : ch < s.chans.length) :
    modeStored (chanOf (modeStore s ch sub mr v false) ch) sub mr = v := by
  rw [modeStore_ordinary, chanOf_modChan _ _ hc, modeStored]
  dsimp only
  rw [mapFind_mapPut_same, Option.getD_some]

theorem modeStored_modeStore_other {mr b m : Nat} (v : Byte) (hc : ch < s.chans.length)
    (h : mrKey b m ≠ mrKey sub mr) :
    modeStored (chanOf (modeStore s ch sub mr v false) ch) b m = modeStored (chanOf s ch) b m := by
  rw [modeStore_ordinary, chanOf_modChan _ _ hc, modeStored]
  dsimp only
  rw [mapFind_mapPut_other _ _ h]
  rfl

/-! ## Low-power states (R52) -/

theorem portLow_from {a b : PortPower} (h : portLive s ch = true) (hb : sub < 2) (ha : lowOf s ch sub = a) :
    portLow s ch sub a b = modChan s ch (fun c => { c with low := updAt c.low sub (fun _ => b) }) := by
  simp [portLow, h, hb, ha]

/-! ## Data rate (R45, R69) -/

theorem flushRateEvent_none (h : (chanOf s ch).rateEvent = false) : flushRateEvent s ch = s := by
  simp [flushRateEvent, h]

/-- A rate within the range, with no event of a rate still to be written, changes the channel's rate and latency codes. -/
theorem exec_hostRateChange_inRange {rate : Nat} (hx : chanExists s ch = true) (hc : ch < 2) (hl : ch < s.chans.length)
    (he : ∀ k, (chanOf s k).rateEvent = false) (hr : rateOk rate = true) :
    exec (.hostRateChange ch rate []) s = .next (modChan s ch (fun c => { c with rate := rate, lowLat := [] })) := by
  have h1 : ∀ k, (chanOf (modChan s ch (fun c => { c with rate := rate, lowLat := [] })) k).rateEvent = false := by
    intro k
    by_cases hk : k = ch
    · rw [hk, chanOf_modChan _ _ hl]
      exact he ch
    · rw [chanOf_modChan_other _ hk]
      exact he k
  simp only [exec, execHostRateChange, hx, hc, hr, decide_true, Bool.and_self, if_true, Bool.not_true, Bool.and_false,
    Bool.false_eq_true, if_false, List.filter_nil]
  rw [flushRateEvent_none (h1 0), flushRateEvent_none (h1 1)]

/-! ## HINT_N (R66) -/

theorem hintUpdate_disabled (h : cfgFld s rHptHintCfg 0 31 31 = 0) : (hintUpdate s).pins.hint = false := by
  simp [hintUpdate, h]

/-- With nothing pending in either ring HINT_N is released. -/
theorem hintUpdate_idle (h : ∀ c ∈ s.chans, ringPending c = 0) : (hintUpdate s).pins.hint = false := by
  have h1 : s.chans.any (fun c => ringPending c != 0) = false := by simpa using h
  simp [hintUpdate, h1]

/-- The condition of R66 on a channel drives HINT_N while hints are enabled. -/
theorem hintUpdate_driven {c : Chan} (he : cfgFld s rHptHintCfg 0 31 31 = 1) (hm : c ∈ s.chans)
    (hp : ringPending c ≠ 0) (hc : hintCond s c = true) : (hintUpdate s).pins.hint = true := by
  have h1 : s.chans.any (fun c => ringPending c != 0) = true := List.any_eq_true.2 ⟨c, hm, by simpa using hp⟩
  have h2 : s.chans.any (hintCond s) = true := List.any_eq_true.2 ⟨c, hm, hc⟩
  simp [hintUpdate, he, h1, h2]

/-- It holds once the oldest pending pennant has waited for the holdoff. -/
theorem hintCond_of_waited {c : Chan} {p : Nat} {l : List Nat} (hp : c.penTimes = p :: l)
    (hw : p + cfgFld s rHptHintCfg 0 11 0 * 1000 ≤ s.raw) : hintCond s c = true := by
  simp [hintCond, hp, hw]

theorem chanOf_mem (hc : ch < s.chans.length) : chanOf s ch ∈ s.chans := by
  simp [chanOf, List.getD_eq_getElem?_getD, hc]

theorem mem_chans {c : Chan} (h : c ∈ s.chans) : ∃ k, k < s.chans.length ∧ chanOf s k = c := by
  obtain ⟨k, hk, rfl⟩ := List.mem_iff_getElem.1 h
  exact ⟨k, hk, by simp [chanOf, List.getD_eq_getElem?_getD, hk]⟩

end Sys2Proof.Machine

open Sys2Proof.Machine

/-- Settles O12: each command is one update of its channel or of HINT_N, read back by the laws of the trained settings and of
the mode registers. -/
theorem interfaceCommandsComplete : Obligations.InterfaceCommandsComplete := by
  refine ⟨?_, ?_, ?_⟩
  · intro ch sub s hs hc ht h set
    have hl : ch < s.chans.length := hs.chanCount ▸ hc
    have hsub : sub < 2 := (portReady_iff.1 h).2.1
    have htl : sub < (chanOf s ch).trained.length := ht ▸ hsub
    refine ⟨congrArg _ (train_ready _ h), congrArg _ (train_ready _ h), congrArg _ (train_ready _ h),
      fun mr => ⟨_, exec_readCalibration mr h, ?_, ?_, train_rest _⟩,
      ⟨_, rfl, ?_, ?_, train_rest _⟩, ⟨_, rfl, ?_, train_rest _⟩, fun mr => ?_, fun mr v hm hw => ?_,
      fun mr v low h4 h8 => exec_modeRegisterWrite_readOnly v low h (modeWritable_fixed ⟨h4, h8⟩)⟩
    · rw [trainedOf, chanOf_modChan _ _ (by rwa [train_count])]
      exact congrArg Trained.rd (trainedOf_train _ h hl htl)
    · rw [chanOf_modChan _ _ (by rwa [train_count])]
    · exact congrArg Trained.zqStarted (trainedOf_train _ h hl htl)
    · exact congrArg Trained.zqLatched (trainedOf_train _ h hl htl)
    · exact congrArg Trained.zqLatched (trainedOf_train _ h hl htl)
    · simp only [exec, execModeRegisterRead, h, if_true]
    · refine ⟨_, exec_modeRegisterWrite_writable v false h hw, ?_, modeStore_rest mr v,
        modeStore_log mr v, fun m hm' => modeValue_congr (rest_variant (modeStore_rest mr v)) ?_⟩
      · rw [modeValue_writable hw, modeStored_modeStore_same _ _ hl]
      · exact modeStored_modeStore_other v hl (mrKey_ne (by omega) hm' hm)
  · intro ch sub s h hsub go
    refine ⟨fun ha => ⟨congrArg _ (portLow_from h hsub ha), congrArg _ (portLow_from h hsub ha), ?_⟩,
      fun ha => congrArg _ (portLow_from h hsub ha), fun ha => congrArg _ (portLow_from h hsub ha)⟩
    have hr : portReady s ch sub = true := portReady_iff.2 ⟨h, hsub, ha⟩
    simp only [exec, execUnsupportedCommand, hr, if_true]
    rfl
  · intro ch s hn hc
    have hl : ch < s.chans.length := hn ▸ hc
    refine ⟨fun rate hx he h1 h2 =>
        ⟨_, exec_hostRateChange_inRange hx hc hl he (by simp [rateOk, h1, h2]), ?_, ?_, rfl, rfl⟩,
      hintUpdate s, rfl, rfl, hintUpdate_disabled, fun hz => hintUpdate_idle ?_, ?_⟩
    · rw [chanOf_modChan _ _ hl]
    · rw [chanOf_modChan _ _ hl]
    · intro c hm
      obtain ⟨k, hk, rfl⟩ := mem_chans hm
      exact hz k (hn ▸ hk)
    · rintro he ⟨p, l, hp, hw⟩ hr
      exact hintUpdate_driven he (chanOf_mem hl) hr (hintCond_of_waited hp hw)

end

section
/-!
PROOF. Frame stages (06): what a tile of a stage leaves of the state besides its frame, and what replacing a frame does to
the frames read afterwards. R200.
-/
namespace Sys2Proof.Machine

variable {s t : State} {ctx num : Nat} {f g : Frame}

/-! ## Frames by context and number -/

/-- The unsealed frame of a context and number. -/
def isFrame (x n : Nat) (f : Frame) : Bool := f.ctx == x && f.num == n && f.phase != .sealed

theorem isFrame_iff {x n : Nat} : isFrame x n f = true ↔ (f.ctx, f.num) = (x, n) ∧ f.phase ≠ .sealed := by
  simp [isFrame]

theorem frameOf_isFrame (h : frameOf s ctx num = some f) : isFrame ctx num f = true :=
  List.find?_some (p := isFrame ctx num) h

/-- A step that keeps the list of frames keeps each of them. -/
theorem frameOf_congr (h : t.frames = s.frames) (x n : Nat) : frameOf t x n = frameOf s x n := by
  rw [frameOf, h, frameOf]

theorem setFrame_frames (s : State) (g : Frame) :
    (setFrame s g).frames = s.frames.map (fun f => if isFrame g.ctx g.num f then g else f) := by
  simp only [setFrame, modFrameAt, unsealed, isFrame, Bool.and_right_comm]
  rfl

theorem working_not_sealed (h : working f = true) : f.phase ≠ .sealed := by
  intro hp
  simp [working, hp] at h

/-- An unsealed frame takes the place of the one of its context and number; the others stay. -/
theorem frameOf_setFrame (s : State) (hp : g.phase ≠ .sealed) (x n : Nat) :
    frameOf (setFrame s g) x n = (frameOf s x n).map fun k => if (g.ctx, g.num) = (x, n) then g else k := by
  have hsame : ∀ k, isFrame g.ctx g.num k = true → isFrame x n g = isFrame x n k := by
    intro k hk
    obtain ⟨hkey, hopen⟩ := isFrame_iff.1 hk
    rw [Bool.eq_iff_iff, isFrame_iff, isFrame_iff, hkey]
    exact and_congr_right fun _ => iff_of_true hp hopen
  have hsel : (isFrame x n ∘ fun k => if isFrame g.ctx g.num k then g else k) = isFrame x n := by
    funext k
    by_cases hk : isFrame g.ctx g.num k = true
    · simp [hk, hsame k hk]
    · simp [hk]
  change (setFrame s g).frames.find? (isFrame x n) = (s.frames.find? (isFrame x n)).map _
  rw [setFrame_frames, List.find?_map, hsel]
  refine Option.map_congr fun k hk => ?_
  obtain ⟨hkey, hopen⟩ := isFrame_iff.1 (List.find?_some hk)
  have hpick : isFrame g.ctx g.num k = true ↔ (g.ctx, g.num) = (x, n) := by
    rw [isFrame_iff, hkey]
    exact ⟨fun h => h.1.symm, fun h => ⟨h.symm, hopen⟩⟩
  simp only [hpick]

theorem frameOf_raise (s : State) (l : List Ev) (x n : Nat) : frameOf (raise s l) x n = frameOf s x n :=
  frameOf_congr (raise_frames s l) x n

/-! ## What a tile leaves alone -/

/-- A state without its counters and its dies: a tile of a stage leaves all of it alone but its frame, before it raises
events. -/
def stageRestOf (s : State) : State := { s with cnt := [], dies := [] }

theorem stageRest_frames (h : stageRestOf t = stageRestOf s) : t.frames = s.frames :=
  (congrArg State.frames h : (stageRestOf t).frames = (stageRestOf s).frames)

theorem stageRest_ctxs (h : stageRestOf t = stageRestOf s) : t.ctxs = s.ctxs :=
  (congrArg State.ctxs h : (stageRestOf t).ctxs = (stageRestOf s).ctxs)

theorem stageRest_chans (h : stageRestOf t = stageRestOf s) : t.chans = s.chans :=
  (congrArg State.chans h : (stageRestOf t).chans = (stageRestOf s).chans)

@[simp] theorem ctxCnt_stageRest (s : State) (reg x n k : Nat) :
    stageRestOf (ctxCnt s reg x n k) = stageRestOf s := rfl

@[simp] theorem returnLeave_stageRest (s : State) (f : Frame) (d who : Nat) :
    stageRestOf (returnLeave s f d who) = stageRestOf s := rfl

@[simp] theorem returnStreams_stageRest (s : State) (f : Frame) (op : Nat) :
    stageRestOf (returnStreams s f op) = stageRestOf s := rfl

/-- What each item of a list leaves alone, the whole list does. -/
theorem foldl_stageRest {α : Type} {step : State → α → State}
    (h : ∀ s a, stageRestOf (step s a) = stageRestOf s) (l : List α) (s : State) :
    stageRestOf (l.foldl step s) = stageRestOf s := by
  induction l generalizing s with
  | nil => rfl
  | cons a l ih => exact (ih _).trans (h s a)

/-- A stamp changes the list of stamps only. -/
theorem exists_stamp (s : State) (f : Frame) (code op : Nat) : ∃ l, stamp s f code op = { f with stamps := l } := by
  unfold stamp
  split
  · exact ⟨_, rfl⟩
  · exact ⟨f.stamps, rfl⟩

/-- A tile that replaces its frame by one of the same context, number and phase: the frame reads back. -/
theorem frameOf_setFrame_tile (hf : frameOf s ctx num = some f) (hs : stageRestOf t = stageRestOf s)
    (hw : working f = true) (hx : g.ctx = f.ctx) (hn : g.num = f.num) (hp : g.phase = f.phase) :
    frameOf (setFrame t g) ctx num = some g := by
  have hkey : (g.ctx, g.num) = (ctx, num) := by rw [hx, hn, (isFrame_iff.1 (frameOf_isFrame hf)).1]
  rw [frameOf_setFrame t (hp ▸ working_not_sealed hw), frameOf_congr (stageRest_frames hs), hf, Option.map_some,
    if_pos hkey]

/-- Then every other frame stays. -/
theorem frameOf_setFrame_tile_other {x n : Nat} (hf : frameOf s ctx num = some f)
    (hs : stageRestOf t = stageRestOf s) (hw : working f = true) (hx : g.ctx = f.ctx) (hn : g.num = f.num)
    (hp : g.phase = f.phase) (h : (x, n) ≠ (ctx, num)) : frameOf (setFrame t g) x n = frameOf s x n := by
  have hkey : (g.ctx, g.num) ≠ (x, n) := by rw [hx, hn, (isFrame_iff.1 (frameOf_isFrame hf)).1]; exact h.symm
  rw [frameOf_setFrame t (hp ▸ working_not_sealed hw), frameOf_congr (stageRest_frames hs)]
  simp only [hkey, if_false, Option.map_id']

theorem setFrame_tile_ctxs (hs : stageRestOf t = stageRestOf s) : (setFrame t g).ctxs = s.ctxs :=
  (stageRest_ctxs hs :)

theorem setFrame_tile_chans (hs : stageRestOf t = stageRestOf s) : (setFrame t g).chans = s.chans :=
  (stageRest_chans hs :)

end Sys2Proof.Machine
end

section
/-!
PROOF. Deskew (06): what one point and one tile of a die add to a frame. R187, R200.
-/
namespace Sys2Proof.Machine

variable {s : State} {ctx num die : Nat} {f : Frame}

theorem mem_dptInsert {p q : DPt} {l : List DPt} : q ∈ dptInsert p l ↔ q = p ∨ q ∈ l := by
  induction l with
  | nil => simp [dptInsert]
  | cons r l ih =>
    rw [dptInsert]
    split
    · simp [ih, or_left_comm]
    · simp

/-- The deskewed point of a frame's point j: none without the point or a pose, or where the result leaves 32 bits
(R187). -/
def deskewedAt (desc : List Byte) (f : Frame) (j : Nat) : Option DPt :=
  f.pts[j]?.bind fun p =>
    (deskewPt desc (snapTab f p.sensor) p).bind fun q => if q.fits then some ⟨j, q.x, q.y, q.z, p⟩ else none

theorem deskewedAt_of_fits {desc : List Byte} {j : Nat} {p : Pt} {q : Placed} (hp : f.pts[j]? = some p)
    (hq : deskewPt desc (snapTab f p.sensor) p = some q) (hfit : q.fits = true) :
    deskewedAt desc f j = some ⟨j, q.x, q.y, q.z, p⟩ := by
  rw [deskewedAt, hp, Option.bind_some, hq, Option.bind_some, if_pos hfit]

/-- A frame's deskewed points with those of the indexes js. -/
def IsDeskewed (desc : List Byte) (f : Frame) (js : List Nat) (l : List DPt) : Prop :=
  ∀ q, q ∈ l ↔ q ∈ f.dpts ∨ ∃ j ∈ js, deskewedAt desc f j = some q

/-- A pose event marks the frame only. -/
theorem exists_poseEvent (f : Frame) (code d k : Nat) :
    ∃ ev, (poseEvent f code d k).1 = { f with poseEvents := ev } := by
  unfold poseEvent
  dsimp only
  split
  · exact ⟨f.poseEvents, rfl⟩
  · exact ⟨_, rfl⟩

theorem deskewOne_stageRest (d : Nat) (desc : List Byte) (a : State × Frame × List Ev) (j : Nat) :
    stageRestOf (deskewOne d desc a j).1 = stageRestOf a.1 := by
  unfold deskewOne
  repeat' split
  all_goals simp

/-- Deskewing a point marks pose events and adds the deskewed point, if there is one. -/
theorem exists_deskewOne (d : Nat) (desc : List Byte) (a : State × Frame × List Ev) (j : Nat) :
    ∃ ev l, (deskewOne d desc a j).2.1 = { a.2.1 with poseEvents := ev, dpts := l } ∧
      IsDeskewed desc a.2.1 [j] l := by
  obtain ⟨s, f, e⟩ := a
  cases hp : f.pts[j]? with
  | none => exact ⟨f.poseEvents, f.dpts, by simp [deskewOne, hp], by simp [IsDeskewed, deskewedAt, hp]⟩
  | some p =>
    cases hq : deskewPt desc (snapTab f p.sensor) p with
    | none =>
      obtain ⟨ev, he⟩ := exists_poseEvent f 0x0780 d p.sensor
      exact ⟨ev, f.dpts, by simp [deskewOne, hp, hq, he], by simp [IsDeskewed, deskewedAt, hp, hq]⟩
    | some q =>
      obtain ⟨ev, he⟩ : ∃ ev, (if q.stale then poseEvent f 0x0781 d p.sensor else (f, [])).1 =
          { f with poseEvents := ev } := by
        split
        · exact exists_poseEvent f 0x0781 d p.sensor
        · exact ⟨f.poseEvents, rfl⟩
      by_cases hfit : q.fits = true
      · exact ⟨ev, dptInsert ⟨j, q.x, q.y, q.z, p⟩ f.dpts, by simp [deskewOne, hp, hq, hfit, he],
          fun x => by simp [deskewedAt_of_fits hp hq hfit, mem_dptInsert, or_comm, @eq_comm _ _ x]⟩
      · exact ⟨ev, f.dpts, by simp [deskewOne, hp, hq, hfit, he],
          by simp [IsDeskewed, deskewedAt, hp, hq, hfit]⟩

/-- The points of a tile, one after the other. -/
theorem exists_foldl_deskewOne (d : Nat) (desc : List Byte) (js : List Nat) (a : State × Frame × List Ev) :
    stageRestOf (js.foldl (deskewOne d desc) a).1 = stageRestOf a.1 ∧
      ∃ ev l, (js.foldl (deskewOne d desc) a).2.1 = { a.2.1 with poseEvents := ev, dpts := l } ∧
        IsDeskewed desc a.2.1 js l := by
  induction js generalizing a with
  | nil => exact ⟨rfl, a.2.1.poseEvents, a.2.1.dpts, rfl, by simp [IsDeskewed]⟩
  | cons j js ih =>
    obtain ⟨ev1, l1, h1, hm1⟩ := exists_deskewOne d desc a j
    obtain ⟨hrest, ev, l, h2, hm2⟩ := ih (deskewOne d desc a j)
    rw [h1] at h2 hm2
    refine ⟨hrest.trans (deskewOne_stageRest d desc a j), ev, l, h2, fun q => (hm2 q).trans ?_⟩
    rw [show deskewedAt desc { a.2.1 with poseEvents := ev1, dpts := l1 } = deskewedAt desc a.2.1 from rfl, hm1 q]
    simp [or_assoc]

/-- The end of a tile puts the frame with the number of points read, the half of the store and the stamp. -/
theorem exists_endDeskewTile (s : State) (f : Frame) (ds : List Nat) (d upto : Nat) :
    ∃ r half l, endDeskewTile s f ds d upto =
        setFrame r { f with dskDone := mapPut f.dskDone d upto, psHalf := half, stamps := l } ∧
      stageRestOf r = stageRestOf s := by
  have h1 : ∀ f1 : Frame,
      stageRestOf (if upto = dskTotal f ds.length (posIn ds d) then returnLeave s f1 d (512 + 0x07) else s) =
        stageRestOf s := fun f1 => by split <;> rfl
  unfold endDeskewTile
  dsimp only
  split
  · obtain ⟨l, hl⟩ := exists_stamp s { f with dskDone := mapPut f.dskDone d upto, psHalf := false } 2 0
    rw [hl]
    exact ⟨_, false, l, rfl, (returnStreams_stageRest _ _ _).trans (h1 _)⟩
  · exact ⟨_, f.psHalf, f.stamps, rfl, h1 _⟩

/-- The indexes of the points from number `done` up to `upto` of the die at position e of k (R187). -/
def shareIdx (k e done upto : Nat) : List Nat := (List.range (upto - done)).map (fun i => e + k * (done + i))

theorem mem_shareIdx {k e done upto i : Nat} (h : done ≤ i) (hi : i < upto) : e + k * i ∈ shareIdx k e done upto :=
  List.mem_map.2 ⟨i - done, List.mem_range.2 (by omega), by rw [Nat.add_sub_cancel' h]⟩

/-- A tile puts its frame with the deskewed points of the die's next share, and raises the pose events (R187, R200). -/
theorem exists_deskewTile (hf : frameOf s ctx num = some f) (hw : working f = true) (hd : die ∈ frameDies s f)
    (hr : stageReady s die 0x07 = true) (hl : holdsLeave s f die (512 + 0x07) = true)
    (ht : mapGet 0 f.dskDone die < dskTotal f (frameDies s f).length (posIn (frameDies s f) die)) :
    let ds := frameDies s f
    let done := mapGet 0 f.dskDone die
    let upto := min (dskTotal f ds.length (posIn ds die)) (done + 4096)
    ∃ r ev pts half l evs, exec (.deskewTile ctx num die) s =
        .next (raise (setFrame r { f with
          poseEvents := ev, dpts := pts, dskDone := mapPut f.dskDone die upto, psHalf := half, stamps := l }) evs) ∧
      stageRestOf r = stageRestOf s ∧
      IsDeskewed (dskDesc (pkgOfFrame s f)) f (shareIdx ds.length (posIn ds die) done upto) pts := by
  intro ds done upto
  let a := (shareIdx ds.length (posIn ds die) done upto).foldl (deskewOne die (dskDesc (pkgOfFrame s f))) (s, f, [])
  have he : exec (.deskewTile ctx num die) s = .next (raise (endDeskewTile a.1 a.2.1 ds die upto) a.2.2) := by
    simp [exec, execDeskewTile, shareIdx, hf, hw, hd, hr, hl, ht, a, ds, done, upto]
  obtain ⟨hs1, ev, pts, hg, hpts⟩ := exists_foldl_deskewOne die (dskDesc (pkgOfFrame s f))
    (shareIdx ds.length (posIn ds die) done upto) (s, f, [])
  obtain ⟨r, half, l, hend, hs2⟩ := exists_endDeskewTile a.1 a.2.1 ds die upto
  rw [hend, show a.2.1 = _ from hg] at he
  exact ⟨r, ev, pts, half, l, a.2.2, he, hs2.trans hs1, hpts⟩

end Sys2Proof.Machine
end

section
/-!
PROOF. Voxelisation (06): what one point does to the cells, where a tile ends, and the end of voxelisation. R195, R198,
R200.
-/
namespace Sys2Proof.Machine

variable {s : State} {ctx num : Nat} {c : Ctx} {f : Frame}

/-! ## One point in the hash -/

/-- From one state and frame to another under a cell cap: of the frame, only the cells, the counts of its classes and
the mark of a truncated frame change, and no cell is created past the cap (R195). -/
def VoxStep (cap : Nat) (a b : State × Frame) : Prop :=
  stageRestOf b.1 = stageRestOf a.1 ∧
    ∃ cells pairs cut, b.2 = { a.2 with cells := cells, pairs := pairs, truncated := cut } ∧
      cells.length ≤ max a.2.cells.length cap

theorem VoxStep.refl (cap : Nat) (a : State × Frame) : VoxStep cap a a :=
  ⟨rfl, a.2.cells, a.2.pairs, a.2.truncated, rfl, Nat.le_max_left ..⟩

theorem VoxStep.trans {cap : Nat} {a b c : State × Frame} (h : VoxStep cap a b) (k : VoxStep cap b c) :
    VoxStep cap a c := by
  obtain ⟨hs, cells, pairs, cut, hf, hc⟩ := h
  obtain ⟨ks, cells', pairs', cut', kf, kc⟩ := k
  rw [hf] at kf kc
  exact ⟨ks.trans hs, cells', pairs', cut', kf, Nat.le_trans kc (Nat.max_le.2 ⟨hc, Nat.le_max_right ..⟩)⟩

theorem refusePoint_voxStep (cap : Nat) (a : State × Frame) (n : Nat) : VoxStep cap a (refusePoint a n) := by
  refine ⟨?_, a.2.cells, a.2.pairs, true, rfl, Nat.le_max_left ..⟩
  unfold refusePoint
  dsimp only
  split <;> simp

theorem linkCell_length (v : List Byte) (cells : List Cell) (c : Cell) (found : List Nat) :
    (linkCell v cells c found).length = cells.length + 1 := by
  simp [linkCell]

/-- An entry is created below the cell cap only. -/
theorem createCell_voxStep (p : PkgDecl) (r cap : Nat) (a : State × Frame) (c : Cell) :
    VoxStep cap a (createCell p r cap a c) := by
  unfold createCell
  dsimp only
  split
  · exact refusePoint_voxStep cap a 4
  split
  · exact refusePoint_voxStep cap a 5
  · next hcap =>
    refine ⟨by simp, _, _, a.2.truncated, rfl, ?_⟩
    rw [linkCell_length]
    omega

theorem voxOne_voxStep (p : PkgDecl) (ds : List Nat) (r cap : Nat) (a : State × Frame) (q : DPt) :
    VoxStep cap a (voxOne p ds r cap a q) := by
  unfold voxOne
  dsimp only
  split
  · split
    · exact ⟨by simp, _, a.2.pairs, a.2.truncated, rfl, by rw [List.length_map]; exact Nat.le_max_left ..⟩
    · exact createCell_voxStep ..
    · exact refusePoint_voxStep ..
  · exact ⟨by simp, a.2.cells, a.2.pairs, a.2.truncated, rfl, Nat.le_max_left ..⟩

theorem foldl_voxOne_voxStep (p : PkgDecl) (ds : List Nat) (r cap : Nat) (l : List DPt) (a : State × Frame) :
    VoxStep cap a (l.foldl (voxOne p ds r cap) a) := by
  induction l generalizing a with
  | nil => exact VoxStep.refl cap a
  | cons q l ih => exact (voxOne_voxStep p ds r cap a q).trans (ih _)

/-! ## A tile -/

/-- The deskewed points that wait below an index (R200). -/
def waiting (f : Frame) (reach : Nat) : List DPt := f.dpts.filter (fun q => f.voxNext ≤ q.j && q.j < reach)

/-- The next index after a tile: past its last point, or the whole reach with fewer than 4,096 points. -/
def tileEnd (reach : Nat) (pts : List DPt) : Nat :=
  if pts.length < 4096 then reach else (pts.getLast?.map (·.j)).getD 0 + 1

/-- A tile goes on past the index that it starts from, and not past what deskew has read. -/
theorem tileEnd_bounds {reach : Nat} (h : f.voxNext < reach) :
    f.voxNext < tileEnd reach ((waiting f reach).take 4096) ∧
      tileEnd reach ((waiting f reach).take 4096) ≤ reach := by
  unfold tileEnd
  split
  · exact ⟨h, Nat.le_refl _⟩
  · next hlen =>
    have hne : (waiting f reach).take 4096 ≠ [] := fun he => hlen (by simp [he])
    have hmem := List.mem_of_mem_take (List.getLast_mem hne)
    obtain ⟨-, hlast⟩ := List.mem_filter.1 hmem
    simp only [Bool.and_eq_true, decide_eq_true_eq] at hlast
    rw [List.getLast?_eq_some_getLast hne]
    simp only [Option.map_some, Option.getD_some]
    omega

/-- A tile puts its frame with the cells of the points it takes on, and without the deskewed points below its end. -/
theorem exists_voxeliseTile (hc : ctxOf s ctx = some c) (hf : frameOf s ctx num = some f) (hw : working f = true)
    (hv : f.voxDone = false) (hr : vhuReady s f (maskDies c.dieMask) = true)
    (hn : f.voxNext < dskReach (maskDies c.dieMask) f)
    (ht : 4096 ≤ (waiting f (dskReach (maskDies c.dieMask) f)).length ∨
      dskReach (maskDies c.dieMask) f = f.pts.length) :
    let reach := dskReach (maskDies c.dieMask) f
    let nxt := tileEnd reach ((waiting f reach).take 4096)
    ∃ r cells pairs cut, exec (.voxeliseTile ctx num) s = .next (setFrame r
        { f with cells := cells, pairs := pairs, truncated := cut, voxNext := nxt,
                 dpts := f.dpts.filter (fun q => decide (nxt ≤ q.j)) }) ∧
      stageRestOf r = stageRestOf s ∧ cells.length ≤ max f.cells.length c.cellCap := by
  intro reach nxt
  let ds := maskDies c.dieMask
  let a := ((waiting f reach).take 4096).foldl
    (voxOne (declOf s c.pkg) ds (hashShare c.cellCap ds.length) c.cellCap) (s, f)
  have he : exec (.voxeliseTile ctx num) s =
      .next (setFrame a.1 { a.2 with voxNext := nxt, dpts := a.2.dpts.filter (fun q => decide (nxt ≤ q.j)) }) := by
    have hfull := ht.imp_left List.length_take_of_le
    simp only [exec, execVoxeliseTile, hc, hf, hw, hv, hr]
    rw [decide_eq_true hn, if_pos (by simpa only [Bool.not_false, Bool.and_self, Bool.true_and, Bool.or_eq_true,
      decide_eq_true_eq, waiting] using hfull)]
    rfl
  obtain ⟨hs, cells, pairs, cut, hg, hcells⟩ := foldl_voxOne_voxStep (declOf s c.pkg) ds
    (hashShare c.cellCap ds.length) c.cellCap ((waiting f reach).take 4096) (s, f)
  rw [show a.2 = _ from hg] at he
  exact ⟨a.1, cells, pairs, cut, he, hs, hcells⟩

/-! ## The end of voxelisation -/

theorem noteLast_stageRest (s : State) (p : PkgDecl) (f : Frame) : stageRestOf (noteLast s p f) = stageRestOf s := by
  refine foldl_stageRest (fun a q => ?_) _ s
  rfl

/-- The end of voxelisation puts its frame with the cells counted and without its half of the point store (R198). -/
theorem exists_voxelisationComplete (hc : ctxOf s ctx = some c) (hf : frameOf s ctx num = some f)
    (hw : working f = true) (hv : f.voxDone = false) (hd : dskAllDone (maskDies c.dieMask) f = true)
    (hn : f.pts.length ≤ f.voxNext) :
    ∃ r pairs l, exec (.voxelisationComplete ctx num) s =
        .next (setFrame r
          { f with voxDone := true, nCells := f.cells.length, psHalf := false, pairs := pairs, stamps := l }) ∧
      stageRestOf r = stageRestOf s := by
  let f1 : Frame :=
    { f with voxDone := true, nCells := f.cells.length, psHalf := false, pairs := allPairs (declOf s c.pkg) f.pairs }
  let s1 := (maskDies c.dieMask).foldl (fun a d => returnLeave a f1 d (512 + 0x08)) s
  obtain ⟨l, hl⟩ := exists_stamp s f1 3 1
  have he : exec (.voxelisationComplete ctx num) s =
      .next (setFrame (noteLast (returnStreams s1 f1 1) (declOf s c.pkg) f1) (stamp s f1 3 1)) := by
    simp [exec, execVoxelisationComplete, hc, hf, hw, hv, hd, hn, f1, s1]
  rw [hl] at he
  have hs1 : stageRestOf s1 = stageRestOf s := foldl_stageRest (fun a d => returnLeave_stageRest a f1 d _) _ s
  exact ⟨_, _, l, he, (noteLast_stageRest _ _ _).trans ((returnStreams_stageRest _ _ _).trans hs1)⟩

end Sys2Proof.Machine

open Sys2Proof.Machine

/-- Settles O39: each command puts one frame, whose fields the lemmas of its points give, over a state that differs in
counters, leave and the host's side only. -/
theorem deskewAndVoxelisationAdvance : Obligations.DeskewAndVoxelisationAdvance := by
  refine ⟨?_, ?_, ?_⟩
  · intro ctx num die s f _ hf ds e done upto hw hd hr hl ht
    obtain ⟨r, ev, pts, half, l, evs, hexec, hs, hpts⟩ := exists_deskewTile hf hw hd hr hl ht
    refine ⟨_, _, hexec, (frameOf_raise ..).trans (frameOf_setFrame_tile hf hs hw rfl rfl rfl), rfl, ?_,
      fun d hne => mapFind_mapPut_other _ _ hne, fun q hq => (hpts q).2 (.inl hq),
      fun i p q hi hu hp hq hfit => (hpts _).2 (.inr ⟨_, mem_shareIdx hi hu, ?_⟩),
      fun x n hne => (frameOf_raise ..).trans (frameOf_setFrame_tile_other hf hs hw rfl rfl rfl hne),
      (raise_ctxs ..).trans (setFrame_tile_ctxs hs)⟩
    · simp only [mapGet, mapFind_mapPut_same, Option.getD_some, upto, done, ds, e]
    · exact deskewedAt_of_fits hp hq hfit
  · intro ctx num s c f hc hf ds wait hw hv hr hn ht
    obtain ⟨r, cells, pairs, cut, hexec, hs, hcells⟩ := exists_voxeliseTile hc hf hw hv hr hn ht
    obtain ⟨hlt, hle⟩ := tileEnd_bounds hn
    refine ⟨_, _, hexec, frameOf_setFrame_tile hf hs hw rfl rfl rfl, hlt, hle, rfl, fun q hq => ?_, hcells,
      fun x n hne => frameOf_setFrame_tile_other hf hs hw rfl rfl rfl hne, setFrame_tile_ctxs hs,
      setFrame_tile_chans hs⟩
    obtain ⟨hm, hj⟩ := List.mem_filter.1 hq
    exact ⟨of_decide_eq_true hj, hm⟩
  · intro ctx num s c f hc hf hw hv hd hn
    obtain ⟨r, pairs, l, hexec, hs⟩ := exists_voxelisationComplete hc hf hw hv hd hn
    exact ⟨_, _, hexec, frameOf_setFrame_tile hf hs hw rfl rfl rfl, rfl, rfl, rfl, rfl, rfl,
      fun x n hne => frameOf_setFrame_tile_other hf hs hw rfl rfl rfl hne, setFrame_tile_ctxs hs,
      setFrame_tile_chans hs⟩

end
